-- ==== Sys2Proof/Word.lean ====
section
/-! DEFINITION. The byte of a frame and the two ports of the part. -/

namespace Sys2Proof

/-- One byte of a frame (R182). -/
abbrev Byte := BitVec 8

/-- The two ports of the part, in the order of R180: LINK, LINE. -/
inductive Port where
  /-- The link to the warehouse computer (chapter 10). -/
  | link
  /-- The carousel line (chapter 9). -/
  | line
  deriving DecidableEq, Repr

end Sys2Proof
end

