-- ==== Sys2Proof/Syntax.lean ====
section
/-! DEFINITION. The commands of the part: one constructor for each row of spec/opcode_table.json, in its order.
A row that the spec words as the taking of the head of a queue (CLASSIFY_FRAME, PASSTHROUGH, every management request)
has no operand of its own: its operands stand in the frame at that head (R174, log 2). -/

namespace Sys2Proof

/-- A command to the part: an event at a pin, a port or a timer, or the taking of a queue's head. -/
inductive Instr where
  /-- POWER_ON_RESET (R20): the straps as they are sampled at its end. -/
  | powerOnReset (station : Byte) (linkRate lineRate : BitVec 2)
  /-- LINK_BREAK (R173). -/
  | linkBreak
  /-- LINK_FRAME_RECEIVED (R171): the bytes that arrive on the link receive pair without a gap (R183). -/
  | linkFrameReceived (bytes : List Byte)
  /-- LINE_FRAME_RECEIVED (R157): the bytes that arrive on the line receive pair without a gap (R183). -/
  | lineFrameReceived (bytes : List Byte)
  /-- RECEPTION_BREAK_OFF (R183): an idle gap of 1 ms or more on the port's receive pair. -/
  | receptionBreakOff (port : Port)
  /-- LINE_HOLD_SENSED (R159): another party takes the hold. -/
  | lineHoldSensed
  /-- LINE_HOLD_CLEARED (R159): no other party holds the pair any longer. -/
  | lineHoldCleared
  /-- CLASSIFY_FRAME (R160). -/
  | classifyFrame
  /-- INFEED_READ (R75). -/
  | infeedRead
  /-- PASSTHROUGH (R163). -/
  | passthrough
  /-- TRANSMIT_START (R165). -/
  | transmitStart
  /-- TRANSMIT_END (R165). -/
  | transmitEnd
  /-- REPLY_WINDOW_EXPIRY (R165). -/
  | replyWindowExpiry
  /-- LINK_FRAME_SENT (R172). -/
  | linkFrameSent
  /-- MOVE_TIMER_EXPIRY (R64). -/
  | moveTimerExpiry (carousel : Nat)
  /-- PRESENTATION_TIMER_EXPIRY (R66). -/
  | presentationTimerExpiry (carousel : Nat)
  /-- AGE_TIMER_EXPIRY (R56). -/
  | ageTimerExpiry (task : Nat)
  /-- DUTY_TIMER_EXPIRY (R40). -/
  | dutyTimerExpiry (carousel : Nat)
  /-- READ_TIMER_EXPIRY (R146). -/
  | readTimerExpiry (carousel : Nat)
  /-- TRANSIT_DEADLINE_EXPIRY (R136): the entry by its place number. -/
  | transitDeadlineExpiry (place : Nat)
  /-- LINK_PROFILE (R170). -/
  | linkProfile
  /-- LINE_PROFILE (R156). -/
  | lineProfile
  /-- PORT_RESET_LINE (R168). -/
  | portResetLine
  /-- PORT_RESET_LINK (R180). -/
  | portResetLink
  /-- PORT_CLEAR (R180). -/
  | portClear
  /-- STORE_RESET (R179). -/
  | storeReset
  /-- TABLE_LOAD_ARTICLE (R4). -/
  | tableLoadArticle
  /-- TABLE_LOAD_CAROUSEL (R48). -/
  | tableLoadCarousel
  /-- TABLE_LOAD_GRADE (R31). -/
  | tableLoadGrade
  /-- TABLE_LOAD_STOCK (R19). -/
  | tableLoadStock
  /-- TABLE_LOAD_FILTER (R160). -/
  | tableLoadFilter
  /-- TABLE_LOAD_SITE (R73). -/
  | tableLoadSite
  /-- TABLE_FETCH (R177). -/
  | tableFetch
  /-- STATUS_FETCH (R178). -/
  | statusFetch
  /-- CAROUSEL_MODE_ONLINE (R50). -/
  | carouselModeOnline
  /-- CAROUSEL_MODE_OFFLINE (R51). -/
  | carouselModeOffline
  /-- CAROUSEL_MODE_MANUAL (R51). -/
  | carouselModeManual
  /-- GRADE_CAP (R38). -/
  | gradeCap
  /-- POWER_BUDGET (R35). -/
  | powerBudget
  /-- LINE_HOLD (R158). -/
  | lineHold
  /-- LINE_RELEASE (R158). -/
  | lineRelease
  /-- ORDER_PLACE (R94). -/
  | orderPlace
  /-- ORDER_WITHDRAW (R107). -/
  | orderWithdraw
  /-- LANE_RELEASE (R138). -/
  | laneRelease
  /-- HOLD_RANGE_SET (R16). -/
  | holdRangeSet
  /-- HOLD_RANGE_CLEAR (R16). -/
  | holdRangeClear
  /-- BAY_SEIZE (R17). -/
  | baySeize
  /-- BAY_UNSEIZE (R18). -/
  | bayUnseize
  /-- AUDIT_START (R141). -/
  | auditStart
  /-- AUDIT_STOP (R148). -/
  | auditStop
  /-- DISCREPANCY_RESOLVE_ACCEPT_FOUND (R154). -/
  | discrepancyResolveAcceptFound
  /-- DISCREPANCY_RESOLVE_KEEP_RECORDED (R154). -/
  | discrepancyResolveKeepRecorded
  /-- DISCREPANCY_RESOLVE_SET (R154). -/
  | discrepancyResolveSet
  /-- TASK_REPRESENT (R88). -/
  | taskRepresent
  /-- TASK_ABANDON (R89). -/
  | taskAbandon
  /-- BAD_FORMAT_REQUEST (R174). -/
  | badFormatRequest
  /-- LINK_PAIR_RETURNS_TO_IDLE (R173). -/
  | linkPairReturnsToIdle
  deriving DecidableEq, Repr

end Sys2Proof
end

