-- ==== Sys2Proof/Decode.lean ====
section
/-! DEFINITION. The command that a word of the table spells. No row of spec/opcode_table.json gives bits ("fields" is
empty in every row), so no word spells a command; the part's own byte formats are in Machine/Bytes, Frames and
Operands. -/

namespace Sys2Proof

/-- The command the table's bits spell in a word: none, since no row of the table has bits. -/
def decodeTableWord (_nbits _w : Nat) : Option Instr :=
  none

end Sys2Proof
end

