-- ==== Sys2Proof/Config.lean ====
section
/-! DEFINITION. What the spec leaves open: the free values (opaque, no value can be proved of them) and the values
that State.reset takes where the spec states none. -/

namespace Sys2Proof.Config

/-- Free value (log 6): a code for the order in which several carousels act on one event; R130: "may ask in either
order". -/
opaque carouselOrder : Nat → Nat

/-- Free value (log 7): which of the free places a new transit entry takes; R131: "places it in a free place". -/
opaque placeChoice : Nat → Nat

/-- Free value (log 13): the byte that carries a count above 255, for which Table 11-4 gives one byte. -/
opaque wideCount : Nat → Byte

/-- Free value (log 14): the floor STATUS-FETCH reports while no enabled grade admits the committed state (R33), as a
function of the duty limit, the management cap and the last enabled grade. -/
opaque floorUnadmitted : Nat → Nat → Nat → Nat

/-- Free value (log 30): the article code that the ROUTE of a BAD-READ tyre carries; R83 asks for "the tyre's article
and batch", which no reading gives. -/
opaque unreadArticle : Nat → BitVec 32

/-- Free value (log 30): the batch that the ROUTE of a BAD-READ tyre carries. -/
opaque unreadBatch : Nat → BitVec 16

/-- DESIGN CHOICE (log 4), unsafe: the link station straps of `State.reset`; the straps are wired outside the part. -/
def resetStation : Byte := 0

/-- DESIGN CHOICE (log 4), unsafe: the rate straps of `State.reset`, link and line. -/
def resetRate : BitVec 2 := 0

end Sys2Proof.Config
end

