-- ==== Sys2Proof/Machine/State.lean ====
section
/-! DEFINITION. The state of the part: every record, table, queue, counter, flag, timer and pin the spec names, grouped
by the block that owns it (00_scope, Table 0-1), and the state after power-on reset. -/

namespace Sys2Proof.Machine

/-- Why a step stops with a fault. -/
inductive Fault where
  /-- Raised by a timer's command whose operand names no carousel 0-7, no task 0-127 or no transit place 0-63
  (log 25). Safe: the part has no such timer, so no such event can reach it. -/
  | noSuchUnit
  deriving DecidableEq, Repr

/-- Why a command has no meaning in the model. -/
inductive Refusal where
  /-- The command's row is not modelled yet; no arm answers with it. Safe: the machine stops. -/
  | notModelled (mnemonic : String)
  deriving DecidableEq, Repr

/-! ## Frames and ports -/

/-- A frame on either port (R182): header and payload. SYNC, LENGTH and CHECK follow from it (`Frame.wire`). -/
structure Frame where
  dest : Byte
  src : Byte
  kind : Byte
  tag : Byte
  payload : List Byte
  deriving DecidableEq, Repr

/-- How a port receives (R183). -/
inductive Receiver where
  /-- Hunting for SYNC: whether a run of bytes outside a frame has been counted, and whether C3h came last. -/
  | hunting (run half : Bool)
  /-- Taking a frame: the bytes after SYNC so far. -/
  | taking (got : List Byte)
  /-- Disregarding the rest of an oversize frame: how many bytes are left. -/
  | disregarding (left : Nat)
  deriving DecidableEq, Repr

/-- The sticky error set of a port (R157, R171); `full` is LINK-FULL on the link and OUTBOX-FULL on the line. -/
structure ErrorSet where
  framing : Bool := false
  check : Bool := false
  overrun : Bool := false
  oversize : Bool := false
  sequence : Bool := false
  full : Bool := false
  deriving DecidableEq, Repr

/-- The link profile (R170); `host` is the source station of the LINK-PROFILE accepted last (R172). -/
structure LinkProfile where
  station : Byte
  maxPayload : Nat
  enable : BitVec 32
  host : Byte
  deriving DecidableEq, Repr

/-- A frame of the link receive queue, with the mark that it was addressed to the own number when it was received
(R171, R170: a new number "applies to frames received after the request"). -/
structure Received where
  frame : Frame
  request : Bool
  deriving DecidableEq, Repr

/-- A frame of the link transmit queue, with the mark that its sending resets the link port (R180). -/
structure Outgoing where
  frame : Frame
  resets : Bool := false
  deriving DecidableEq, Repr

/-- The link port and the management unit (chapter 10). The port is ACTIVE exactly when a profile is loaded. -/
structure LinkPort where
  strap : Byte
  rate : BitVec 2
  profile : Option LinkProfile := none
  errors : ErrorSet := {}
  rx : List Received := []
  tx : List Outgoing := []
  /-- The RESULT that waits for a place in `tx` (R172). -/
  waiting : Option Outgoing := none
  receiver : Receiver := .hunting false false
  /-- A break on the receive pair has not ended yet (R173). -/
  inBreak : Bool := false
  deriving DecidableEq, Repr

/-- The global rule of the line profile (Table 9-1). -/
inductive GlobalRule where
  | forward
  | discard
  deriving DecidableEq, Repr

/-- The line profile (Table 9-1). -/
structure LineProfile where
  station : Byte
  replyWindow : Nat
  repeatLimit : Nat
  maxPayload : Nat
  rule : GlobalRule
  deriving DecidableEq, Repr

/-- The line port (R156, R157) and the stop pair (R158, R159). The port is ACTIVE exactly when a profile is loaded. -/
structure LinePort where
  rate : BitVec 2
  profile : Option LineProfile := none
  errors : ErrorSet := {}
  rx : List Frame := []
  receiver : Receiver := .hunting false false
  /-- The part's own drive on the stop pair: asserted or released (R158). -/
  drive : Bool := true
  /-- Another party holds the stop pair (R159). -/
  outsideHold : Bool := false
  deriving DecidableEq, Repr

/-- How a filter element matches the source station (Table 9-2). -/
inductive MatchType where
  | exact
  | range
  | mask
  deriving DecidableEq, Repr

/-- What the classifier does with a frame (R161). -/
inductive FilterAction where
  | deliver
  | forward
  | copy
  | discard
  deriving DecidableEq, Repr

/-- A filter element (Table 9-2); `kind` is none for ANY. -/
structure FilterElement where
  valid : Bool := false
  matchType : MatchType := .exact
  a : Byte := 0
  b : Byte := 0
  kind : Option Byte := none
  action : FilterAction := .deliver
  urgent : Bool := false
  deriving DecidableEq, Repr

/-! ## Command outbox -/

/-- Who built an outbox frame (R164); a passthrough frame keeps its source station. -/
inductive FrameOrigin where
  | part
  | link (src : Byte)
  deriving DecidableEq, Repr

/-- A frame of the outbox (R164). The source of a frame the part builds is set at its transmission (R166). `entry` is
the serial of the transit entry a ROUTE was built for (R132). -/
structure OutFrame where
  dest : Byte
  kind : Byte
  tag : Byte
  payload : List Byte
  origin : FrameOrigin := .part
  entry : Option Nat := none
  deriving DecidableEq, Repr

/-- The MOVE in a carousel's slot, the level of the work that asked for it, and whether the transmitter has chosen it
(R164, R165). -/
structure SlotMove where
  frame : OutFrame
  level : Nat
  chosen : Bool := false
  deriving DecidableEq, Repr

/-- Where the transmitter took its frame from (R165); `displaced` is a MOVE that a new move's MOVE put out of its slot
(R164). -/
inductive TxSource where
  | fifo
  | slot (carousel : Nat)
  | displaced
  deriving DecidableEq, Repr

/-- The frame with the transmitter, its source number and how often it has been repeated. -/
structure Sending where
  frame : OutFrame
  src : Byte
  source : TxSource
  repeats : Nat := 0
  deriving DecidableEq, Repr

/-- The transmitter (R165); an acceptance wait holds its expiry and the repeat limit it was started with (R156). -/
inductive Transmitter where
  | idle
  | sending (x : Sending)
  | awaiting (x : Sending) (expiry limit : Nat)
  deriving DecidableEq, Repr

/-- The command outbox (R164). -/
structure Outbox where
  slots : List (Option SlotMove)
  fifo : List OutFrame := []
  tx : Transmitter := .idle
  tagCounter : Byte := 0
  deriving DecidableEq, Repr

/-! ## Stock unit -/

/-- An article entry (Table 1-2); bit c of `zone` is carousel c. -/
structure Article where
  code : Nat
  weight : Nat
  stackLimit : Nat
  tolerance : Nat
  zone : Byte
  width : Nat
  deriving DecidableEq, Repr

/-- An article and a batch together. -/
structure Tyre where
  article : Nat
  batch : Nat
  deriving DecidableEq, Repr

/-- The hold reasons of a bay (R14). -/
structure Holds where
  audit : Bool := false
  mgmt : Bool := false
  service : Bool := false
  deriving DecidableEq, Repr

/-- A bay record (Table 1-3). The article and batch are absent or present together (R6). -/
structure Bay where
  tyre : Option Tyre := none
  count : Nat := 0
  incoming : Nat := 0
  reserved : Nat := 0
  holds : Holds := {}
  lastSweep : Option Nat := none
  deriving DecidableEq, Repr

/-- A bay address C.K.B (00 Conventions). -/
structure BayId where
  carousel : Nat
  carrier : Nat
  bay : Nat
  deriving DecidableEq, Repr

/-! ## Balance unit -/

/-- A grade record (Table 2-1) with the enabled mark derived from the feed rating (R32). -/
structure Grade where
  loaded : Bool := false
  imbalance : Nat := 0
  total : Nat := 0
  power : Nat := 1
  speed : Nat := 1
  enabled : Bool := false
  deriving DecidableEq, Repr

/-- What the balance unit keeps for one carousel (chapter 2). -/
structure Balance where
  /-- L[i] (R22). -/
  loads : List Int := []
  /-- S(r) (R23). -/
  halfSums : List Int := []
  /-- T (R22). -/
  total : Int := 0
  /-- W (R23). -/
  worst : Int := 0
  grades : List Grade := List.replicate 8 {}
  cap : Nat := 0
  duty : Nat := 0
  /-- The time at which the duty timer expires next (R40). -/
  dutyExpiry : Nat := 1000
  cooling : Bool := false
  fault : Bool := false
  deviation : Nat := 0
  deriving DecidableEq, Repr

/-- The claim of a move on the plant power budget (R35). -/
structure Claim where
  carousel : Nat
  draw : Nat
  deriving DecidableEq, Repr

/-- An entry of the power wait list (R36). -/
structure WaitEntry where
  carousel : Nat
  level : Nat
  sequence : Nat
  deriving DecidableEq, Repr

/-- The plant power side of the balance unit (R35, R36). -/
structure Power where
  target : Nat := 0
  budget : Nat := 0
  claims : List Claim := []
  waitList : List WaitEntry := []
  nextSequence : Nat := 0
  deriving DecidableEq, Repr

/-! ## Carousel sequencers -/

/-- CORRECT or REPORT (Table 3-2, R141). -/
inductive SweepPolicy where
  | correct
  | report
  deriving DecidableEq, Repr

/-- The CAROUSEL profile (Table 3-2). -/
structure Profile where
  carriers : Nat
  bays : Nat
  tare : Nat
  ceiling : Nat
  feed : Nat
  drive : Byte
  reader : Byte
  keypad : Byte
  moveFixed : Nat
  movePerCarrier : Nat
  warm : Nat
  hot : Nat
  warmGrade : Nat
  tolerance : Nat
  policy : SweepPolicy
  deriving DecidableEq, Repr

/-- The carousel states (Table 3-3), in that table's order. -/
inductive CarouselState where
  | offline
  | unhomed
  | ready
  | moving
  | presenting
  | driveFault
  | manual
  deriving DecidableEq, Repr

/-- The work in service (R47): a task or a sweep step. -/
inductive Work where
  | task (id : Nat)
  | step
  deriving DecidableEq, Repr

/-- The sweep context in the save area (R60, R140). -/
structure SweepContext where
  next : Nat
  last : Nat
  done : Nat := 0
  mismatches : Nat := 0
  policy : SweepPolicy
  number : Nat
  deriving DecidableEq, Repr

/-- The move in flight (R61): its target, the index it started from, its direction and distance, and the draw of its
grade (R39). Its number is the carousel's move number. -/
structure Move where
  target : Nat
  start : Nat
  ascending : Bool
  distance : Nat
  draw : Nat
  deriving DecidableEq, Repr

/-- The carousel record (Table 3-1). The queues are those of levels 3 to 0; `none` in a timer is stopped, `some t` is
running with expiry t. -/
structure Carousel where
  state : CarouselState := .offline
  profile : Option Profile := none
  faultPending : Bool := false
  index : Option Nat := none
  queue3 : List Nat := []
  queue2 : List Nat := []
  queue1 : List Nat := []
  queue0 : List Nat := []
  parked : List Nat := []
  inService : Option Work := none
  sweep : Option SweepContext := none
  moveNumber : Nat := 0
  move : Option Move := none
  moveTimer : Option Nat := none
  presentationTimer : Option Nat := none
  deriving DecidableEq, Repr

/-! ## Tasks and orders -/

/-- The kinds of task, in the order of Table 3-5. -/
inductive TaskKind where
  | pick
  | put
  deriving DecidableEq, Repr

/-- The task states (Table 3-5). -/
inductive TaskState where
  | queued
  | balanceWait
  | powerWait
  | moving
  | presenting
  | stalled
  | ended
  deriving DecidableEq, Repr

/-- The age timer of a PUT task (R56). -/
inductive AgeTimer where
  | stopped
  | running (expiry : Nat)
  | expired
  deriving DecidableEq, Repr

/-- A task record (Table 3-5); its id is its place in the pool. `order`, `line` and `group` are a PICK's, `tyre` is a
PUT's. -/
structure Task where
  kind : TaskKind
  level : Nat
  bay : BayId
  quantity : Nat
  taken : Nat := 0
  order : Nat := 0
  line : Nat := 0
  group : Nat := 0
  tyre : Option Tyre := none
  state : TaskState := .queued
  withdrawn : Bool := false
  age : AgeTimer := .stopped
  transit : Nat := 0
  deriving DecidableEq, Repr

/-- Oldest and newest batch of a group (Table 5-2). -/
structure Window where
  low : Nat
  high : Nat
  deriving DecidableEq, Repr

/-- A group of a line (Table 5-2), with its number in the line (R91). -/
structure Group where
  number : Nat
  need : Nat
  picked : Nat := 0
  window : Option Window := none
  tasks : List Nat := []
  deriving DecidableEq, Repr

/-- A line of an order (Table 5-2). -/
structure OrderLine where
  article : Nat
  quantity : Nat
  setSize : Nat
  groups : List Group
  deriving DecidableEq, Repr

/-- NORMAL or RUSH (Table 5-1). -/
inductive Priority where
  | normal
  | rush
  deriving DecidableEq, Repr

/-- WAIT or PARTIAL (Table 5-1). -/
inductive ShortPolicy where
  | wait
  | part
  deriving DecidableEq, Repr

/-- The order states (Table 5-3). -/
inductive OrderState where
  | laneWait
  | picking
  | staged
  | withdrawn
  deriving DecidableEq, Repr

/-- An order record (Table 5-1). Its submission sequence is its place in the order table's list (R90). -/
structure Order where
  number : Nat
  priority : Priority
  policy : ShortPolicy
  lines : List OrderLine
  lane : Option Nat := none
  state : OrderState := .laneWait
  exception : Bool := false
  held : List Nat := []
  deriving DecidableEq, Repr

/-- A group as the pending list names it (R105). -/
structure GroupRef where
  order : Nat
  line : Nat
  group : Nat
  deriving DecidableEq, Repr

/-- The retry pass the order unit has noted (R106). -/
inductive Retry where
  | none
  | articles (codes : List Nat)
  | all
  deriving DecidableEq, Repr

/-- The order unit (chapter 5). -/
structure OrderUnit where
  orders : List Order := []
  pool : List (Option Task) := List.replicate 128 none
  pending : List GroupRef := []
  laneWait : List Nat := []
  retry : Retry := .none
  deriving DecidableEq, Repr

/-! ## Put-away, consolidation, audit -/

/-- The site record (Table 4-1); the number of lanes is the number of lane reader stations. Times are in seconds. -/
structure Site where
  infeed : Byte
  diverter : Byte
  overflow : Byte
  laneReaders : List Byte
  putAge : Nat
  presentation : Nat
  transit : Nat
  carrierRead : Nat
  deriving DecidableEq, Repr

/-- A tally of a TAG-READ (Table 11-5). -/
structure Tally where
  bay : Nat
  article : Nat
  batch : Nat
  count : Nat
  deriving DecidableEq, Repr

/-- An infeed read that the classifier has delivered (R75), with its time (log 15). -/
structure InfeedRead where
  tallies : List Tally
  time : Nat
  deriving DecidableEq, Repr

/-- The put-away unit (chapter 4). -/
structure PutAway where
  site : Option Site := none
  reads : List InfeedRead := []
  deriving DecidableEq, Repr

/-- The lane states (Table 7-2). -/
inductive LaneState where
  | free
  | filling
  | complete
  | exception
  | returning
  deriving DecidableEq, Repr

/-- A staging lane record (Table 7-1). -/
structure Lane where
  state : LaneState := .free
  order : Option Nat := none
  expected : Nat := 0
  arrived : Nat := 0
  deriving DecidableEq, Repr

/-- Where a tyre entered the conveyor (Table 7-3). -/
inductive ConveyorSource where
  | mouth (carousel : Nat)
  | infeed
  deriving DecidableEq, Repr

/-- A transit entry (Table 7-3). `serial` is the model's own: it tells an entry from a later one at the same place
(log 7). -/
structure TransitEntry where
  place : Nat
  serial : Nat
  group : GroupRef
  tyre : Tyre
  lane : Nat
  source : ConveyorSource
  deadline : Nat
  unrouted : Bool := false
  deriving DecidableEq, Repr

/-- The consolidation unit (chapter 7). -/
structure Consolidation where
  lanes : List Lane := []
  transit : List TransitEntry := []
  reserved : Nat := 0
  nextSerial : Nat := 0
  deriving DecidableEq, Repr

/-- REQUEST or AUTOMATIC (Table 8-1). -/
inductive SweepOrigin where
  | request
  | automatic
  deriving DecidableEq, Repr

/-- The sweep record of a carousel (Table 8-1). -/
structure SweepRecord where
  origin : SweepOrigin := .request
  stopMark : Bool := false
  readAttempt : Nat := 0
  readTimer : Option Nat := none
  deriving DecidableEq, Repr

/-- The kinds of discrepancy (Table 8-3), in that table's order. -/
inductive DiscrepancyKind where
  | count
  | label
  | unexpected
  | missing
  | unread
  | shortPick
  deriving DecidableEq, Repr

/-- A found tally of a discrepancy: article, batch and count (Table 8-3). -/
structure Found where
  tyre : Tyre
  count : Nat
  deriving DecidableEq, Repr

/-- A discrepancy entry (Table 8-3). -/
structure Discrepancy where
  number : Nat
  carousel : Nat
  position : Nat
  kind : DiscrepancyKind
  recordedTyre : Option Tyre
  recordedCount : Nat
  recordedIncoming : Nat
  found : List Found
  foundTotal : Nat
  sweep : Option Nat
  corrected : Bool
  deriving DecidableEq, Repr

/-- The audit unit (chapter 8). `entryCounter` is the number taken last; 255 makes the first entry number 0 (R150). -/
structure AuditUnit where
  sweeps : List SweepRecord := List.replicate 8 {}
  sweepCounter : Nat := 0
  list : List Discrepancy := []
  entryCounter : Nat := 255
  overflow : Nat := 0
  listFull : Bool := false
  deriving DecidableEq, Repr

/-- The model's own: follow-ups noted inside a step and taken before it ends (log 8). `freed` is the report of freed
transit entries (R130), `points` the carousels with a service point due (R57). -/
structure Agenda where
  freed : Bool := false
  points : List Nat := []
  deriving DecidableEq, Repr

/-! ## The whole part -/

/-- The state of the part, by block (Table 0-1). `choices` counts the uses of free values (log 6), `pending` is the
queue of waiting commands; both are the model's own. -/
structure State where
  /-- Milliseconds since the end of power-on reset (log 3). -/
  now : Nat
  link : LinkPort
  line : LinePort
  filter : List FilterElement
  outbox : Outbox
  /-- The article table, ascending by code (R3). -/
  articles : List Article
  /-- The bay records of each carousel, by position number (R2). -/
  bays : List (List Bay)
  balances : List Balance
  power : Power
  carousels : List Carousel
  putAway : PutAway
  orderUnit : OrderUnit
  consolidation : Consolidation
  audit : AuditUnit
  agenda : Agenda
  choices : Nat
  pending : List Instr
  deriving DecidableEq, Repr

/-- The part at the end of a power-on reset that sampled these straps (R20, R46, R47, R74, R110, R139, R155, R169,
R170), with an empty command queue. -/
def State.powerOn (station : Byte) (linkRate lineRate : BitVec 2) : State where
  now := 0
  link := { strap := station, rate := linkRate }
  line := { rate := lineRate }
  filter := List.replicate 32 {}
  outbox := { slots := List.replicate 8 none }
  articles := []
  bays := List.replicate 8 []
  balances := List.replicate 8 {}
  power := {}
  carousels := List.replicate 8 {}
  putAway := {}
  orderUnit := {}
  consolidation := {}
  audit := {}
  agenda := {}
  choices := 0
  pending := []

/-- The part right after reset. DESIGN CHOICE (log 4): every strap reads 0 and no other party holds the stop pair. -/
def State.reset : State :=
  State.powerOn Config.resetStation Config.resetRate Config.resetRate

end Sys2Proof.Machine
end

