-- ==== Sys2Proof/Machine/Bytes.lean ====
section
/-! DEFINITION. Byte order and field encoding (R182, R186): multi-byte fields, presence bytes, flags, field lists. -/

namespace Sys2Proof.Machine

/-- A byte of a number, modulo 256. -/
def byte (n : Nat) : Byte :=
  BitVec.ofNat 8 n

/-- An unsigned field of `n` bytes, most significant byte first (R182). -/
def beBytes : Nat → Nat → List Byte
  | 0, _ => []
  | n + 1, v => byte (v / 256 ^ n) :: beBytes n v

/-- The number that bytes carry, most significant byte first (R182). -/
def beNat (bs : List Byte) : Nat :=
  bs.foldl (fun acc b => acc * 256 + b.toNat) 0

/-- Takes fields of the given sizes off the front of a payload: the fields in order, and what is left. -/
def takeFields : List Nat → List Byte → Option (List Nat × List Byte)
  | [], bs => some ([], bs)
  | n :: ns, bs =>
    if n ≤ bs.length then
      match takeFields ns (bs.drop n) with
      | some (vs, rest) => some (beNat (bs.take n) :: vs, rest)
      | none => none
    else none

/-- Reads a payload that consists of exactly the fields of the given sizes (R186: "a wrong length" is BAD-FORMAT). -/
def readFields (sizes : List Nat) (bs : List Byte) : Option (List Nat) :=
  match takeFields sizes bs with
  | some (vs, []) => some vs
  | _ => none

/-- Writes fields, each given by its size and value, in order. -/
def writeFields (fields : List (Nat × Nat)) : List Byte :=
  fields.flatMap fun f => beBytes f.1 f.2

/-- The signed value of a four-byte field in two's complement (Table 11-4). -/
def signed32 (v : Nat) : Int :=
  if v < 2 ^ 31 then (v : Int) else (v : Int) - 2 ^ 32

/-- The four bytes of a signed field in two's complement (Table 11-4). -/
def signedBytes (i : Int) : List Byte :=
  beBytes 4 (i % 2 ^ 32).toNat

/-- A load, W or T: four bytes, unsigned (Table 11-4). -/
def loadBytes (i : Int) : List Byte :=
  beBytes 4 i.toNat

/-- A flag: 01h for yes, set, on, asserted, held (DESIGN CHOICE, log 11). -/
def flagByte (b : Bool) : Byte :=
  if b then 1 else 0

/-- A possibly absent field of `n` bytes: its presence byte, then its bytes, zeros when it is absent (R186). -/
def optBytes (n : Nat) : Option Nat → List Byte
  | none => 0 :: List.replicate n 0
  | some v => 1 :: beBytes n v

/-- A possibly absent field as a request carries it: presence 00h with zeros is absent, 01h is present, anything else
breaks the encoding (R186). -/
def readOpt (presence v : Nat) : Option (Option Nat) :=
  if presence = 1 then some (some v) else if presence = 0 ∧ v = 0 then some none else none

/-- A count in its one byte (Table 11-4); above 255 the byte is a free value (log 13). -/
def countByte (n : Nat) : Byte :=
  if n < 256 then byte n else Config.wideCount n

/-- The bytes of a list: its length, then its items (DESIGN CHOICE, log 12). -/
def listBytes {α : Type} (item : α → List Byte) (l : List α) : List Byte :=
  countByte l.length :: l.flatMap item

/-- A set of small numbers as one byte, bit c for member c (Table 11-4, "set of carousels"). -/
def setByte (members : List Nat) : Byte :=
  members.foldl (fun acc c => acc ||| (1 <<< c)) 0

end Sys2Proof.Machine
end

