-- ==== Sys2Proof/Machine/Frames.lean ====
section
/-! DEFINITION. The frame's layout and check (R182, R184), the kind codes (Table 11-3) and the payloads of the carousel
line (Table 11-5). -/

namespace Sys2Proof.Machine

/-! ## Layout and check -/

/-- One bit into the CRC register (R184, steps 2 and 3). -/
def crcBit (r : BitVec 16) (bit : Bool) : BitVec 16 :=
  if (r.msb ^^ bit) then (r <<< 1) ^^^ 0x1021 else r <<< 1

/-- One byte into the CRC register, most significant bit first (R184). -/
def crcByte (r : BitVec 16) (b : Byte) : BitVec 16 :=
  [0, 1, 2, 3, 4, 5, 6, 7].foldl (fun acc i => crcBit acc (b.getMsbD i)) r

/-- The CRC register after bytes, from its start FFFFh (R184). -/
def crc (bs : List Byte) : BitVec 16 :=
  bs.foldl crcByte 0xFFFF

/-- The bytes that CHECK covers: LENGTH, header and payload (R184). -/
def Frame.body (f : Frame) : List Byte :=
  beBytes 2 f.payload.length ++ [f.dest, f.src, f.kind, f.tag] ++ f.payload

/-- CHECK as it is sent, high byte first (R184). -/
def Frame.check (f : Frame) : List Byte :=
  beBytes 2 (crc f.body).toNat

/-- The bytes of a frame on either port (Table 11-1). -/
def Frame.wire (f : Frame) : List Byte :=
  [0xC3, 0x3C] ++ f.body ++ f.check

/-- The frame that the bytes after SYNC carry, its check apart: LENGTH (2), DEST, SRC, KIND, TAG, payload, CHECK (2). -/
def frameOf (got : List Byte) : Option Frame :=
  match got with
  | _ :: _ :: dest :: src :: kind :: tag :: rest =>
    some { dest, src, kind, tag, payload := rest.take (rest.length - 2) }
  | _ => none

/-- A frame agrees with its check when the register over LENGTH through CHECK ends at 0000h (R184). -/
def checkAgrees (got : List Byte) : Bool :=
  crc got == 0

/-! ## Kind codes (Table 11-3) -/

def kindMove : Byte := 0x10
def kindStop : Byte := 0x11
def kindStatusQuery : Byte := 0x12
def kindIndicate : Byte := 0x13
def kindRoute : Byte := 0x14
def kindScanCarrier : Byte := 0x15
def kindAccept : Byte := 0x20
def kindArrived : Byte := 0x21
def kindDriveState : Byte := 0x22
def kindTagRead : Byte := 0x23
def kindKey : Byte := 0x24
def kindResult : Byte := 0x30
def kindNotice : Byte := 0x31
def kindLinkProfile : Byte := 0x40
def kindLineProfile : Byte := 0x41
def kindPortReset : Byte := 0x42
def kindPortClear : Byte := 0x43
def kindStoreReset : Byte := 0x44
def kindTableLoad : Byte := 0x45
def kindTableFetch : Byte := 0x46
def kindStatusFetch : Byte := 0x47
def kindCarouselMode : Byte := 0x48
def kindGradeCap : Byte := 0x49
def kindPowerBudget : Byte := 0x4A
def kindLineHold : Byte := 0x4B
def kindLineRelease : Byte := 0x4C
def kindOrderPlace : Byte := 0x4D
def kindOrderWithdraw : Byte := 0x4E
def kindLaneRelease : Byte := 0x4F
def kindHoldRange : Byte := 0x50
def kindBaySeize : Byte := 0x51
def kindBayUnseize : Byte := 0x52
def kindAuditStart : Byte := 0x53
def kindAuditStop : Byte := 0x54
def kindDiscrepancyResolve : Byte := 0x55
def kindTaskRepresent : Byte := 0x56
def kindTaskAbandon : Byte := 0x57

/-- The codes of Table 11-3, which a FILTER entry may name (R160, R185 note 1). -/
def isKindCode (k : Byte) : Bool :=
  (decide (0x10 ≤ k) && decide (k ≤ 0x15)) || (decide (0x20 ≤ k) && decide (k ≤ 0x24)) ||
    (decide (0x30 ≤ k) && decide (k ≤ 0x31)) || (decide (0x40 ≤ k) && decide (k ≤ 0x57))

/-- A station number that addresses all stations (R182). -/
def broadcast : Byte := 255

/-! ## Payloads the part sends (Table 11-5) -/

/-- MOVE: target index, direction, speed code, move number. -/
def movePayload (target : Nat) (ascending : Bool) (speed number : Nat) : List Byte :=
  [byte target, if ascending then 0 else 1, byte speed, byte number]

/-- The actions of INDICATE (Table 11-5). -/
inductive Indication where
  | pick
  | place
  | wrongItem
  | cancelled
  deriving DecidableEq, Repr

/-- The code of an action of INDICATE (Table 11-5). -/
def indicationCode : Indication → Byte
  | .pick => 0
  | .place => 1
  | .wrongItem => 2
  | .cancelled => 3

/-- INDICATE: bay, action, quantity, width class; the last two are 0 for WRONG-ITEM and CANCELLED. -/
def indicatePayload (bay : Nat) (action : Indication) (quantity width : Nat) : List Byte :=
  match action with
  | .pick | .place => [byte bay, indicationCode action, byte quantity, byte width]
  | .wrongItem | .cancelled => [byte bay, indicationCode action, 0, 0]

/-- SCAN-CARRIER: the carrier at the mouth and the bays per carrier. -/
def scanPayload (carrier bays : Nat) : List Byte :=
  [byte carrier, byte bays]

/-- The destination point of a ROUTE (R83, R114). -/
inductive RouteTo where
  | lane (n : Nat)
  | mouth (carousel : Nat)
  | overflow (code : Byte)
  deriving DecidableEq, Repr

/-- The two bytes of a source point: 00h INFEED, 01h MOUTH with its carousel. -/
def sourceBytes : ConveyorSource → List Byte
  | .infeed => [0, 0]
  | .mouth c => [1, byte c]

/-- The two bytes of a destination point: 00h LANE, 01h MOUTH, 02h OVERFLOW, with its number or code. -/
def routeToBytes : RouteTo → List Byte
  | .lane n => [0, byte n]
  | .mouth c => [1, byte c]
  | .overflow code => [2, code]

/-- ROUTE: source point, destination point, article, batch. -/
def routePayload (source : ConveyorSource) (dest : RouteTo) (tyre : Tyre) : List Byte :=
  sourceBytes source ++ routeToBytes dest ++ beBytes 4 tyre.article ++ beBytes 2 tyre.batch

/-! ## Payloads the part receives (Table 11-5, R187) -/

/-- An ARRIVED payload: reported index, measured imbalance, move number. -/
def readArrived (p : List Byte) : Option (Nat × Int × Nat) :=
  match readFields [1, 4, 1] p with
  | some [index, measured, number] => some (index, signed32 measured, number)
  | _ => none

/-- The drive conditions (R52), in the order of Table 11-5. -/
inductive DriveCondition where
  | stopped
  | turning
  | fault
  deriving DecidableEq, Repr

/-- A DRIVE-STATE payload: condition and index. -/
def readDriveState (p : List Byte) : Option (DriveCondition × Nat) :=
  match readFields [1, 1] p with
  | some [0, index] => some (.stopped, index)
  | some [1, index] => some (.turning, index)
  | some [2, index] => some (.fault, index)
  | _ => none

/-- `n` tallies of 8 bytes each, and nothing after them. -/
def readTallies : Nat → List Byte → Option (List Tally)
  | 0, [] => some []
  | 0, _ :: _ => none
  | n + 1, bs =>
    match takeFields [1, 4, 2, 1] bs with
    | some ([bay, article, batch, count], rest) =>
      match readTallies n rest with
      | some ts => some ({ bay, article, batch, count } :: ts)
      | none => none
    | _ => none

/-- A TAG-READ payload: a tally count n and n tallies, 1 + 8n bytes (R187). -/
def readTagRead (p : List Byte) : Option (List Tally) :=
  match p with
  | [] => none
  | n :: rest => readTallies n.toNat rest

/-- The keys of the mouth keypad (Table 11-5). -/
inductive Key where
  | short
  | damaged
  | skip
  deriving DecidableEq, Repr

/-- A KEY payload: 01h SHORT, 02h DAMAGED, 03h SKIP. -/
def readKey (p : List Byte) : Option Key :=
  match p with
  | [b] => if b = 1 then some .short else if b = 2 then some .damaged else if b = 3 then some .skip else none
  | _ => none

end Sys2Proof.Machine
end

