-- ==== Sys2Proof/Machine/Ops.lean ====
section
/-! DEFINITION. The named operations over the part's records: how each is read and changed, and the choices the spec
leaves free. -/

namespace Sys2Proof.Machine

/-! ## Reading and changing records -/

/-- The carousel record of carousel `c` (R47); the record after power-on reset where there is no such carousel. -/
def State.car (s : State) (c : Nat) : Carousel :=
  s.carousels.getD c {}

/-- Changes the carousel record of `c`. -/
def State.modCar (s : State) (c : Nat) (f : Carousel → Carousel) : State :=
  { s with carousels := s.carousels.modify c f }

/-- What the balance unit holds for carousel `c`. -/
def State.bal (s : State) (c : Nat) : Balance :=
  s.balances.getD c {}

/-- Changes what the balance unit holds for `c`. -/
def State.modBal (s : State) (c : Nat) (f : Balance → Balance) : State :=
  { s with balances := s.balances.modify c f }

/-- The bay records of carousel `c`, by position number. -/
def State.baysOf (s : State) (c : Nat) : List Bay :=
  s.bays.getD c []

/-- Bays per carrier of carousel `c`; 0 without a profile. -/
def State.baysPerCarrier (s : State) (c : Nat) : Nat :=
  match (s.car c).profile with
  | some p => p.bays
  | none => 0

/-- Carriers of carousel `c`; 0 without a profile. -/
def State.carriersOf (s : State) (c : Nat) : Nat :=
  match (s.car c).profile with
  | some p => p.carriers
  | none => 0

/-- The position number of a bay, K × b + B (R2). -/
def State.position (s : State) (id : BayId) : Nat :=
  id.carrier * s.baysPerCarrier id.carousel + id.bay

/-- The bay at a position number of carousel `c` (R2). -/
def State.bayAt (s : State) (c p : Nat) : BayId :=
  let b := s.baysPerCarrier c
  { carousel := c, carrier := p / b, bay := p - (p / b) * b }

/-- A bay exists when its carousel has a profile and carrier and bay lie below N and b (R1, R2). -/
def State.bayExists (s : State) (id : BayId) : Bool :=
  match (s.car id.carousel).profile with
  | some p => decide (id.carrier < p.carriers) && decide (id.bay < p.bays)
  | none => false

/-- The record of a bay; an empty record where the bay does not exist. -/
def State.bay (s : State) (id : BayId) : Bay :=
  (s.baysOf id.carousel).getD (s.position id) {}

/-- Changes the record of a bay. -/
def State.modBay (s : State) (id : BayId) (f : Bay → Bay) : State :=
  { s with bays := s.bays.modify id.carousel fun l => l.modify (s.position id) f }

/-- The article entry of a code, if the table holds one (R3). -/
def State.article (s : State) (code : Nat) : Option Article :=
  s.articles.find? fun a => a.code == code

/-- The weight of an article; 0 for a code that is not in the table. -/
def State.weight (s : State) (code : Nat) : Nat :=
  match s.article code with
  | some a => a.weight
  | none => 0

/-- The stack limit of an article; 0 for a code that is not in the table. -/
def State.stackLimit (s : State) (code : Nat) : Nat :=
  match s.article code with
  | some a => a.stackLimit
  | none => 0

/-- The batch tolerance of an article; 0 for a code that is not in the table. -/
def State.tolerance (s : State) (code : Nat) : Nat :=
  match s.article code with
  | some a => a.tolerance
  | none => 0

/-- The width class of an article; 0 for a code that is not in the table. -/
def State.widthClass (s : State) (code : Nat) : Nat :=
  match s.article code with
  | some a => a.width
  | none => 0

/-- The task record in use at an id (R54, R97). -/
def State.task (s : State) (id : Nat) : Option Task :=
  s.orderUnit.pool.getD id none

/-- Changes the task record at an id, if it is in use. -/
def State.modTask (s : State) (id : Nat) (f : Task → Task) : State :=
  { s with orderUnit := { s.orderUnit with pool := s.orderUnit.pool.modify id fun t => t.map f } }

/-- Writes the task record at an id; `none` frees it. -/
def State.setTask (s : State) (id : Nat) (t : Option Task) : State :=
  { s with orderUnit := { s.orderUnit with pool := s.orderUnit.pool.modify id fun _ => t } }

/-- The free record ids, lowest first (R97). -/
def State.freeTasks (s : State) : List Nat :=
  (List.range 128).filter fun id =>
    match s.orderUnit.pool[id]? with
    | some none => true
    | _ => false

/-- The open order with a number (R90). -/
def State.order (s : State) (number : Nat) : Option Order :=
  s.orderUnit.orders.find? fun o => o.number == number

/-- Changes the open order with a number. -/
def State.modOrder (s : State) (number : Nat) (f : Order → Order) : State :=
  { s with orderUnit := { s.orderUnit with
      orders := s.orderUnit.orders.map fun o => if o.number = number then f o else o } }

/-- Removes the order with a number from the order table. -/
def State.removeOrder (s : State) (number : Nat) : State :=
  { s with orderUnit := { s.orderUnit with orders := s.orderUnit.orders.filter fun o => o.number != number } }

/-- The group that a reference names in an order. -/
def Order.group (o : Order) (line group : Nat) : Option Group :=
  match o.lines[line]? with
  | some l => l.groups.find? fun g => g.number == group
  | none => none

/-- The group that a reference names. -/
def State.group (s : State) (ref : GroupRef) : Option Group :=
  match s.order ref.order with
  | some o => o.group ref.line ref.group
  | none => none

/-- Changes the group that a reference names. -/
def State.modGroup (s : State) (ref : GroupRef) (f : Group → Group) : State :=
  s.modOrder ref.order fun o => { o with
    lines := o.lines.modify ref.line fun l => { l with
      groups := l.groups.map fun g => if g.number = ref.group then f g else g } }

/-- The article of the line that a reference names. -/
def State.groupArticle (s : State) (ref : GroupRef) : Nat :=
  match s.order ref.order with
  | some o =>
    match o.lines[ref.line]? with
    | some l => l.article
    | none => 0
  | none => 0

/-- The order total: the sum of the quantities of its lines (R91). -/
def Order.total (o : Order) : Nat :=
  (o.lines.map OrderLine.quantity).sum

/-- A staging lane record, if the lane exists (R128). -/
def State.lane (s : State) (n : Nat) : Option Lane :=
  s.consolidation.lanes[n]?

/-- Changes a staging lane record. -/
def State.modLane (s : State) (n : Nat) (f : Lane → Lane) : State :=
  { s with consolidation := { s.consolidation with lanes := s.consolidation.lanes.modify n f } }

/-- The sweep record of carousel `c` (Table 8-1). -/
def State.sweepRecord (s : State) (c : Nat) : SweepRecord :=
  s.audit.sweeps.getD c {}

/-- Changes the sweep record of `c`. -/
def State.modSweepRecord (s : State) (c : Nat) (f : SweepRecord → SweepRecord) : State :=
  { s with audit := { s.audit with sweeps := s.audit.sweeps.modify c f } }

/-! ## Timeouts of the site record (R74: defaults while none is loaded) -/

/-- The put age limit in ms. -/
def State.putAgeMs (s : State) : Nat :=
  match s.putAway.site with
  | some site => site.putAge * 1000
  | none => 120000

/-- The presentation timeout in ms. -/
def State.presentationMs (s : State) : Nat :=
  match s.putAway.site with
  | some site => site.presentation * 1000
  | none => 90000

/-- The transit timeout in ms. -/
def State.transitMs (s : State) : Nat :=
  match s.putAway.site with
  | some site => site.transit * 1000
  | none => 60000

/-- The carrier read timeout in ms. -/
def State.carrierReadMs (s : State) : Nat :=
  match s.putAway.site with
  | some site => site.carrierRead * 1000
  | none => 5000

/-- The diverter station (R83). ROUTE frames are built only while a site record is loaded; 255 stands where none is
(log 36). -/
def State.diverter (s : State) : Byte :=
  match s.putAway.site with
  | some site => site.diverter
  | none => broadcast

/-- The overflow route code (Table 4-1). -/
def State.overflowCode (s : State) : Byte :=
  match s.putAway.site with
  | some site => site.overflow
  | none => 0

/-! ## Level queues (R55) -/

/-- The level queue of a level. -/
def Carousel.queue (k : Carousel) (level : Nat) : List Nat :=
  if level = 3 then k.queue3 else if level = 2 then k.queue2 else if level = 1 then k.queue1 else k.queue0

/-- Changes the level queue of a level. -/
def Carousel.modQueue (k : Carousel) (level : Nat) (f : List Nat → List Nat) : Carousel :=
  if level = 3 then { k with queue3 := f k.queue3 }
  else if level = 2 then { k with queue2 := f k.queue2 }
  else if level = 1 then { k with queue1 := f k.queue1 }
  else { k with queue0 := f k.queue0 }

/-- Takes a task off every level queue. -/
def Carousel.unqueue (k : Carousel) (id : Nat) : Carousel :=
  { k with queue3 := k.queue3.filter (· != id), queue2 := k.queue2.filter (· != id),
           queue1 := k.queue1.filter (· != id), queue0 := k.queue0.filter (· != id) }

/-- The walk order of a service point: levels 3, 2 and 1, each from its head (R58). -/
def Carousel.walkOrder (k : Carousel) : List Nat :=
  k.queue3 ++ k.queue2 ++ k.queue1

/-! ## Follow-ups of a step and free choices -/

/-- Notes the report of freed transit entries (R130). -/
def State.noteFreed (s : State) : State :=
  { s with agenda := { s.agenda with freed := true } }

/-- Notes a service point of carousel `c` (R57). -/
def State.notePoint (s : State) (c : Nat) : State :=
  if s.agenda.points.contains c then s
  else { s with agenda := { s.agenda with points := s.agenda.points ++ [c] } }

/-- Events noted together give one pass: for all if any asked for all, else for the articles named (R106). -/
def Retry.join : Retry → Retry → Retry
  | .none, r => r
  | r, .none => r
  | .all, _ => .all
  | _, .all => .all
  | .articles a, .articles b => .articles (a ++ b)

/-- Notes a retry event (Table 5-6). -/
def State.noteRetry (s : State) (r : Retry) : State :=
  { s with orderUnit := { s.orderUnit with retry := s.orderUnit.retry.join r } }

/-- The order of a list that a code names; every order has a code. -/
def permute {α : Type} : Nat → List α → List α
  | _, [] => []
  | code, x :: xs => (permute (code / (xs.length + 1)) xs).insertIdx (code % (xs.length + 1)) x

/-- The free order of several carousels at one event (R130, log 6): no choice is made for fewer than two. -/
def State.arrange (s : State) (l : List Nat) : List Nat × State :=
  if l.length ≤ 1 then (l, s)
  else (permute (Config.carouselOrder s.choices) l, { s with choices := s.choices + 1 })

/-- A carousel that takes service points: READY with nothing in service (R57). -/
def State.idleReady (s : State) (c : Nat) : Bool :=
  decide ((s.car c).state = .ready) && (s.car c).inService.isNone

/-- The stop pair is sensed held while any party, the part included, holds it (R159). -/
def State.lineHeld (s : State) : Bool :=
  s.line.drive || s.line.outsideHold

/-- The line port is ACTIVE (R156). -/
def State.lineActive (s : State) : Bool :=
  s.line.profile.isSome

/-- The link port is ACTIVE (R170). -/
def State.linkActive (s : State) : Bool :=
  s.link.profile.isSome

/-- The bay that the task in service in MOVING or PRESENTING targets (R16, R17). -/
def State.inServiceBay (s : State) (c : Nat) : Option BayId :=
  match (s.car c).inService with
  | some (.task id) =>
    match s.task id with
    | some t => if t.state = .moving ∨ t.state = .presenting then some t.bay else none
    | none => none
  | _ => none

/-- The carrier that the work in service of `c` targets (R58, R60). -/
def State.targetCarrier (s : State) (c : Nat) : Option Nat :=
  match (s.car c).inService with
  | some (.task id) => (s.task id).map fun t => t.bay.carrier
  | some .step => (s.car c).sweep.map SweepContext.next
  | none => none

end Sys2Proof.Machine
end

