-- ==== Sys2Proof/Machine/Flags.lean ====
section
/-! DEFINITION. Flags and marks: the sticky error sets (R157, R171), the hold reasons of a bay (R14), admission and the
condition flags of a carousel (R26, R41, R42), and the byte each set is carried in. -/

namespace Sys2Proof.Machine

/-! ## Error sets -/

/-- The errors of a port's set; `full` is LINK-FULL or OUTBOX-FULL. -/
inductive PortError where
  | framing
  | check
  | overrun
  | oversize
  | sequence
  | full
  deriving DecidableEq, Repr

/-- Adds an error; one already present stays as it is (R157). -/
def ErrorSet.add (e : ErrorSet) : PortError → ErrorSet
  | .framing => { e with framing := true }
  | .check => { e with check := true }
  | .overrun => { e with overrun := true }
  | .oversize => { e with oversize := true }
  | .sequence => { e with sequence := true }
  | .full => { e with full := true }

/-- An error set in one byte, bits 0 to 5 in the order R171 lists the errors (DESIGN CHOICE, log 11). -/
def ErrorSet.toByte (e : ErrorSet) : Byte :=
  (if e.framing then 1 else 0) ||| (if e.check then 2 else 0) ||| (if e.overrun then 4 else 0) |||
    (if e.oversize then 8 else 0) ||| (if e.sequence then 16 else 0) ||| (if e.full then 32 else 0)

/-! ## Hold reasons -/

/-- The three reasons of R14. -/
inductive HoldReason where
  | audit
  | mgmt
  | service
  deriving DecidableEq, Repr

/-- Whether a set carries any reason. -/
def Holds.any (h : Holds) : Bool :=
  h.audit || h.mgmt || h.service

/-- Whether a set carries a reason. -/
def Holds.has (h : Holds) : HoldReason → Bool
  | .audit => h.audit
  | .mgmt => h.mgmt
  | .service => h.service

/-- Sets or clears one reason; the others are kept. -/
def Holds.put (h : Holds) (r : HoldReason) (v : Bool) : Holds :=
  match r with
  | .audit => { h with audit := v }
  | .mgmt => { h with mgmt := v }
  | .service => { h with service := v }

/-- A hold set in its byte: bit 0 AUDIT, bit 1 MGMT, bit 2 SERVICE (Table 11-4). -/
def Holds.toByte (h : Holds) : Byte :=
  (if h.audit then 1 else 0) ||| (if h.mgmt then 2 else 0) ||| (if h.service then 4 else 0)

/-! ## Bay states (R6) -/

/-- EMPTY, ASSIGNED or STOCKED, in the order of Table 11-8. -/
inductive BayState where
  | empty
  | assigned
  | stocked
  deriving DecidableEq, Repr

/-- The state of a bay follows from count and incoming (R6). -/
def Bay.state (b : Bay) : BayState :=
  if b.count = 0 then (if b.incoming = 0 then .empty else .assigned) else .stocked

/-- Whenever count + incoming comes to 0, article and batch are removed in the same claim (R6). -/
def Bay.tidy (b : Bay) : Bay :=
  if b.count + b.incoming = 0 then { b with tyre := none } else b

/-- The available quantity of a bay (Table 1-3, note 1). -/
def Bay.available (b : Bay) : Nat :=
  b.count - b.reserved

/-! ## Admission (R26) and the condition flags -/

/-- The enabled grades in table order; the place in this list is the request index (R32). -/
def Balance.enabledGrades (b : Balance) : List Grade :=
  b.grades.filter Grade.enabled

/-- The last enabled grade (R26). -/
def Balance.lastGrade (b : Balance) : Option Grade :=
  b.enabledGrades.getLast?

/-- A grade admits a state when both ceilings reach it (R26). -/
def Grade.admits (g : Grade) (w t : Int) : Bool :=
  decide (w ≤ (g.imbalance : Int)) && decide (t ≤ (g.total : Int))

/-- "Admitted by the carousel": by its last enabled grade; a carousel with none admits no state (R26). -/
def Balance.admits (b : Balance) (w t : Int) : Bool :=
  match b.lastGrade with
  | some g => g.admits w t
  | none => false

/-- A grade record is enabled when it is loaded enabled and its P does not exceed the feed rating (R32). -/
def deriveEnabled (feed : Nat) (gs : List Grade) : List Grade :=
  gs.map fun g => { g with enabled := g.loaded && decide (g.power ≤ feed) }

/-- The signed imbalance at index r: 2 × S(r) − T (R23). -/
def Balance.imbalanceAt (b : Balance) (r : Nat) : Int :=
  2 * b.halfSums.getD r 0 - b.total

/-- The duty limit holds from the warm threshold upward (R33). -/
def Balance.dutyLimit (b : Balance) (p : Profile) : Nat :=
  if p.warm ≤ b.duty then p.warmGrade else 0

/-- A carousel's move start is blocked while COOLING, balance fault or the line hold stands (R49). -/
def State.moveBlocked (s : State) (c : Nat) : Bool :=
  (s.bal c).cooling || (s.bal c).fault || s.lineHeld

/-- A carousel whose bays are offered to placement and allocation: READY, MOVING or PRESENTING with the balance-fault
flag clear (R79, R98). -/
def State.offersBays (s : State) (c : Nat) : Bool :=
  (decide ((s.car c).state = .ready) || decide ((s.car c).state = .moving) ||
    decide ((s.car c).state = .presenting)) && !(s.bal c).fault

/-! ## Batch windows (R92) -/

/-- The window of a group admits batch x when max(high, x) − min(low, x) is within the tolerance (R92). -/
def windowAdmits (w : Option Window) (tolerance x : Nat) : Bool :=
  match w with
  | none => true
  | some w => decide (max w.high x - min w.low x ≤ tolerance)

/-- The window after a batch is added (R92). -/
def widen (w : Option Window) (x : Nat) : Option Window :=
  match w with
  | none => some { low := x, high := x }
  | some w => some { low := min w.low x, high := max w.high x }

end Sys2Proof.Machine
end

