-- ==== Sys2Proof/Machine/Link.lean ====
section
/-! DEFINITION. The link port's transmit side (R172), notices (R181, Table 11-7), results (R174, R175, Table 11-6) and
the taking of a received frame (R171). -/

namespace Sys2Proof.Machine

/-- The own link station number: the profile's, or the straps' in AWAIT-PROFILE (R170). -/
def State.ownLink (s : State) : Byte :=
  match s.link.profile with
  | some p => p.station
  | none => s.link.strap

/-- The maximum payload in force on the link (R170). -/
def State.linkMax (s : State) : Nat :=
  match s.link.profile with
  | some p => p.maxPayload
  | none => 496

/-- The maximum payload in force on the line (R157). -/
def State.lineMax (s : State) : Nat :=
  match s.line.profile with
  | some p => p.maxPayload
  | none => 496

/-- Adds an error to the link error set (R171). -/
def State.linkError (s : State) (e : PortError) : State :=
  { s with link := { s.link with errors := s.link.errors.add e } }

/-- Adds an error to the line error set (R157). -/
def State.lineError (s : State) (e : PortError) : State :=
  { s with line := { s.line with errors := s.line.errors.add e } }

/-- The transmit queue has no free place for a notice or a forwarded frame: it holds 16, or a RESULT waits (R172). -/
def LinkPort.txFull (l : LinkPort) : Bool :=
  decide (16 ≤ l.tx.length) || l.waiting.isSome

/-- Puts a notice or a forwarded frame into the transmit queue of an ACTIVE port, or drops it with OVERSIZE or
LINK-FULL (R172); one that is both too long and without a place adds OVERSIZE alone (log 42). -/
def State.queueLink (s : State) (f : Frame) : State :=
  if s.linkMax < f.payload.length then s.linkError .oversize
  else if s.link.txFull then s.linkError .full
  else { s with link := { s.link with tx := s.link.tx ++ [{ frame := f }] } }

/-- A floor frame handed to the link port for the warehouse computer, header and payload unchanged (R161); in
AWAIT-PROFILE it is discarded without error (R172). -/
def State.forward (s : State) (f : Frame) : State :=
  if s.linkActive then s.queueLink f else s

/-! ## Notices -/

/-- The causes of a CAROUSEL-FAULT notice (R53). -/
inductive FaultCause where
  | timeout
  | wrongIndex
  | noAccept
  | drive
  deriving DecidableEq, Repr

/-- The reasons of a PUT-REFUSED notice (Table 4-3). -/
inductive PutRefusal where
  | badRead
  | unknownItem
  | noRoom
  | noTask
  | damaged
  deriving DecidableEq, Repr

/-- The causes of an AUDIT-DONE notice (R147). -/
inductive SweepCause where
  | complete
  | stopped
  | mode
  deriving DecidableEq, Repr

/-- The reasons of a PASSTHROUGH-REFUSED notice (R163, R164). -/
inductive PassRefusal where
  | notProfiled
  | ownStation
  | drive
  | oversize
  | outboxFull
  deriving DecidableEq, Repr

/-- A notice with the fields its raising rule names, in that rule's order (Table 10-6). -/
inductive Notice where
  | orderStaged (order lane arrived : Nat) (exception : Bool)
  | orderShort (order : Nat) (policy : ShortPolicy) (groups total : Nat)
  | misSort (lane : Nat) (order : Option Nat) (state : LaneState) (tyre : Option Tyre)
  | tyreLost (e : TransitEntry)
  | taskStalled (task : Nat) (kind : TaskKind) (bay : BayId) (quantity taken : Nat)
  | putRefused (reason : PutRefusal) (tyre : Option Tyre)
  | carouselFault (carousel : Nat) (cause : FaultCause) (index : Option Nat)
  | balanceFault (carousel : Nat) (w t : Int)
  | balanceDeviation (carousel index : Nat) (measured computed : Int)
  | cooling (carousel : Nat) (on : Bool) (duty : Nat)
  | auditDone (carousel number : Nat) (origin : SweepOrigin) (cause : SweepCause) (done mismatches : Nat)
  | discrepancy (e : Discrepancy)
  | listFull (overflow : Nat)
  | lineHeld (drive : Bool)
  | lineClear (drive : Bool)
  | urgentFrame (element : Nat) (frame : Frame)
  | passthroughRefused (reason : PassRefusal) (frame : Frame)
  | unaccepted (dest kind tag : Byte) (origin : FrameOrigin) (transmissions : Nat)
  deriving DecidableEq, Repr

/-- The code of a notice (Table 11-7). -/
def noticeCode : Notice → Nat
  | .orderStaged .. => 0
  | .orderShort .. => 1
  | .misSort .. => 2
  | .tyreLost .. => 3
  | .taskStalled .. => 4
  | .putRefused .. => 5
  | .carouselFault .. => 6
  | .balanceFault .. => 7
  | .balanceDeviation .. => 8
  | .cooling .. => 9
  | .auditDone .. => 10
  | .discrepancy .. => 11
  | .listFull .. => 12
  | .lineHeld .. => 13
  | .lineClear .. => 14
  | .urgentFrame .. => 15
  | .passthroughRefused .. => 16
  | .unaccepted .. => 17

/-- The position of a carousel state in Table 3-3. -/
def carouselStateCode : CarouselState → Byte
  | .offline => 0
  | .unhomed => 1
  | .ready => 2
  | .moving => 3
  | .presenting => 4
  | .driveFault => 5
  | .manual => 6

/-- The position of a lane state in Table 7-1. -/
def laneStateCode : LaneState → Byte
  | .free => 0
  | .filling => 1
  | .complete => 2
  | .exception => 3
  | .returning => 4

/-- The position of a sweep policy in its list: CORRECT, REPORT. -/
def policyCode : SweepPolicy → Byte
  | .correct => 0
  | .report => 1

/-- The position of a sweep origin in Table 8-1. -/
def originCode : SweepOrigin → Byte
  | .request => 0
  | .automatic => 1

/-- The position of a discrepancy kind in Table 8-3. -/
def discrepancyCode : DiscrepancyKind → Byte
  | .count => 0
  | .label => 1
  | .unexpected => 2
  | .missing => 3
  | .unread => 4
  | .shortPick => 5

/-- The three bytes of a bay address C.K.B (Table 11-4). -/
def bayBytes (id : BayId) : List Byte :=
  [byte id.carousel, byte id.carrier, byte id.bay]

/-- An article and batch, each possibly absent (R186). -/
def tyreOptBytes (t : Option Tyre) : List Byte :=
  optBytes 4 (t.map Tyre.article) ++ optBytes 2 (t.map Tyre.batch)

/-- A frame's header: length, destination, source, kind and tag (R161). -/
def headerBytes (f : Frame) : List Byte :=
  beBytes 2 f.payload.length ++ [f.dest, f.src, f.kind, f.tag]

/-- A discrepancy entry whole, in the order of Table 8-3 (R151; the tally list's layout is log 12). -/
def discrepancyBytes (e : Discrepancy) : List Byte :=
  [byte e.number, byte e.carousel] ++ beBytes 2 e.position ++ [discrepancyCode e.kind] ++
    tyreOptBytes e.recordedTyre ++ [byte e.recordedCount, byte e.recordedIncoming] ++
    listBytes (fun f => beBytes 4 f.tyre.article ++ beBytes 2 f.tyre.batch ++ [byte f.count]) e.found ++
    [byte e.foundTotal] ++ optBytes 2 e.sweep ++ [flagByte e.corrected]

/-- The fields of a notice in bytes (R186, log 12); the source of a TYRE-LOST has the codes that Table 11-5 prints for a
ROUTE's source point (log 39). -/
def noticeFields : Notice → List Byte
  | .orderStaged order lane arrived exception =>
    beBytes 4 order ++ [byte lane, countByte arrived, flagByte exception]
  | .orderShort order policy groups total =>
    beBytes 4 order ++ [match policy with | .wait => 0 | .part => 1, countByte groups, countByte total]
  | .misSort lane order state tyre =>
    [byte lane] ++ optBytes 4 order ++ [laneStateCode state] ++ tyreOptBytes tyre
  | .tyreLost e =>
    beBytes 4 e.group.order ++ [byte e.group.line, byte e.group.group] ++ beBytes 4 e.tyre.article ++
      beBytes 2 e.tyre.batch ++ [byte e.lane] ++ sourceBytes e.source ++ [flagByte e.unrouted]
  | .taskStalled task kind bay quantity taken =>
    [byte task, match kind with | .pick => 0 | .put => 1] ++ bayBytes bay ++ [countByte quantity, countByte taken]
  | .putRefused reason tyre =>
    [match reason with | .badRead => 0 | .unknownItem => 1 | .noRoom => 2 | .noTask => 3 | .damaged => 4] ++
      tyreOptBytes tyre
  | .carouselFault carousel cause index =>
    [byte carousel, match cause with | .timeout => 0 | .wrongIndex => 1 | .noAccept => 2 | .drive => 3] ++
      optBytes 1 index
  | .balanceFault carousel w t => [byte carousel] ++ loadBytes w ++ loadBytes t
  | .balanceDeviation carousel index measured computed =>
    [byte carousel, byte index] ++ signedBytes measured ++ signedBytes computed
  | .cooling carousel on duty => [byte carousel, flagByte on] ++ beBytes 2 duty
  | .auditDone carousel number origin cause done mismatches =>
    [byte carousel] ++ beBytes 2 number ++
      [originCode origin, match cause with | .complete => 0 | .stopped => 1 | .mode => 2,
        countByte done, countByte mismatches]
  | .discrepancy e => discrepancyBytes e
  | .listFull overflow => [countByte overflow]
  | .lineHeld drive => [flagByte drive]
  | .lineClear drive => [flagByte drive]
  | .urgentFrame element frame => byte element :: headerBytes frame
  | .passthroughRefused reason frame =>
    [match reason with | .notProfiled => 0 | .ownStation => 1 | .drive => 2 | .oversize => 3 | .outboxFull => 4] ++
      headerBytes frame
  | .unaccepted dest kind tag origin transmissions =>
    [dest, kind, tag, match origin with | .part => 0 | .link _ => 1, countByte transmissions]

/-- The frame of a notice (R172, R188): to the source of the last accepted LINK-PROFILE, tag 0. -/
def noticeFrame (p : LinkProfile) (n : Notice) : Frame where
  dest := p.host
  src := p.station
  kind := kindNotice
  tag := 0
  payload := byte (noticeCode n) :: noticeFields n

/-- Raises a notice: it is built when its kind is in the enable set of the link profile and then queued or dropped
(R181, R172); in AWAIT-PROFILE the enable set is empty (R170). -/
def State.notify (s : State) (n : Notice) : State :=
  match s.link.profile with
  | none => s
  | some p => if p.enable.getLsbD (noticeCode n) then s.queueLink (noticeFrame p n) else s

/-! ## Results -/

/-- The outcomes of a RESULT (R175). -/
inductive ResultOutcome where
  | done
  | partly
  | refused
  deriving DecidableEq, Repr

/-- The refusal reasons (Table 10-2). -/
inductive Reason where
  | notProfiled
  | badFormat
  | badValue
  | noSpace
  | inUse
  | wrongState
  | unknownItem
  | balance
  | tooLate
  deriving DecidableEq, Repr

/-- The code of a refusal reason (Table 11-2). -/
def reasonCode : Reason → Byte
  | .notProfiled => 1
  | .badFormat => 2
  | .badValue => 3
  | .noSpace => 4
  | .inUse => 5
  | .wrongState => 6
  | .unknownItem => 7
  | .balance => 8
  | .tooLate => 9

/-- What a request's owner answers (R174). -/
structure Reply where
  outcome : ResultOutcome
  reason : Option Reason := none
  fields : List Byte := []
  deriving DecidableEq, Repr

/-- The request was carried out whole (R175). -/
def Reply.done (fields : List Byte := []) : Reply :=
  { outcome := .done, fields }

/-- The request stopped part way (R175). -/
def Reply.partly (fields : List Byte) : Reply :=
  { outcome := .partly, fields }

/-- The request changed nothing (R175). -/
def Reply.refused (r : Reason) : Reply :=
  { outcome := .refused, reason := some r }

/-- The payload of a RESULT (Table 11-6). -/
def resultPayload (kind : Byte) (r : Reply) : List Byte :=
  [match r.outcome with | .done => 0 | .partly => 1 | .refused => 2,
    match r.reason with | none => 0 | some x => reasonCode x, kind] ++ r.fields

/-- The RESULT that answers the request in frame `f` (R172, R174): to its source, with its tag. A LINK-PROFILE's RESULT
carries the number the request was addressed to (R170). -/
def resultFrame (s : State) (f : Frame) (r : Reply) : Frame where
  dest := f.src
  src := if f.kind = kindLinkProfile then f.dest else s.ownLink
  kind := kindResult
  tag := f.tag
  payload := resultPayload f.kind r

/-- Puts a RESULT into the transmit queue, or keeps it waiting for a free place (R172, R174). `resets` marks the RESULT
of a PORT-RESET LINK (R180). -/
def State.answer (s : State) (f : Frame) (r : Reply) (resets : Bool := false) : State :=
  let out : Outgoing := { frame := resultFrame s f r, resets }
  if s.link.tx.length < 16 then { s with link := { s.link with tx := s.link.tx ++ [out] } }
  else { s with link := { s.link with waiting := some out } }

/-- The management unit takes a request when no RESULT waits and no PORT-RESET LINK is outstanding (R172, R174,
R180). -/
def LinkPort.unitFree (l : LinkPort) : Bool :=
  l.waiting.isNone && !(l.tx.any Outgoing.resets)

/-- Steps 2 to 4 of a break: both queues and the waiting RESULT go, the error set is emptied, the profile is discarded
and the port enters AWAIT-PROFILE (R173, R180). -/
def State.resetLink (s : State) : State :=
  { s with link := { s.link with rx := [], tx := [], waiting := none, errors := {}, profile := none } }

/-! ## Reception (R183, R171, R157) -/

/-- What the reception of one byte does to a receiver: its new state, an error found, and a frame received whole (the
bytes after SYNC). -/
structure Received1 where
  receiver : Receiver
  error : Option PortError := none
  whole : Option (List Byte) := none
  deriving DecidableEq, Repr

/-- One byte at a port with maximum payload `max` (R183). -/
def receiveByte (max : Nat) (r : Receiver) (b : Byte) : Received1 :=
  match r with
  | .hunting run half =>
    if half && b == 0x3C then { receiver := .taking [] }
    else if b == 0xC3 then
      { receiver := .hunting (run || half) true, error := if half && !run then some .framing else none }
    else { receiver := .hunting true false, error := if run then none else some .framing }
  | .taking got =>
    let all := got ++ [b]
    let length := beNat (all.take 2)
    if all.length < 2 then { receiver := .taking all }
    else if all.length = 2 ∧ max < length then { receiver := .disregarding (length + 6), error := some .oversize }
    else if all.length < 8 + length then { receiver := .taking all }
    else { receiver := .hunting false false, whole := some all }
  | .disregarding left =>
    if left ≤ 1 then { receiver := .hunting false false } else { receiver := .disregarding (left - 1) }

/-- A frame received whole on the link goes through the tests of R171 that follow its LENGTH. -/
def State.takeLinkFrame (s : State) (got : List Byte) : State :=
  match frameOf got with
  | none => s
  | some f =>
    if !checkAgrees got then s.linkError .check
    else if !s.linkActive && !(f.kind == kindLinkProfile && f.dest == s.ownLink) then s.linkError .sequence
    else if 8 ≤ s.link.rx.length then s.linkError .overrun
    else { s with link := { s.link with rx := s.link.rx ++ [{ frame := f, request := f.dest == s.ownLink }] } }

/-- A frame received whole on the line goes through the tests of R157 that follow its LENGTH. -/
def State.takeLineFrame (s : State) (got : List Byte) : State :=
  match frameOf got with
  | none => s
  | some f =>
    if !checkAgrees got then s.lineError .check
    else if !s.lineActive then s.lineError .sequence
    else if 16 ≤ s.line.rx.length then s.lineError .overrun
    else { s with line := { s.line with rx := s.line.rx ++ [f] } }

/-- One byte on the link receive pair. -/
def State.linkByte (s : State) (b : Byte) : State :=
  let r := receiveByte s.linkMax s.link.receiver b
  let s1 := { s with link := { s.link with receiver := r.receiver } }
  let s2 := match r.error with | some e => s1.linkError e | none => s1
  match r.whole with
  | some got => s2.takeLinkFrame got
  | none => s2

/-- One byte on the line receive pair. -/
def State.lineByte (s : State) (b : Byte) : State :=
  let r := receiveByte s.lineMax s.line.receiver b
  let s1 := { s with line := { s.line with receiver := r.receiver } }
  let s2 := match r.error with | some e => s1.lineError e | none => s1
  match r.whole with
  | some got => s2.takeLineFrame got
  | none => s2

/-- An idle gap of 1 ms or more at a receiver: a partial frame is discarded with FRAMING, the disregarding of an
oversize frame ends, and the port hunts again (R183). A lone C3h before the gap begins no frame: it is one more byte of
the run outside a frame, which a gap does not end (log 24). -/
def receiveGap (r : Receiver) : Received1 :=
  match r with
  | .hunting run half =>
    if half then { receiver := .hunting true false, error := if run then none else some .framing }
    else { receiver := .hunting run false }
  | .taking _ => { receiver := .hunting false false, error := some .framing }
  | .disregarding _ => { receiver := .hunting false false }

end Sys2Proof.Machine
end

