-- ==== Sys2Proof/Machine/Outbox.lean ====
section
/-! DEFINITION. The command outbox (chapter 9): the FIFO and the frames the part builds for it (R164), the transmitter
(R165), the slots and the cancel of a MOVE (R167), and the transit list's side of a lost ROUTE (R132). -/

namespace Sys2Proof.Machine

/-! ## Transit entries (R130 to R132) -/

/-- A ROUTE dropped or exhausted: the EN-ROUTE entry it was built for becomes UNROUTED; an entry that no longer exists
is no entry (R132, R169). -/
def State.routeLost (s : State) (serial : Nat) : State :=
  { s with consolidation := { s.consolidation with
      transit := s.consolidation.transit.map fun e => if e.serial = serial then { e with unrouted := true } else e } }

/-- The report of a lost frame to the transit entry it was built for, if any (R132, R83). -/
def State.reportLost (s : State) (f : OutFrame) : State :=
  match f.entry with
  | some serial => s.routeLost serial
  | none => s

/-- The grant test: n entries whole, or nothing (R130). -/
def State.grant (s : State) (n : Nat) : Option State :=
  if s.consolidation.transit.length + s.consolidation.reserved + n ≤ 64 then
    some { s with consolidation := { s.consolidation with reserved := s.consolidation.reserved + n } }
  else none

/-- A give-back lowers the reservation count by n and reports entries freed (R130). -/
def State.giveBack (s : State) (n : Nat) : State :=
  if n = 0 then s
  else State.noteFreed
    { s with consolidation := { s.consolidation with reserved := s.consolidation.reserved - n } }

/-- The free places of the transit list, 0-63 (R130). -/
def State.freePlaces (s : State) : List Nat :=
  (List.range 64).filter fun p => !(s.consolidation.transit.any fun e => e.place == p)

/-- Fills an entry from a reservation its claimant holds: a free place, the fields given, EN-ROUTE, at the tail
(R131). Which free place is a free value (log 7). A reservation held leaves a place free (R130); where none is free nothing
is filled. Also gives the entry's serial. -/
def State.fillEntry (s : State) (group : GroupRef) (tyre : Tyre) (lane : Nat) (source : ConveyorSource)
    (deadline : Nat) : State × Nat :=
  let free := s.freePlaces
  let serial := s.consolidation.nextSerial
  if free.isEmpty then (s, serial)
  else
    let place := free.getD (Config.placeChoice s.choices % free.length) 0
    let entry : TransitEntry := { place, serial, group, tyre, lane, source, deadline }
    ({ s with
        choices := s.choices + 1
        consolidation := { s.consolidation with
          transit := s.consolidation.transit ++ [entry]
          reserved := s.consolidation.reserved - 1
          nextSerial := serial + 1 } }, serial)

/-- Removes the entries that a test picks, and reports entries freed if any was removed (R130). -/
def State.removeEntries (s : State) (pick : TransitEntry → Bool) : State :=
  if s.consolidation.transit.any pick then
    State.noteFreed
      { s with consolidation := { s.consolidation with
          transit := s.consolidation.transit.filter fun e => !pick e } }
  else s

/-! ## The FIFO (R164) -/

/-- Puts `new` in the place of the last element that a test picks; none where no element is picked. -/
def replaceLast {α : Type} (pick : α → Bool) (new : α) : List α → Option (List α)
  | [] => none
  | x :: xs =>
    match replaceLast pick new xs with
    | some l => some (x :: l)
    | none => if pick x then some (new :: xs) else none

/-- A passthrough frame as a link frame again, for the notices that carry its header (R163, R164). -/
def OutFrame.asFrame (f : OutFrame) (own : Byte) : Frame where
  dest := f.dest
  src := match f.origin with | .part => own | .link src => src
  kind := f.kind
  tag := f.tag
  payload := f.payload

/-- A frame finds the FIFO full: dropped with OUTBOX-FULL, and reported by its kind (R164). -/
def State.dropFrame (s : State) (f : OutFrame) : State :=
  let s1 := (s.lineError .full).reportLost f
  match f.origin with
  | .part => s1
  | .link _ => s1.notify (.passthroughRefused .outboxFull (f.asFrame 0))

/-- A frame joins the tail of the FIFO; an INDICATE that finds it full takes the place of the INDICATE for
the same station nearest the tail; any other frame that finds it full is dropped (R164). -/
def State.joinFifo (s : State) (f : OutFrame) : State :=
  if s.outbox.fifo.length < 32 then { s with outbox := { s.outbox with fifo := s.outbox.fifo ++ [f] } }
  else if f.kind = kindIndicate then
    match replaceLast (fun g => g.kind == kindIndicate && g.dest == f.dest) f s.outbox.fifo with
    | some l => { s with outbox := { s.outbox with fifo := l } }
    | none => s.dropFrame f
  else s.dropFrame f

/-- The part builds a frame: it takes the tag counter's value, which advances by 1, mod 256 (R164). -/
def State.takeTag (s : State) : Byte × State :=
  (s.outbox.tagCounter, { s with outbox := { s.outbox with tagCounter := s.outbox.tagCounter + 1 } })

/-- Builds a frame of the part and puts it into the FIFO (R164). The tag is taken before the FIFO is tested for room, so a
frame that is dropped uses one up (log 41). -/
def State.build (s : State) (dest kind : Byte) (payload : List Byte) (entry : Option Nat := none) : State :=
  let t := s.takeTag
  t.2.joinFifo { dest, kind, tag := t.1, payload, entry }

/-- An INDICATE for the mouth reader of carousel `c` (R84, R112). -/
def State.indicate (s : State) (c bay : Nat) (action : Indication) (quantity width : Nat) : State :=
  match (s.car c).profile with
  | some p => s.build p.reader kindIndicate (indicatePayload bay action quantity width)
  | none => s

/-- A STOP frame for the drive of carousel `c` (R52, R64). -/
def State.sendStop (s : State) (c : Nat) : State :=
  match (s.car c).profile with
  | some p => s.build p.drive kindStop []
  | none => s

/-- A STATUS-QUERY frame for the drive of carousel `c` (R50, R69). -/
def State.sendStatusQuery (s : State) (c : Nat) : State :=
  match (s.car c).profile with
  | some p => s.build p.drive kindStatusQuery []
  | none => s

/-- A SCAN-CARRIER frame for the mouth reader of carousel `c` (R143). -/
def State.sendScan (s : State) (c carrier : Nat) : State :=
  match (s.car c).profile with
  | some p => s.build p.reader kindScanCarrier (scanPayload carrier p.bays)
  | none => s

/-- A ROUTE frame for the diverter (R83, R114). -/
def State.sendRoute (s : State) (source : ConveyorSource) (dest : RouteTo) (tyre : Tyre)
    (entry : Option Nat := none) : State :=
  s.build s.diverter kindRoute (routePayload source dest tyre) entry

/-! ## Slots (R164, R167) -/

/-- The MOVE in a carousel's slot. -/
def State.slot (s : State) (c : Nat) : Option SlotMove :=
  s.outbox.slots.getD c none

/-- Writes a carousel's slot. -/
def State.setSlot (s : State) (c : Nat) (m : Option SlotMove) : State :=
  { s with outbox := { s.outbox with slots := s.outbox.slots.modify c fun _ => m } }

/-- A MOVE of `c` that is still with the transmitter leaves its slot and stays with the transmitter (R164). -/
def Transmitter.displace (tx : Transmitter) (c : Nat) : Transmitter :=
  match tx with
  | .idle => .idle
  | .sending x => if x.source = .slot c then .sending { x with source := .displaced } else tx
  | .awaiting x e l => if x.source = .slot c then .awaiting { x with source := .displaced } e l else tx

/-- Places the MOVE of a move's start in the carousel's slot, under a tag of its own (R61, R164). -/
def State.placeMove (s : State) (c level : Nat) (dest : Byte) (payload : List Byte) : State :=
  let t := s.takeTag
  let s1 := { t.2 with outbox := { t.2.outbox with tx := t.2.outbox.tx.displace c } }
  s1.setSlot c (some { frame := { dest, kind := kindMove, tag := t.1, payload }, level })

/-- A slot once its unsent MOVE, if it holds one, is removed (R159, R169). -/
def unsentRemoved (m : Option SlotMove) : Option SlotMove :=
  match m with
  | some x => if x.chosen then some x else none
  | none => none

/-- The outbox's answer to a cancel: an unsent MOVE is removed and the cancel is finished; any other MOVE runs on
(R167). -/
def State.cancelMove (s : State) (c : Nat) : State × Bool :=
  match s.slot c with
  | some m => if m.chosen then (s, false) else (s.setSlot c none, true)
  | none => (s, false)

/-! ## The transmitter (R165) -/

/-- The slots with an unsent MOVE, as (carousel, level). -/
def State.unsentMoves (s : State) : List (Nat × Nat) :=
  (List.range 8).filterMap fun c =>
    match s.slot c with
    | some m => if m.chosen then none else some (c, m.level)
    | none => none

/-- The highest level first and, among equal levels, the lowest carousel number; the list is in carousel order. -/
def bestMove : List (Nat × Nat) → Option (Nat × Nat)
  | [] => none
  | x :: xs =>
    match bestMove xs with
    | none => some x
    | some y => if y.2 ≤ x.2 then some x else some y

/-- The source station of a frame at its transmission: the own line station number for a frame the part built (R166),
its own for a passthrough frame (R163). -/
def State.lineSource (s : State) (f : OutFrame) : Byte :=
  match f.origin with
  | .link src => src
  | .part =>
    match s.line.profile with
    | some p => p.station
    | none => 0

/-- The idle transmitter of an ACTIVE port chooses the next frame and begins sending it (R165). -/
def State.startTransmission (s : State) : State :=
  if s.outbox.tx = .idle ∧ s.lineActive then
    match bestMove s.unsentMoves with
    | some (c, _) =>
      match s.slot c with
      | some m =>
        let s1 := s.setSlot c (some { m with chosen := true })
        { s1 with outbox := { s1.outbox with
            tx := .sending { frame := m.frame, src := s.lineSource m.frame, source := .slot c } } }
      | none => s
    | none =>
      match s.outbox.fifo with
      | f :: rest =>
        { s with outbox := { s.outbox with
            fifo := rest, tx := .sending { frame := f, src := s.lineSource f, source := .fifo } } }
      | [] => s
  else s

/-- The last byte of the frame is sent: a frame addressed to 255 completes, any other starts its acceptance wait under
the profile's reply window and repeat limit (R165, R156). -/
def State.endTransmission (s : State) : State :=
  match s.outbox.tx with
  | .sending x =>
    if x.frame.dest = broadcast then { s with outbox := { s.outbox with tx := .idle } }
    else
      match s.line.profile with
      | some p => { s with outbox := { s.outbox with tx := .awaiting x (s.now + p.replyWindow) p.repeatLimit } }
      | none => s
  | _ => s

/-- The transmitter becomes idle. -/
def State.txIdle (s : State) : State :=
  { s with outbox := { s.outbox with tx := .idle } }

/-- A frame is sent again at once with the same tag (R165); its source is the number at this transmission (R166). -/
def State.repeatFrame (s : State) (x : Sending) : State :=
  { s with outbox := { s.outbox with
      tx := .sending { x with repeats := x.repeats + 1, src := s.lineSource x.frame } } }

/-- The report of an exhausted frame other than a slot's MOVE, by its kind (R165): a ROUTE to its transit entry, a
displaced MOVE to no one (R164), any other frame by an UNACCEPTED notice. -/
def State.reportExhausted (s : State) (x : Sending) : State :=
  match x.source with
  | .displaced => s
  | .slot _ => s
  | .fifo =>
    match x.frame.origin with
    | .part =>
      if x.frame.kind = kindRoute then s.reportLost x.frame
      else s.notify (.unaccepted x.frame.dest x.frame.kind x.frame.tag .part (x.repeats + 1))
    | .link src => s.notify (.unaccepted x.frame.dest x.frame.kind x.frame.tag (.link src) (x.repeats + 1))

end Sys2Proof.Machine
end

