-- ==== Sys2Proof/Machine/Loads.lean ====
section
/-! DEFINITION. The arithmetic of the balance unit: loads, half-loop sums, W and T (R22 to R24), the three admission
questions (R27 to R29), the floor and the choice of a grade (R33, R34), and the budget (R35). -/

namespace Sys2Proof.Machine

/-! ## Loads and sums (R22, R23) -/

/-- S(r): the sum of the loads of side A(r), the N/2 carriers (r + j) mod N (R23). -/
def halfSum (loads : List Int) (r : Nat) : Int :=
  ((List.range (loads.length / 2)).map fun j => loads.getD ((r + j) % loads.length) 0).sum

/-- S(r) for every rotation index (R23). -/
def halfSumsOf (loads : List Int) : List Int :=
  (List.range loads.length).map (halfSum loads)

/-- The largest element; 0 for an empty list (a carousel with no loads reads W as 0, R22). -/
def largest : List Int → Int
  | [] => 0
  | x :: xs => xs.foldl max x

/-- W from the half-loop sums and T: the largest 2 × S(r) − T (R23). -/
def worstOf (sums : List Int) (total : Int) : Int :=
  largest (sums.map fun x => 2 * x - total)

/-- The state (W, T) that loads show (R23, R26). -/
def stateOf (loads : List Int) : Int × Int :=
  (worstOf (halfSumsOf loads) loads.sum, loads.sum)

/-- Forms the loads of a carousel, with the sums and maxima derived from them (R22, R23). -/
def Balance.formLoads (b : Balance) (loads : List Int) : Balance :=
  { b with
    loads
    halfSums := halfSumsOf loads
    total := loads.sum
    worst := worstOf (halfSumsOf loads) loads.sum }

/-- Carrier i lies on side A(r) of a loop of n carriers (R23). -/
def onSideA (n r i : Nat) : Bool :=
  decide ((i + n - r) % n < n / 2)

/-- A load change of δ on carrier i: L[i], the N/2 sums whose side A contains i, T, and W anew (R24). -/
def Balance.applyChange (b : Balance) (i : Nat) (δ : Int) : Balance :=
  let sums := b.halfSums.mapIdx fun r x => if onSideA b.loads.length r i then x + δ else x
  { b with
    loads := b.loads.modify i (· + δ)
    halfSums := sums
    total := b.total + δ
    worst := worstOf sums (b.total + δ) }

/-- A changed tare: every L[i] by the difference d, T by N × d, each S(r) by N/2 × d, W unchanged (R22). -/
def Balance.changeTare (b : Balance) (d : Int) : Balance :=
  { b with
    loads := b.loads.map (· + d)
    halfSums := b.halfSums.map (· + (b.loads.length / 2 : Nat) * d)
    total := b.total + b.loads.length * d }

/-! ## Admission questions (R27 to R29) -/

/-- The weight that the incoming puts of a carrier's bays will add (R27). -/
def State.incomingWeight (s : State) (c carrier : Nat) : Int :=
  let b := s.baysPerCarrier c
  (((s.baysOf c).drop (carrier * b)).take b).map (fun bay =>
    match bay.tyre with
    | some t => ((bay.incoming * s.weight t.article : Nat) : Int)
    | none => 0) |>.sum

/-- The prospective load of every carrier: the recorded load and the incoming puts (R27). -/
def State.prospectiveLoads (s : State) (c : Nat) : List Int :=
  (s.bal c).loads.mapIdx fun j l => l + s.incomingWeight c j

/-- The removal test of allocation: the committed state less n tyres of an article from carrier i (R28). -/
def State.removalTest (s : State) (c i n article : Nat) : Bool :=
  let b := s.bal c
  let st := stateOf (b.loads.modify i (· - ((n * s.weight article : Nat) : Int)))
  b.admits st.1 st.2

/-- The change that the release test of a task makes to its carrier's load (R29). -/
def State.releaseChange (s : State) (t : Task) : Int :=
  match t.kind with
  | .pick =>
    match (s.bay t.bay).tyre with
    | some y => -(((t.quantity - t.taken) * s.weight y.article : Nat) : Int)
    | none => 0
  | .put =>
    match t.tyre with
    | some y => (s.weight y.article : Int)
    | none => 0

/-- The release test: the post-step state is admitted by the last enabled grade (R29). -/
def State.releaseTest (s : State) (t : Task) : Bool :=
  let b := s.bal t.bay.carousel
  let st := stateOf (b.loads.modify t.bay.carrier (· + s.releaseChange t))
  b.admits st.1 st.2

/-! ## Floor and grade (R33, R34) -/

/-- The balance limit: the smallest request index whose grade admits the committed (W, T) (R33). -/
def Balance.balanceLimit (b : Balance) : Option Nat :=
  b.enabledGrades.findIdx? fun g => g.admits b.worst b.total

/-- The floor: the largest of the three limits, clamped to the last enabled grade; none where no enabled grade admits
the committed state (R33). -/
def State.floor (s : State) (c : Nat) : Option Nat :=
  let b := s.bal c
  match (s.car c).profile, b.balanceLimit with
  | some p, some limit => some (min (max limit (max (b.dutyLimit p) b.cap)) (b.enabledGrades.length - 1))
  | _, _ => none

/-- C: the sum of the claims of moves in flight (R34). -/
def Power.claimed (p : Power) : Nat :=
  (p.claims.map Claim.draw).sum

/-- E is set to max(target, C) (R35). -/
def Power.settleBudget (p : Power) : Power :=
  { p with budget := max p.target p.claimed }

/-- A start adds its claim to C and leaves E unchanged (R35). -/
def Power.addClaim (p : Power) (c draw : Nat) : Power :=
  { p with claims := p.claims ++ [{ carousel := c, draw := draw }] }

/-- A claim is released: C falls by it and E is set anew (R37, R35). -/
def Power.dropClaim (p : Power) (c : Nat) : Power :=
  Power.settleBudget { p with claims := p.claims.filter fun x => x.carousel != c }

/-- The smallest request index from the floor onward whose draw fits E − C (R34). -/
def State.resolveGrade (s : State) (c : Nat) : Option Grade :=
  match s.floor c with
  | some f => ((s.bal c).enabledGrades.drop f).find? fun g => decide (g.power ≤ s.power.budget - s.power.claimed)
  | none => none

/-- A claim is kept for carousel `c` (R37). -/
def State.hasClaim (s : State) (c : Nat) : Bool :=
  s.power.claims.any fun x => x.carousel == c

/-! ## Distances (R61) -/

/-- The ascending distance from index `i` to carrier `t` on a loop of n. -/
def ascendingDistance (n i t : Nat) : Nat :=
  (t + n - i) % n

/-- The descending distance from index `i` to carrier `t`. -/
def descendingDistance (n i t : Nat) : Nat :=
  (i + n - t) % n

/-- The move from index `i` to carrier `t`: the shorter way round, ascending when both are N/2 (R61). -/
def planMove (n i t draw : Nat) : Move :=
  if ascendingDistance n i t ≤ descendingDistance n i t then
    { target := t, start := i, ascending := true, distance := ascendingDistance n i t, draw }
  else { target := t, start := i, ascending := false, distance := descendingDistance n i t, draw }

/-- The carriers from the move's start to a reported index, counted in the move's direction (R39). -/
def Move.travelled (m : Move) (n reported : Nat) : Nat :=
  if m.ascending then ascendingDistance n m.start reported else descendingDistance n m.start reported

end Sys2Proof.Machine
end

