-- ==== Sys2Proof/Machine/Sequencer.lean ====
section
/-! DEFINITION. The carousel sequencers' own operations (chapter 3): presentation (R66, R84, R112, R143), move start
(R61), release (R59), service points (R58), the power arbiter's offer pass (R36) and the release of claims (R37). -/

namespace Sys2Proof.Machine

/-- Sets the state of a task. -/
def State.taskState (s : State) (id : Nat) (st : TaskState) : State :=
  s.modTask id fun t => { t with state := st }

/-! ## Presentation -/

/-- The indication of a presented task: PICK with the quantity still to be taken and the width class of the bay's
article (R112), or PLACE with 1 and the width class of the task's article (R84). -/
def State.indicateTask (s : State) (c : Nat) (t : Task) : State :=
  match t.kind with
  | .pick =>
    let width := match (s.bay t.bay).tyre with | some y => s.widthClass y.article | none => 0
    s.indicate c t.bay.bay .pick (t.quantity - t.taken) width
  | .put =>
    let width := match t.tyre with | some y => s.widthClass y.article | none => 0
    s.indicate c t.bay.bay .place 1 width

/-- The carousel and its work in service enter PRESENTING (R66): a task starts the presentation timer and its
indication is built; a sweep step sends its first SCAN-CARRIER and starts the read timer (R143). -/
def State.present (s : State) (c : Nat) : State :=
  match (s.car c).inService with
  | some (.task id) =>
    let s1 := (s.taskState id .presenting).modCar c fun k =>
      { k with state := .presenting, presentationTimer := some (s.now + s.presentationMs) }
    match s1.task id with
    | some t => s1.indicateTask c t
    | none => s1
  | some .step =>
    match (s.car c).sweep with
    | some w =>
      let s1 := s.modCar c fun k => { k with state := .presenting }
      let s2 := s1.sendScan c w.next
      s2.modSweepRecord c fun r => { r with readAttempt := 1, readTimer := some (s.now + s.carrierReadMs) }
    | none => s
  | none => s

/-! ## Move start -/

/-- A move start for the work in service of `c` towards `target` (R34, R61): the grade's claim is added, the move
number advances, the MOVE takes the slot, and the carousel and its work enter MOVING. None where no grade fits. -/
def State.startMove (s : State) (c level target : Nat) : Option State :=
  match s.resolveGrade c, (s.car c).profile, (s.car c).index with
  | some g, some p, some i =>
    let m := planMove p.carriers i target g.power
    let number := ((s.car c).moveNumber + 1) % 256
    let s1 := { s with power := s.power.addClaim c g.power }
    let s2 := s1.placeMove c level p.drive (movePayload target m.ascending g.speed number)
    let s3 := s2.modCar c fun k => { k with state := .moving, move := some m, moveNumber := number }
    match (s.car c).inService with
    | some (.task id) => some (s3.taskState id .moving)
    | _ => some s3
  | _, _, _ => none

/-- An entry of the power wait list takes its place: level first, higher first, then entry sequence (R36). -/
def insertWait (e : WaitEntry) : List WaitEntry → List WaitEntry
  | [] => [e]
  | x :: xs => if e.level ≤ x.level then x :: insertWait e xs else e :: x :: xs

/-- The carousel's entry leaves the power wait list (R36). -/
def State.leaveWait (s : State) (c : Nat) : State :=
  { s with power := { s.power with waitList := s.power.waitList.filter fun e => e.carousel != c } }

/-- The work in service enters POWER-WAIT with its level (R58, R36); a carousel has at most one entry. -/
def State.enterWait (s : State) (c level : Nat) : State :=
  let e : WaitEntry := { carousel := c, level, sequence := s.power.nextSequence }
  let s1 := { s with power := { s.power with
    waitList := insertWait e (s.power.waitList.filter fun x => x.carousel != c), nextSequence := s.power.nextSequence + 1 } }
  match (s.car c).inService with
  | some (.task id) => s1.taskState id .powerWait
  | _ => s1

/-- Released work becomes the work in service: presented at once at the mouth, else moved, else in POWER-WAIT (R58). -/
def State.beginWork (s : State) (c : Nat) (w : Work) (level target : Nat) : State :=
  let s1 := s.modCar c fun k => { k with inService := some w }
  if (s.car c).index = some target then s1.present c
  else
    match s1.startMove c level target with
    | some s2 => s2
    | none => s1.enterWait c level

/-! ## Release and service points -/

/-- The transit entries a released task holds from its release on (R59): quantity − taken for a PICK, none for a PUT. -/
def State.releaseTransit (s : State) (id : Nat) (t : Task) : Option State :=
  match t.kind with
  | .pick => (s.grant (t.quantity - t.taken)).map fun s1 => s1.modTask id fun t => { t with transit := t.quantity - t.taken }
  | .put => some s

/-- One attempt to release a task (R59): the balance test, which on failure leaves it in BALANCE-WAIT in its place, and
the transit request. Also tells whether the release succeeded. -/
def State.attemptRelease (s : State) (c id : Nat) (t : Task) : State × Bool :=
  if s.releaseTest t then
    match s.releaseTransit id t with
    | some s1 => ((s1.modCar c fun k => k.unqueue id).beginWork c (.task id) t.level t.bay.carrier, true)
    | none => (s, false)
  else (s.taskState id .balanceWait, false)

/-- A task is eligible in QUEUED where its carrier is at the mouth or the move start is not blocked (R55). -/
def State.eligible (s : State) (c : Nat) (t : Task) : Bool :=
  decide (t.state = .queued) && (decide ((s.car c).index = some t.bay.carrier) || !s.moveBlocked c)

/-- The walk of a service point: each eligible task in turn until a release succeeds (R58). -/
def State.walk (c : Nat) : List Nat → State → State × Bool
  | [], s => (s, false)
  | id :: rest, s =>
    match s.task id with
    | none => State.walk c rest s
    | some t =>
      if s.eligible c t then
        match s.attemptRelease c id t with
        | (s1, true) => (s1, true)
        | (s1, false) => State.walk c rest s1
      else State.walk c rest s

/-- The sweep's next step is released when its carrier is at the mouth or the move start is not blocked (R58, R60). -/
def State.releaseStep (s : State) (c : Nat) : State :=
  match (s.car c).sweep with
  | some w =>
    if (s.car c).index = some w.next ∨ s.moveBlocked c = false then s.beginWork c .step 0 w.next else s
  | none => s

/-- A service point (R58), taken only in READY with nothing in service (R57). -/
def State.servicePoint (s : State) (c : Nat) : State :=
  if s.idleReady c then
    match State.walk c (s.car c).walkOrder s with
    | (s1, true) => s1
    | (s1, false) => s1.releaseStep c
  else s

/-- Service points of several carousels at one event, in a free order (log 6). -/
def State.servicePoints (s : State) (l : List Nat) : State :=
  let a := s.arrange (l.filter s.idleReady)
  a.1.foldl State.servicePoint a.2

/-! ## The power arbiter (R36, R37) -/

/-- One entry of an offer pass: passed over while its carousel cannot start a move, else started if a grade fits. -/
def State.offerEntry (s : State) (e : WaitEntry) : State :=
  if s.moveBlocked e.carousel then s
  else
    match s.targetCarrier e.carousel with
    | some target =>
      match s.startMove e.carousel e.level target with
      | some s1 => s1.leaveWait e.carousel
      | none => s
    | none => s

/-- The offer pass: the entries in list order, each against the E − C that the ones before it have left (R36). -/
def State.offerPass (s : State) : State :=
  s.power.waitList.foldl State.offerEntry s

/-- The claim kept for carousel `c`, if any, is released: C falls, E is set to max(target, C) and an offer pass follows
(R37). -/
def State.releaseClaim (s : State) (c : Nat) : State :=
  if s.hasClaim c then
    State.offerPass { s with power := s.power.dropClaim c }
  else s

/-! ## Queues and presentation end -/

/-- A task joins the tail of its level queue, which is a service point (R54, R57). -/
def State.joinTail (s : State) (id : Nat) : State :=
  match s.task id with
  | some t => (s.modCar t.bay.carousel fun k => k.modQueue t.level (· ++ [id])).servicePoint t.bay.carousel
  | none => s

/-- A task returns to the head of the queue of its present level, in the state given (R65, R88). -/
def State.joinHead (s : State) (id : Nat) (st : TaskState) : State :=
  match s.task id with
  | some t => (s.taskState id st).modCar t.bay.carousel fun k => k.modQueue t.level (id :: ·)
  | none => s

/-- A task that leaves service without ending gives back its transit reservations (R59, R126). -/
def State.giveBackTask (s : State) (id : Nat) : State :=
  match s.task id with
  | some t => (s.modTask id fun t => { t with transit := 0 }).giveBack t.transit
  | none => s

/-- The carousel enters DRIVE-FAULT with a CAROUSEL-FAULT notice (R53). -/
def State.enterDriveFault (s : State) (c : Nat) (cause : FaultCause) : State :=
  let s1 := s.modCar c fun k => { k with state := .driveFault }
  s1.notify (.carouselFault c cause (s1.car c).index)

/-- The end of any presentation (R66): the timer stops, nothing is in service, and the carousel enters READY, a service
point, or DRIVE-FAULT where a drive fault is pending. -/
def State.presentationEnd (s : State) (c : Nat) : State :=
  let s1 := s.modCar c fun k => { k with presentationTimer := none, inService := none }
  if (s.car c).faultPending then
    (s1.modCar c fun k => { k with faultPending := false }).enterDriveFault c .drive
  else (s1.modCar c fun k => { k with state := .ready }).notePoint c

end Sys2Proof.Machine
end

