-- ==== Sys2Proof/Machine/Claims.lean ====
section
/-! DEFINITION. Load changes and what follows them (R24, R25, R30, R42, R43), the COOLING flag (R41), and the stock
unit's claims on bay records that end no task (R7 to R11, R13). -/

namespace Sys2Proof.Machine

/-! ## Condition flags -/

/-- Sets or clears COOLING; each change sends a COOLING notice (R41). -/
def State.setCooling (s : State) (c : Nat) (on : Bool) : State :=
  if (s.bal c).cooling = on then s
  else
    let s1 := s.modBal c fun b => { b with cooling := on }
    s1.notify (.cooling c on (s1.bal c).duty)

/-- COOLING after a rise of H: set at or above the hot threshold (R41). -/
def State.coolingAfterRise (s : State) (c : Nat) (p : Profile) : State :=
  if p.hot ≤ (s.bal c).duty then s.setCooling c true else s

/-- The clearing of COOLING makes an offer pass and a service point (R36, R57). -/
def State.clearCooling (s : State) (c : Nat) : State :=
  if (s.bal c).cooling then ((s.setCooling c false).offerPass).notePoint c else s

/-- COOLING after a fall of H: cleared at or below the warm threshold (R41). -/
def State.coolingAfterFall (s : State) (c : Nat) (p : Profile) : State :=
  if (s.bal c).duty ≤ p.warm then s.clearCooling c else s

/-- Sets the balance-fault flag from clear, with its notice (R42). -/
def State.raiseBalanceFault (s : State) (c : Nat) : State :=
  if (s.bal c).fault then s
  else
    let s1 := s.modBal c fun b => { b with fault := true }
    s1.notify (.balanceFault c (s.bal c).worst (s.bal c).total)

/-- A carousel with an enabled grade whose last enabled grade does not admit the committed (W, T) (R42). -/
def Balance.unadmitted (b : Balance) : Bool :=
  !b.enabledGrades.isEmpty && !(b.admits b.worst b.total)

/-- The flag at a load change (R25, step 1): a set flag clears when the last enabled grade admits the state; a clear flag
is set when the claim runs the check and the state is not admitted. -/
def State.balanceCheck (s : State) (c : Nat) (check : Bool) : State :=
  let b := s.bal c
  if b.fault then (if b.admits b.worst b.total then s.modBal c fun b => { b with fault := false } else s)
  else if check && b.unadmitted then s.raiseBalanceFault c
  else s

/-- A task in BALANCE-WAIT that now passes its release test is QUEUED again in its place (R59). -/
def State.retestTask (s : State) (id : Nat) : State :=
  match s.task id with
  | some t => if t.state = .balanceWait ∧ s.releaseTest t then s.taskState id .queued else s
  | none => s

/-- A task in POWER-WAIT that fails the repeated test leaves the wait list, gives back its transit reservations and
returns to BALANCE-WAIT at the head of its level queue (R30, R59). -/
def State.retestWaiting (s : State) (c : Nat) : State :=
  match (s.car c).inService with
  | some (.task id) =>
    match s.task id with
    | some t =>
      if t.state = .powerWait ∧ s.releaseTest t = false then
        ((((s.leaveWait c).giveBackTask id).joinHead id .balanceWait).modCar c fun k =>
          { k with inService := none }).notePoint c
      else s
    | none => s
  | _ => s

/-- A load change reaches the balance unit (R24), with what R25 does at its end: the flag, the re-tests, the offer pass,
and a service point of the carousel (R57). `check` is set by SHORT, CORRECT and STOCK-WRITE claims (R42). -/
def State.loadChange (s : State) (c i : Nat) (δ : Int) (check : Bool) : State :=
  let faultBefore := (s.bal c).fault
  let s1 := (s.modBal c fun b => b.applyChange i δ).balanceCheck c check
  let s2 := (s1.car c).walkOrder.foldl State.retestTask s1
  let s3 := s2.retestWaiting c
  let cleared := faultBefore && !(s3.bal c).fault
  let s4 := if cleared || s3.power.waitList.any (fun e => e.carousel == c) then s3.offerPass else s3
  s4.notePoint c

/-! ## Claims (Table 1-4) -/

/-- The load of a bay's tyres: count × weight of its article (R22). -/
def State.bayLoad (s : State) (b : Bay) : Int :=
  match b.tyre with
  | some t => ((b.count * s.weight t.article : Nat) : Int)
  | none => 0

/-- INCOMING-ADD: admits one put task to a bay (R8); none where its condition fails. -/
def State.incomingAdd (s : State) (id : BayId) (tyre : Tyre) : Option State :=
  let b := s.bay id
  if b.holds.any = false ∧
      (b.state = .empty ∨ (b.tyre = some tyre ∧ b.count + b.incoming < s.stackLimit tyre.article)) then
    some (s.modBay id fun b => { b with incoming := b.incoming + 1, tyre := some tyre })
  else none

/-- INCOMING-RELEASE: lowers incoming by 1 (R8). -/
def State.incomingRelease (s : State) (id : BayId) : State :=
  s.modBay id fun b => { b with incoming := b.incoming - 1 }.tidy

/-- PUT-TAKE: count +1, incoming −1, and one article weight onto the carrier (R9); the bay records the tyre's article and
batch, which it has since the put was admitted (R6, R8). -/
def State.putTake (s : State) (id : BayId) (tyre : Tyre) : State :=
  let s1 := s.modBay id fun b => { b with tyre := some tyre, count := b.count + 1, incoming := b.incoming - 1 }
  s1.loadChange id.carousel id.carrier (s.weight tyre.article) false

/-- RESERVE: n tyres of an article and batch promised out of a bay (R10); none where its condition fails. -/
def State.reserve (s : State) (id : BayId) (tyre : Tyre) (n : Nat) : Option State :=
  let b := s.bay id
  if b.holds.any = false ∧ b.tyre = some tyre ∧ n + b.reserved ≤ b.count then
    some (s.modBay id fun b => { b with reserved := b.reserved + n })
  else none

/-- RESERVE-RELEASE: lowers reserved by a task's remainder and is reported to the order unit (R10); a remainder of 0
sends no claim. -/
def State.reserveRelease (s : State) (id : BayId) (n : Nat) : State :=
  if n = 0 then s
  else (s.modBay id fun b => { b with reserved := b.reserved - n }).noteRetry .all

/-- PICK-TAKE and DAMAGED-TAKE: count −1, reserved −1, and one article weight off the carrier (R11). A claim that lowers
reserved, it is reported to the order unit for a retry (R7); Table 5-6 has no row for it (log 37). -/
def State.pickTake (s : State) (id : BayId) : State :=
  let w := match (s.bay id).tyre with | some t => s.weight t.article | none => 0
  let s1 := s.modBay id fun b => { b with count := b.count - 1, reserved := b.reserved - 1 }.tidy
  (s1.loadChange id.carousel id.carrier (-(w : Int)) false).noteRetry .all

/-- Why a CORRECT claim is refused (R13, R154). -/
inductive CorrectRefusal where
  | stackLimit
  | incoming
  deriving DecidableEq, Repr

/-- CORRECT: rewrites a bay's article, batch and count to a found state, nothing or one tally (R13). "Reserved is always 0
when it is taken", and the record it writes says so. -/
def State.correct (s : State) (id : BayId) (found : Option Found) : Except CorrectRefusal State :=
  let b := s.bay id
  let write := fun (nb : Bay) =>
    (s.modBay id fun _ => nb).loadChange id.carousel id.carrier (s.bayLoad nb - s.bayLoad b) true
  match found with
  | none => .ok (write { b with count := 0, reserved := 0 }.tidy)
  | some f =>
    let limit := s.stackLimit f.tyre.article
    if b.incoming = 0 then
      if limit < f.count then .error .stackLimit
      else .ok (write { b with tyre := some f.tyre, count := f.count, reserved := 0 }.tidy)
    else if b.tyre = some f.tyre ∧ f.count + b.incoming ≤ limit then
      .ok (write { b with count := f.count, reserved := 0 })
    else if limit < f.count then .error .stackLimit
    else .error .incoming

end Sys2Proof.Machine
end

