-- ==== Sys2Proof/Machine/Orders.lean ====
section
/-! DEFINITION. The order unit (chapter 5): the pending list (R105), the end of a task (R54, R104), hold claims with
their withdrawal (R14, R15), allocation (R98 to R101), retry passes (R106), and the taking of a step's follow-ups. -/

namespace Sys2Proof.Machine

/-! ## Ordered lists -/

/-- The place of an order among the open orders: its submission sequence (R90). -/
def State.sequenceOf (s : State) (number : Nat) : Nat :=
  s.orderUnit.orders.findIdx fun o => o.number == number

/-- RUSH orders come first: 0 for RUSH, 1 for NORMAL (R95, R105). -/
def State.priorityRank (s : State) (number : Nat) : Nat :=
  match s.order number with
  | some o => if o.priority = .rush then 0 else 1
  | none => 1

/-- The four keys of the pending list in turn (R105). -/
def State.pendingKey (s : State) (ref : GroupRef) : List Nat :=
  [s.priorityRank ref.order, s.sequenceOf ref.order, ref.line, ref.group]

/-- The keys of the lane wait list (R95). -/
def State.laneKey (s : State) (number : Nat) : List Nat :=
  [s.priorityRank number, s.sequenceOf number]

/-- Lexicographic order on keys. -/
def keyBefore : List Nat → List Nat → Bool
  | a :: as, b :: bs => decide (a < b) || (decide (a = b) && keyBefore as bs)
  | [], _ :: _ => true
  | _, [] => false

/-- A joining item takes its place by its key, not at the tail (R95, R105). -/
def insertByKey {α : Type} (key : α → List Nat) (x : α) : List α → List α
  | [] => [x]
  | y :: ys => if keyBefore (key x) (key y) then x :: y :: ys else y :: insertByKey key x ys

/-- Sorts by key; equal keys keep their order. -/
def sortByKey {α : Type} (key : α → List Nat) : List α → List α
  | [] => []
  | x :: xs => insertFirst x (sortByKey key xs)
where
  /-- Puts an item before the first one whose key is not before its own. -/
  insertFirst (x : α) : List α → List α
    | [] => [x]
    | y :: ys => if keyBefore (key y) (key x) then y :: insertFirst x ys else x :: y :: ys

/-! ## Need and the end of a task -/

/-- A group with need above 0 joins the pending list at its place if it is not on it (R105). -/
def State.joinPending (s : State) (ref : GroupRef) : State :=
  if s.orderUnit.pending.contains ref then s
  else { s with orderUnit := { s.orderUnit with
      pending := insertByKey s.pendingKey ref s.orderUnit.pending } }

/-- Need returns to a group of an order that is open and not WITHDRAWN; a group whose need is then above 0 joins the
pending list if it is not on it, which is a retry event (R104). -/
def State.returnNeed (s : State) (ref : GroupRef) (n : Nat) : State :=
  match s.order ref.order with
  | none => s
  | some o =>
    if o.state = .withdrawn then s
    else
      let s1 := s.modGroup ref fun g => { g with need := g.need + n }
      match s1.group ref with
      | none => s1
      | some g =>
        if g.need = 0 ∨ s1.orderUnit.pending.contains ref then s1 else (s1.joinPending ref).noteRetry .all

/-- The group a PICK task's tyres are for. -/
def Task.ref (t : Task) : GroupRef :=
  { order := t.order, line := t.line, group := t.group }

/-- A task leaves its group's allocated task list, and its remainder returns to the group as need (Table 5-5). A task
marked withdrawn belongs to an order whose groups take no change (R104, R109). -/
def State.leaveGroup (s : State) (id : Nat) (t : Task) : State :=
  if t.withdrawn then s
  else
    match s.order t.order with
    | none => s
    | some o =>
      if o.state = .withdrawn then s
      else (s.modGroup t.ref fun g => { g with tasks := g.tasks.filter (· != id) }).returnNeed t.ref (t.quantity - t.taken)

/-- The end of a task (R54): its unused transit reservations are given back, its bay is sent the claim that settles the
remainder (`settleBay`; a SHORT claim has settled it already, R118), the group takes its change, the record is freed and
its return is a retry event (R97, R106). -/
def State.endTask (s : State) (id : Nat) (settleBay : Bool := true) : State :=
  match s.task id with
  | none => s
  | some t =>
    let s1 := s.giveBack t.transit
    let s2 :=
      if settleBay then
        match t.kind with
        | .pick => s1.reserveRelease t.bay (t.quantity - t.taken)
        | .put => if t.taken = 0 then s1.incomingRelease t.bay else s1
      else s1
    let s3 := match t.kind with | .pick => s2.leaveGroup id t | .put => s2
    (s3.setTask id none).noteRetry .all

/-- A task leaves wherever it stands without having ended: its queue, its order, the power wait list or the parked set
(R15, R67). Leaving POWER-WAIT is a service point. -/
def State.detach (s : State) (id : Nat) (t : Task) : State :=
  let c := t.bay.carousel
  match t.state with
  | .powerWait => ((s.leaveWait c).modCar c fun k => { k with inService := none }).notePoint c
  | .stalled => s.modCar c fun k => { k with parked := k.parked.filter (· != id) }
  | _ =>
    (s.modCar c fun k => k.unqueue id).modOrder t.order fun o => { o with held := o.held.filter (· != id) }

/-- A pick task that a hold on its bay withdraws: not in MOVING, PRESENTING or ENDED (R15). -/
def Task.withdrawable (t : Task) : Bool :=
  match t.state with
  | .queued | .balanceWait | .powerWait | .stalled => true
  | .moving | .presenting | .ended => false

/-- Ends one pick task drawing on a bay as withdrawn (R15). -/
def State.withdrawFrom (bay : BayId) (s : State) (id : Nat) : State :=
  match s.task id with
  | some t =>
    if t.kind = .pick ∧ t.bay = bay ∧ t.withdrawable then (s.detach id t).endTask id else s
  | none => s

/-- HOLD-SET: sets a reason; a bay's first reason withdraws its reservations in the same claim, after which reserved is 0
(R14, R15). -/
def State.holdSet (s : State) (id : BayId) (r : HoldReason) : State :=
  if (s.bay id).holds.any then s.modBay id fun b => { b with holds := b.holds.put r true }
  else
    ((List.range 128).foldl (State.withdrawFrom id) s).modBay id fun b =>
      { b with holds := b.holds.put r true, reserved := 0 }

/-- HOLD-CLEAR: clears a reason; a set that becomes empty is reported to the order unit (R14). -/
def State.holdClear (s : State) (id : BayId) (r : HoldReason) : State :=
  let before := (s.bay id).holds
  let s1 := s.modBay id fun b => { b with holds := b.holds.put r false }
  if before.any && !(before.put r false).any then s1.noteRetry .all else s1

/-! ## Allocation (R98 to R101) -/

/-- A candidate bay with its batch and available quantity (R98). -/
structure Candidate where
  bay : BayId
  batch : Nat
  available : Nat
  deriving DecidableEq, Repr

/-- Whether a bay is a candidate for a group of need `need` and window `w` (R98). -/
def State.candidate (s : State) (article need : Nat) (w : Option Window) (id : BayId) : Option Candidate :=
  let b := s.bay id
  match b.tyre with
  | some t =>
    if t.article = article ∧ 0 < b.available ∧ b.holds.any = false ∧ windowAdmits w (s.tolerance article) t.batch ∧
        s.removalTest id.carousel id.carrier (min b.available need) article then
      some { bay := id, batch := t.batch, available := b.available }
    else none
  | none => none

/-- The candidate bays in C.K.B order, less those left out of the attempt (R98, R100). -/
def State.candidates (s : State) (article need : Nat) (w : Option Window) (out : List BayId) : List Candidate :=
  (List.range 8).flatMap fun c =>
    if s.offersBays c then
      (List.range (s.baysOf c).length).filterMap fun p =>
        let id := s.bayAt c p
        if out.contains id then none else s.candidate article need w id
    else []

/-- The available quantities of the candidates whose batch lies in x to x + t (R99). -/
def spanSum (cands : List Candidate) (x t : Nat) : Nat :=
  ((cands.filter fun c => decide (x ≤ c.batch) && decide (c.batch ≤ x + t)).map Candidate.available).sum

/-- The anchor: the smallest batch of a candidate whose span reaches the need (R99). -/
def anchor (cands : List Candidate) (need t : Nat) : Option Nat :=
  ((sortByKey (fun c => [c.batch]) cands).find? fun c => decide (need ≤ spanSum cands c.batch t)).map Candidate.batch

/-- A draw: a bay, its batch and the tyres drawn from it (R100). -/
structure Draw where
  bay : BayId
  batch : Nat
  quantity : Nat
  deriving DecidableEq, Repr

/-- From each bay in turn the smaller of its available quantity and the need still to be drawn (R100). -/
def planDraws : Nat → List Candidate → List Draw
  | _, [] => []
  | need, c :: cs =>
    if need = 0 then []
    else { bay := c.bay, batch := c.batch, quantity := min c.available need } :: planDraws (need - min c.available need) cs

/-- The bays of the span in the order they are drawn: batch ascending, available quantity descending, lowest C.K.B
(R100). -/
def drawOrder (cands : List Candidate) (x t : Nat) : List Candidate :=
  let most := (cands.map Candidate.available).foldl max 0
  sortByKey (fun c => [c.batch, most - c.available, c.bay.carousel, c.bay.carrier, c.bay.bay])
    (cands.filter fun c => decide (x ≤ c.batch) && decide (c.batch ≤ x + t))

/-- Sends the RESERVE claims of a plan in order; the first refused draw abandons the plan, releases the draws already
reserved and names the refused bay (R100). -/
def State.reservePlan (article : Nat) : List Draw → List Draw → State → Except (BayId × State) State
  | [], _, s => .ok s
  | d :: ds, made, s =>
    match s.reserve d.bay { article, batch := d.batch } d.quantity with
    | some s1 => s1.reservePlan article ds (made ++ [d])
    | none => .error (d.bay, made.foldl (fun s1 m => s1.reserveRelease m.bay m.quantity) s)

/-- The PICK task of a draw (R100). -/
def pickTask (o : Order) (ref : GroupRef) (d : Draw) : Task where
  kind := .pick
  level := if o.priority = .rush then 3 else 2
  bay := d.bay
  quantity := d.quantity
  order := ref.order
  line := ref.line
  group := ref.group

/-- A task of an allocated group is handed to its sequencer, or held by an order in LANE-WAIT (R101). -/
def State.placeTask (o : Order) (s : State) (id : Nat) : State :=
  if o.state = .laneWait then s.modOrder o.number fun o => { o with held := o.held ++ [id] } else s.joinTail id

/-- The success of an allocation (R100, R101): the records become tasks, need 0, window widened, the group leaves the
pending list, and each task is placed. -/
def State.allocated (s : State) (o : Order) (ref : GroupRef) (plan : List Draw) (ids : List Nat) : State :=
  let s1 := (ids.zip plan).foldl (fun s x => s.setTask x.1 (some (pickTask o ref x.2))) s
  let s2 := s1.modGroup ref fun g => { g with
    need := 0
    tasks := g.tasks ++ ids
    window := plan.foldl (fun w d => widen w d.batch) g.window }
  let s3 := { s2 with orderUnit := { s2.orderUnit with pending := s2.orderUnit.pending.filter (· != ref) } }
  ids.foldl (State.placeTask o) s3

/-- One allocation attempt for a group's whole need, with bays left out after a refused claim; also tells whether it
succeeded (R98 to R101). The number bounds the plans of the attempt: each leaves out one bay more. -/
def State.allocate (ref : GroupRef) : Nat → List BayId → State → State × Bool
  | 0, _, s => (s, false)
  | fuel + 1, out, s =>
    match s.order ref.order, s.group ref with
    | some o, some g =>
      let article := s.groupArticle ref
      let t := s.tolerance article
      let cands := s.candidates article g.need g.window out
      match anchor cands g.need t with
      | none => (s, false)
      | some x =>
        let plan := planDraws g.need (drawOrder cands x t)
        let ids := s.freeTasks.take plan.length
        if ids.length < plan.length then (s, false)
        else
          match s.reservePlan article plan [] with
          | .ok s1 => (s1.allocated o ref plan ids, true)
          | .error (bay, s1) => State.allocate ref fuel (bay :: out) s1
    | _, _ => (s, false)

/-- An allocation attempt; a store has at most 1920 bays to leave out (R1). -/
def State.allocateGroup (s : State) (ref : GroupRef) : State × Bool :=
  s.allocate ref 1921 []

/-! ## Retry passes (R106) -/

/-- Whether a pass attempts a group: every one, or those whose line is for an article named (R106). -/
def Retry.covers (r : Retry) (article : Nat) : Bool :=
  match r with
  | .none => false
  | .articles l => l.contains article
  | .all => true

/-- One group of a pass, if it is still on the pending list. -/
def State.retryGroup (r : Retry) (s : State) (ref : GroupRef) : State :=
  if s.orderUnit.pending.contains ref && r.covers (s.groupArticle ref) then (s.allocateGroup ref).1 else s

/-- A retry pass walks the pending list from its head (R106). -/
def State.retryPass (s : State) (r : Retry) : State :=
  s.orderUnit.pending.foldl (State.retryGroup r) s

/-- Runs the noted pass, and one further pass for what was noted meanwhile (R106). The number bounds the passes of one
step (log 29). -/
def State.runRetries : Nat → State → State
  | 0, s => s
  | fuel + 1, s =>
    match s.orderUnit.retry with
    | .none => s
    | r => State.runRetries fuel (({ s with orderUnit := { s.orderUnit with retry := .none } }).retryPass r)

/-! ## The follow-ups of a step (log 8) -/

/-- The report of freed entries reaches every sequencer (R130). -/
def State.serveFreed (s : State) : State :=
  if s.agenda.freed then
    ({ s with agenda := { s.agenda with freed := false } }).servicePoints (List.range 8)
  else s

/-- The service points noted in the step (R57). -/
def State.servePoints (s : State) : State :=
  ({ s with agenda := { s.agenda with points := [] } }).servicePoints s.agenda.points

/-- Takes the follow-ups noted so far: freed entries, the retry pass, service points (log 8). -/
def State.settle (s : State) : State :=
  (State.runRetries 4 s.serveFreed).servePoints

end Sys2Proof.Machine
end

