-- ==== Sys2Proof/Machine/Service.lean ====
section
/-! DEFINITION. The ends of moves and sweeps: work returned (R65), sweeps ended (R147), drive reports (R52, R53, R63,
R70), the deviation check (R44, R45), the move timer (R64), and the line hold (R68, R69). -/

namespace Sys2Proof.Machine

/-! ## Sweeps -/

/-- A sweep ends (R147): AUDIT-DONE, the save area cleared, the stop mark clear, the read attempt 0. -/
def State.endSweep (s : State) (c : Nat) (cause : SweepCause) : State :=
  match (s.car c).sweep with
  | none => s
  | some w =>
    let s1 := s.notify (.auditDone c w.number (s.sweepRecord c).origin cause w.done w.mismatches)
    let s2 := s1.modCar c fun k => { k with sweep := none }
    s2.modSweepRecord c fun r => { r with stopMark := false, readAttempt := 0, readTimer := none }

/-- A sweep is started (R140, R141, R142): the next sweep number, the save area written, SUSPENDED, and a service
point. -/
def State.startSweep (s : State) (c first last : Nat) (policy : SweepPolicy) (origin : SweepOrigin) : State :=
  let number := (s.audit.sweepCounter + 1) % 65536
  let s1 := { s with audit := { s.audit with sweepCounter := number } }
  let s2 := s1.modCar c fun k => { k with sweep := some { next := first, last, policy, number } }
  (s2.modSweepRecord c fun r => { r with origin, stopMark := false, readAttempt := 0 }).notePoint c

/-- The balance unit asks for an automatic sweep of the whole carousel (R45, R142). -/
def State.requestSweep (s : State) (c : Nat) : State :=
  let k := s.car c
  match k.sweep, k.profile, k.index with
  | none, some p, some i =>
    if k.state = .ready ∨ k.state = .moving ∨ k.state = .presenting then
      s.startSweep c i ((i + p.carriers - 1) % p.carriers) p.policy .automatic
    else s
  | _, _, _ => s

/-! ## Deviation check -/

/-- The deviation check against D(r) at the reported index (R44); the counter reaching 2 is set to 0, raises
BALANCE-DEVIATION and asks for an automatic sweep (R45). -/
def State.deviationCheck (s : State) (c r : Nat) (measured : Int) : State :=
  match (s.car c).profile with
  | none => s
  | some p =>
    let b := s.bal c
    let d := b.imbalanceAt r
    let deviates := decide (p.tolerance ≠ 0) && decide ((p.tolerance : Int) < |measured - d|)
    let counter := if deviates then b.deviation + 1 else 0
    if counter < 2 then s.modBal c fun b => { b with deviation := counter }
    else
      let s1 := s.modBal c fun b => { b with deviation := 0 }
      (s1.notify (.balanceDeviation c r measured d)).requestSweep c

/-! ## Work returned -/

/-- The move of `c` has ended in any of its forms: no move in flight and the move timer stopped (R62). -/
def State.endMove (s : State) (c : Nat) : State :=
  s.modCar c fun k => { k with move := none, moveTimer := none }

/-- Work in MOVING or POWER-WAIT is returned (R65): a task to the head of its queue, or ended if it is marked withdrawn;
a sweep step is suspended, or its sweep ended if it is marked to stop (R148). At a PORT-RESET LINE too a task marked
withdrawn ends so and its bay's reserved falls, although R20 has that reset change no bay record (log 38); a returned PICK
gives its transit reservations back, although R139 has the reset keep the count (log 48); and a step marked to stop ends its
sweep, although R155 has the reset keep every sweep (log 50). -/
def State.returnWork (s : State) (c : Nat) : State :=
  let s0 := s.leaveWait c
  match (s.car c).inService with
  | none => s0
  | some .step =>
    let s1 := s0.modCar c fun k => { k with inService := none }
    if (s.sweepRecord c).stopMark then s1.endSweep c .stopped else s1
  | some (.task id) =>
    let s1 := s0.modCar c fun k => { k with inService := none }
    match s.task id with
    | none => s1
    | some t => if t.withdrawn then s1.endTask id else (s1.giveBackTask id).joinHead id .queued

/-- The rotation index becomes unknown. -/
def State.loseIndex (s : State) (c : Nat) : State :=
  s.modCar c fun k => { k with index := none }

/-- A move that failed (R62, R64, R53): the work is returned, the rotation index becomes unknown, and the carousel enters
DRIVE-FAULT with its notice. -/
def State.failMove (s : State) (c : Nat) (cause : FaultCause) : State :=
  (((s.returnWork c).endMove c).loseIndex c).enterDriveFault c cause

/-- The drive has accepted the MOVE in its slot: the move timer starts (R62). A move that has ended meanwhile ignores
it. -/
def State.moveAccepted (s : State) (c : Nat) : State :=
  match (s.car c).profile, (s.car c).move with
  | some p, some m =>
    if (s.car c).state = .moving then
      s.modCar c fun k => { k with moveTimer := some (s.now + (p.moveFixed + p.movePerCarrier * m.distance)) }
    else s
  | _, _ => s

/-- The slot's MOVE is exhausted with no ACCEPT (R62): claim released, work returned, DRIVE-FAULT with cause NO-ACCEPT.
A move that has ended meanwhile ignores it. -/
def State.moveExhausted (s : State) (c : Nat) : State :=
  if (s.car c).state = .moving then (s.releaseClaim c).failMove c .noAccept else s

/-! ## Drive reports -/

/-- H rises by distance × P / 8, truncated, and saturates at 65 535 (R39); COOLING after the rise (R41). -/
def State.raiseDuty (s : State) (c : Nat) (p : Profile) (distance draw : Nat) : State :=
  (s.modBal c fun b => { b with duty := min 65535 (b.duty + distance * draw / 8) }).coolingAfterRise c p

/-- An ARRIVED with the number of the move in flight, at its target (R63): index, deviation check, then the work
presents, or ends if it is a task marked withdrawn (R67). -/
def State.arrivedAtTarget (s : State) (c target : Nat) (measured : Int) : State :=
  let s1 := ((s.endMove c).modCar c fun k => { k with index := some target }).deviationCheck c target measured
  match (s1.car c).inService with
  | some (.task id) =>
    match s1.task id with
    | some t =>
      if t.withdrawn then
        ((s1.endTask id).settle.modCar c fun k => { k with state := .ready, inService := none }).notePoint c
      else s1.present c
    | none => s1.present c
  | _ => s1.present c

/-- An ARRIVED that ends the move in flight (R63): claim released, duty (R39), and the index decides. -/
def State.arrivedMoving (s : State) (c : Nat) (p : Profile) (m : Move) (reported : Nat) (measured : Int) : State :=
  let s1 := s.releaseClaim c
  if reported = m.target then (s1.raiseDuty c p m.distance m.draw).arrivedAtTarget c m.target measured
  else
    let known := decide (reported < p.carriers)
    let s2 := if known then s1.raiseDuty c p (m.travelled p.carriers reported) m.draw else s1
    let s3 := ((s2.returnWork c).endMove c).modCar c fun k =>
      { k with index := if known then some reported else none }
    s3.enterDriveFault c .wrongIndex

/-- An ARRIVED frame taken by the sequencer of `c` (R63, R64, R70). -/
def State.arrived (s : State) (c reported : Nat) (measured : Int) (number : Nat) : State :=
  let k := s.car c
  match k.profile with
  | none => s
  | some p =>
    match k.state with
    | .moving =>
      match k.move with
      | some m => if number = k.moveNumber then s.arrivedMoving c p m reported measured else s
      | none => s
    | .driveFault => if reported < p.carriers then s.modCar c fun k => { k with index := some reported } else s
    | .manual =>
      if reported < p.carriers then
        (s.modCar c fun k => { k with index := some reported }).deviationCheck c reported measured
      else s
    | .offline | .unhomed | .ready | .presenting => s

/-- A DRIVE-STATE report taken in UNHOMED (R52). -/
def State.homing (s : State) (c : Nat) (p : Profile) (d : DriveCondition) (reported : Nat) : State :=
  match d with
  | .stopped =>
    if reported < p.carriers then
      ((s.modCar c fun k => { k with index := some reported, state := .ready }).noteRetry .all).notePoint c
    else s
  | .turning => s.sendStop c
  | .fault => s.enterDriveFault c .drive

/-- A DRIVE-STATE report taken by the sequencer of `c` (R52, R53, Table 3-4, R70). A FAULT report in MANUAL is ignored as
Table 3-4 has it, its index too, although R70 speaks of any report with a known index (log 47). -/
def State.driveState (s : State) (c : Nat) (d : DriveCondition) (reported : Nat) : State :=
  let k := s.car c
  match k.profile with
  | none => s
  | some p =>
    let record := fun (s : State) =>
      if reported < p.carriers then s.modCar c fun k => { k with index := some reported } else s
    match k.state with
    | .unhomed => s.homing c p d reported
    | .offline => s
    | .ready => if d = .fault then (s.returnWork c).enterDriveFault c .drive else s
    | .moving => if d = .fault then (s.releaseClaim c).failMove c .drive else s
    | .presenting => if d = .fault then s.modCar c fun k => { k with faultPending := true } else s
    | .driveFault => if d = .stopped then record (s.releaseClaim c) else s
    | .manual => if d = .fault then s else record s

/-! ## Line hold (R68, R69) -/

/-- One carousel takes the sensed hold (R68). -/
def State.takeHold (s : State) (c : Nat) : State :=
  match (s.car c).state with
  | .moving =>
    let s1 := ((s.cancelMove c).1.releaseClaim c).returnWork c
    ((s1.endMove c).loseIndex c).modCar c fun k => { k with state := .unhomed }
  | .driveFault => s.releaseClaim c
  | .offline | .unhomed | .ready | .presenting | .manual => s

/-- Removes every slot MOVE not yet chosen for transmission (R159: while the pair is held "no unsent MOVE stands in a
slot"; R169). -/
def State.dropUnsent (s : State) : State :=
  { s with outbox := { s.outbox with slots := s.outbox.slots.map unsentRemoved } }

/-- The pair has become sensed held: LINE-HELD, no unsent MOVE is left in a slot, and every sequencer takes the hold,
MOVING carousels in a free order (R159, R68, log 6). -/
def State.senseHeld (s : State) : State :=
  let s1 := s.dropUnsent.notify (.lineHeld s.line.drive)
  let a := s1.arrange ((List.range 8).filter fun c =>
    decide ((s1.car c).state = .moving) || decide ((s1.car c).state = .driveFault))
  a.1.foldl State.takeHold a.2

/-- The pair has become sensed clear: LINE-CLEAR, a STATUS-QUERY for each UNHOMED carousel, the offer pass, and then the
service points it gives (R159, R69, R36). -/
def State.senseClear (s : State) : State :=
  let s1 := s.notify (.lineClear s.line.drive)
  let a := s1.arrange ((List.range 8).filter fun c => decide ((s1.car c).state = .unhomed))
  let s2 := a.1.foldl State.sendStatusQuery a.2
  (List.range 8).foldl State.notePoint s2.offerPass

/-- Asserts or releases the part's drive; the sense follows unless another party holds the pair (R158, R159). -/
def State.setDrive (s : State) (on : Bool) : State :=
  let s1 := { s with line := { s.line with drive := on } }
  if s.lineHeld = s1.lineHeld then s1 else if on then s1.senseHeld else s1.senseClear

/-- Another party takes or lets go of the pair (R159, log 26). -/
def State.setOutsideHold (s : State) (on : Bool) : State :=
  let s1 := { s with line := { s.line with outsideHold := on } }
  if s.lineHeld = s1.lineHeld then s1 else if on then s1.senseHeld else s1.senseClear

/-! ## Timers of the sequencer -/

/-- A move timer expiry in MOVING (R64): STOP, DRIVE-FAULT with cause TIMEOUT, the claim kept. -/
def State.moveTimeout (s : State) (c : Nat) : State :=
  if (s.car c).state = .moving ∧ (s.car c).moveTimer.isSome then (s.sendStop c).failMove c .timeout else s

/-- A presented task is parked (R66, R87, R121): STALLED, its transit reservations given back, TASK-STALLED, and the end
of the presentation. -/
def State.park (s : State) (c id : Nat) : State :=
  match s.task id with
  | none => s
  | some t =>
    let s1 := (s.taskState id .stalled).giveBackTask id
    let s2 := s1.modCar c fun k => { k with parked := k.parked ++ [id], inService := none }
    let s3 := s2.notify (.taskStalled id t.kind t.bay t.quantity t.taken)
    s3.settle.presentationEnd c

/-- A presentation timer expiry (R66); with the timer stopped no expiry is taken. -/
def State.presentationTimeout (s : State) (c : Nat) : State :=
  match (s.car c).state, (s.car c).presentationTimer, (s.car c).inService with
  | .presenting, some _, some (.task id) => s.park c id
  | _, _, _ => s

/-- An age timer expiry (R56): level 2 from now on; a task on the level 1 queue joins the tail of the level 2 queue, which
is a service point for a QUEUED task. -/
def State.ageOut (s : State) (id : Nat) : State :=
  match s.task id with
  | some t =>
    match t.age with
    | .running _ =>
      let s1 := s.modTask id fun t => { t with level := 2, age := .expired }
      let c := t.bay.carousel
      if (s.car c).queue1.contains id ∧ (t.state = .queued ∨ t.state = .balanceWait) then
        let s2 := s1.modCar c fun k => { k.unqueue id with queue2 := k.queue2.filter (· != id) ++ [id] }
        if t.state = .queued then s2.notePoint c else s2
      else s1
    | _ => s
  | none => s

/-- A duty timer expiry (R40): H leaks by the larger of 1 and H / 16; an offer pass where it falls below the warm
threshold; then COOLING after the fall (R41). The timer runs on. -/
def State.leakDuty (s : State) (c : Nat) : State :=
  let h := (s.bal c).duty
  let s1 := s.modBal c fun b => { b with
    duty := b.duty - max 1 (b.duty / 16), dutyExpiry := b.dutyExpiry + 1000 }
  match (s.car c).profile with
  | none => s1
  | some p =>
    if h = 0 then s1
    else
      let s2 := if p.warm ≤ h ∧ (s1.bal c).duty < p.warm then s1.offerPass else s1
      s2.coolingAfterFall c p

end Sys2Proof.Machine
end

