-- ==== Sys2Proof/Machine/Lanes.lean ====
section
/-! DEFINITION. Staging lanes (chapter 7): assignment and offer (R95, R96, R129), the withdrawal of an order (R107,
R108), arrivals (R133 to R135), lost tyres (R136), the drain test (R137) and LANE-RELEASE (R138). -/

namespace Sys2Proof.Machine

/-! ## Assignment and offer -/

/-- A FREE lane is given to an order in LANE-WAIT or at its placement: FILLING with the order total expected, the order
PICKING, and its held tasks handed to their sequencers in creation order (R95, R96, R129). -/
def State.assignLane (s : State) (lane number : Nat) : State :=
  match s.order number with
  | none => s
  | some o =>
    let s1 := s.modLane lane fun _ => { state := .filling, order := some number, expected := o.total }
    let s2 := s1.modOrder number fun o => { o with lane := some lane, state := .picking, held := [] }
    o.held.foldl State.joinTail s2

/-- The lowest-numbered FREE lane (R95). -/
def State.freeLane (s : State) : Option Nat :=
  s.consolidation.lanes.findIdx? fun l => decide (l.state = .free)

/-- A lane that has become FREE is offered to the head of the lane wait list; with the list empty it stays FREE
(R96). -/
def State.offerLane (s : State) (lane : Nat) : State :=
  match s.orderUnit.laneWait with
  | [] => s
  | number :: rest =>
    ({ s with orderUnit := { s.orderUnit with laneWait := rest } }).assignLane lane number

/-- A lane becomes FREE with its fields cleared (R129, R138). -/
def State.freeTheLane (s : State) (lane : Nat) : State :=
  s.modLane lane fun _ => {}

/-! ## The drain test -/

/-- The number of entries of an order in the transit list. -/
def State.entriesOf (s : State) (number : Nat) : Nat :=
  (s.consolidation.transit.filter fun e => e.group.order == number).length

/-- A withdrawn order's lane enters RETURN from FILLING, COMPLETE or EXCEPTION once the transit list holds no entry of
the order (R137). -/
def State.drainTest (s : State) (number : Nat) : State :=
  match s.order number with
  | none => s
  | some o =>
    match o.lane with
    | none => s
    | some lane =>
      if s.entriesOf number = 0 then
        s.modLane lane fun l =>
          match l.state with
          | .filling | .complete | .exception => { l with state := .returning }
          | .free | .returning => l
      else s

/-! ## Withdrawal of an order (R107, R108) -/

/-- A withdrawal in progress, with the numbers of tasks ended and marked so far (R107). -/
structure Withdrawal where
  state : State
  ended : Nat := 0
  marked : Nat := 0

/-- One more task ended. -/
def Withdrawal.andEnded (w : Withdrawal) (s : State) : Withdrawal :=
  { w with state := s, ended := w.ended + 1 }

/-- A task whose unsent MOVE the outbox has removed: its claim is released, it ends, and the carousel enters READY with
nothing in service (R67). -/
def State.endCancelled (s : State) (c id : Nat) : State :=
  let s1 := (s.releaseClaim c).endTask id
  ((s1.endMove c).modCar c fun k => { k with state := .ready, inService := none }).notePoint c

/-- A presented task of a withdrawn order ends at once, and the mouth is shown CANCELLED (R125). -/
def State.endPresentedWithdrawn (s : State) (c id : Nat) (t : Task) : State :=
  ((s.indicate c t.bay.bay .cancelled 0 0).endTask id).presentationEnd c

/-- One unended task of the withdrawn order, by where it stands (Table 5-12, R67). -/
def Withdrawal.task (w : Withdrawal) (id : Nat) : Withdrawal :=
  let s := w.state
  match s.task id with
  | none => w
  | some t =>
    let c := t.bay.carousel
    match t.state with
    | .ended => w
    | .queued | .balanceWait | .powerWait | .stalled => w.andEnded ((s.detach id t).endTask id)
    | .presenting => w.andEnded (s.endPresentedWithdrawn c id t)
    | .moving =>
      match s.cancelMove c with
      | (s1, true) => w.andEnded (s1.endCancelled c id)
      | (s1, false) =>
        { w with state := s1.modTask id fun t => { t with withdrawn := true }, marked := w.marked + 1 }

/-- The unended PICK tasks of an order. -/
def State.tasksOf (s : State) (number : Nat) : List Nat :=
  (List.range 128).filter fun id =>
    match s.task id with
    | some t => decide (t.kind = .pick) && decide (t.order = number) && !t.withdrawn
    | none => false

/-- The order leaves both waiting lists and takes the state WITHDRAWN (R107, steps 1 and 4). -/
def State.markWithdrawn (s : State) (number : Nat) : State :=
  let s1 := { s with orderUnit := { s.orderUnit with
    pending := s.orderUnit.pending.filter fun r => r.order != number
    laneWait := s.orderUnit.laneWait.filter fun n => n != number } }
  s1.modOrder number fun o => { o with state := .withdrawn }

/-- The withdrawal of an order (R107); its tasks are dealt with in a free order (log 6). -/
def State.withdrawOrder (s : State) (number : Nat) : Withdrawal :=
  let tasks := s.tasksOf number
  let a := (s.markWithdrawn number).arrange tasks
  let w := a.1.foldl Withdrawal.task { state := a.2 }
  match (s.order number).bind Order.lane with
  | none => { w with state := w.state.removeOrder number }
  | some _ => { w with state := w.state.drainTest number }

/-! ## Arrivals (R133 to R135) -/

/-- After a matched arrival for an order that is not WITHDRAWN: at the expected count the order is STAGED and a FILLING
lane COMPLETE, with ORDER-STAGED (R135). -/
def State.completionTest (s : State) (lane : Nat) (number : Nat) : State :=
  match s.lane lane, s.order number with
  | some l, some o =>
    if l.arrived = l.expected then
      let s1 := s.modOrder number fun o => { o with state := .staged }
      let s2 := s1.modLane lane fun l => if l.state = .filling then { l with state := .complete } else l
      s2.notify (.orderStaged number lane l.arrived o.exception)
    else s
  | _, _ => s

/-- A matched arrival: the entry goes, the arrived count rises, and the completion or drain test is made (R133). -/
def State.matchedArrival (s : State) (lane : Nat) (l : Lane) (e : TransitEntry) : State :=
  let s1 := (s.removeEntries fun x => x.serial == e.serial).modLane lane fun l => { l with arrived := l.arrived + 1 }
  match l.order with
  | none => s1
  | some number =>
    match s1.order number with
    | none => s1
    | some o => if o.state = .withdrawn then s1.drainTest number else s1.completionTest lane number

/-- A mis-sort: by the lane's state, EXCEPTION and the order's exception flag, and always the notice (R134). -/
def State.misSort (s : State) (lane : Nat) (l : Lane) (tyre : Option Tyre) : State :=
  match l.state with
  | .filling | .complete =>
    let s1 := s.modLane lane fun l => { l with state := .exception }
    let s2 := match l.order with
      | some number => s1.modOrder number fun o => { o with exception := true }
      | none => s1
    s2.notify (.misSort lane l.order .exception tyre)
  | .free | .exception | .returning => s.notify (.misSort lane l.order l.state tyre)

/-- The article and batch of the single tally of a read; none for no tally or several (R133, R134). -/
def singleTally : List Tally → Option Tyre
  | [t] => some { article := t.article, batch := t.batch }
  | _ => none

/-- The oldest entry naming the lane with the tyre read (R133). -/
def State.qualifying (s : State) (lane : Nat) (tyre : Option Tyre) : Option TransitEntry :=
  match tyre with
  | none => none
  | some y => s.consolidation.transit.find? fun e => decide (e.lane = lane) && decide (e.tyre = y)

/-- A TAG-READ delivered from the reader of a lane (R133, R134). -/
def State.arrival (s : State) (lane : Nat) (tallies : List Tally) : State :=
  let tyre := singleTally tallies
  match s.lane lane with
  | none => s
  | some l =>
    match l.state, s.qualifying lane tyre with
    | .filling, some e | .complete, some e | .exception, some e => s.matchedArrival lane l e
    | _, _ => s.misSort lane l tyre

/-! ## Deadlines (R136) -/

/-- The deadline of the entry at a place expires: it is removed as lost; for an order that is not WITHDRAWN, TYRE-LOST
and one need back to the group, else the drain test (R136). -/
def State.deadline (s : State) (place : Nat) : State :=
  match s.consolidation.transit.find? fun e => e.place == place with
  | none => s
  | some e =>
    let s1 := s.removeEntries fun x => x.serial == e.serial
    match s1.order e.group.order with
    | none => s1
    | some o =>
      if o.state = .withdrawn then s1.drainTest e.group.order
      else
        let s2 := s1.notify (.tyreLost e)
        (s2.modGroup e.group fun g => { g with picked := g.picked - 1 }).returnNeed e.group 1

/-! ## LANE-RELEASE (R138) -/

/-- Whether a LANE-RELEASE of a lane is accepted (R138). -/
def State.releasable (s : State) (l : Lane) : Bool :=
  match l.state with
  | .free => false
  | .complete | .exception | .returning => true
  | .filling =>
    match l.order with
    | none => false
    | some number =>
      match s.order number with
      | none => false
      | some o => decide (o.state = .withdrawn) && decide (s.entriesOf number = 0)

/-- An accepted release, steps 1 to 5, of a lane held by an order (R138). What steps 1 and 2 report, the entries freed
among it, is taken before the order goes and its lane is offered. -/
def State.releaseLane (s : State) (lane : Nat) (l : Lane) (number : Nat) : State × Reply :=
  let w := if (s.order number).map Order.state = some .withdrawn then { state := s } else s.withdrawOrder number
  let left := w.state.entriesOf number
  let s1 := (w.state.removeEntries fun e => e.group.order == number).settle
  let s2 := ((s1.removeOrder number).freeTheLane lane).offerLane lane
  (s2, .done (beBytes 4 number ++ [byte l.expected, byte l.arrived, countByte left, countByte w.ended,
    countByte w.marked]))

/-- LANE-RELEASE (R138). A lane that is not FREE always has an order (Table 7-1). -/
def State.laneRelease (s : State) (lane : Nat) : State × Reply :=
  match s.lane lane with
  | none => (s, .refused .badValue)
  | some l =>
    if s.releasable l then
      match l.order with
      | some number => s.releaseLane lane l number
      | none => (s, .refused .wrongState)
    else (s, .refused .wrongState)

/-- ORDER-WITHDRAW (R107). -/
def State.orderWithdraw (s : State) (number : Nat) : State × Reply :=
  match s.order number with
  | none => (s, .refused .unknownItem)
  | some o =>
    if o.state = .withdrawn then (s, .refused .wrongState)
    else
      let w := s.withdrawOrder number
      (w.state, .done ([countByte w.ended, countByte w.marked] ++ optBytes 1 o.lane ++
        [countByte (w.state.entriesOf number)]))

end Sys2Proof.Machine
end

