-- ==== Sys2Proof/Machine/Audit.lean ====
section
/-! DEFINITION. Stock audits (chapter 8): the discrepancy list (R150 to R152), the carrier read (R144, R145) and the
unread carrier (R146), the step's end (R147), AUDIT-START and AUDIT-STOP (R141, R148), DISCREPANCY-RESOLVE (R153,
R154). -/

namespace Sys2Proof.Machine

/-! ## The discrepancy list -/

/-- The entry counter advanced by 1, mod 256, past every number held in the list (R150). -/
def AuditUnit.nextNumber (a : AuditUnit) : Nat :=
  let after := (List.range 256).map fun k => (a.entryCounter + 1 + k) % 256
  (after.find? fun n => !(a.list.any fun e => e.number == n)).getD ((a.entryCounter + 1) % 256)

/-- A logging (R151): an entry with the next number and its DISCREPANCY notice, or one more overflow and, with the
list-full mark clear, LIST-FULL. Also gives the number taken. -/
def State.logEntry (s : State) (e : Discrepancy) : State × Option Nat :=
  if s.audit.list.length < 32 then
    let n := s.audit.nextNumber
    let entry := { e with number := n }
    let s1 := { s with audit := { s.audit with list := s.audit.list ++ [entry], entryCounter := n } }
    (s1.notify (.discrepancy entry), some n)
  else
    let count := min 255 (s.audit.overflow + 1)
    let s1 := { s with audit := { s.audit with overflow := count, listFull := true } }
    (if s.audit.listFull then s1 else s1.notify (.listFull count), none)

/-- An entry for a bay with its record as it stood (Table 8-3); its number is given by the logging. The found tally total
counts the bay's found state, so no tally of count 0, which R144 disregards (log 40). -/
def State.entryFor (s : State) (id : BayId) (kind : DiscrepancyKind) (record : Bay) (found : List Tally)
    (sweep : Option Nat) (corrected : Bool) : Discrepancy where
  number := 0
  carousel := id.carousel
  position := s.position id
  kind := kind
  recordedTyre := record.tyre
  recordedCount := record.count
  recordedIncoming := record.incoming
  found := (found.take 4).map fun t => { tyre := { article := t.article, batch := t.batch }, count := t.count }
  foundTotal := found.length
  sweep := sweep
  corrected := corrected

/-- Sets the corrected flag of the entry with a number (R145). -/
def State.markCorrected (s : State) (number : Option Nat) : State :=
  { s with audit := { s.audit with
      list := s.audit.list.map fun e => if some e.number = number then { e with corrected := true } else e } }

/-- The SHORT claim of a presented pick task with a remainder (R12): the remainder is released, AUDIT is set with the
withdrawal, the count goes to 0 with its load change and check, and a SHORT-PICK is logged (R152). -/
def State.shortClaim (s : State) (id : BayId) (remainder : Nat) : State :=
  let record := s.bay id
  let s1 := (s.reserveRelease id remainder).holdSet id .audit
  let s2 := s1.modBay id fun b => { b with count := 0, reserved := 0 }.tidy
  let s3 := s2.loadChange id.carousel id.carrier (-(s.bayLoad record)) true
  (s3.logEntry (s3.entryFor id .shortPick record [] none true)).1

/-! ## Carrier reads -/

/-- The found state of a bay: the tallies naming it, in the order read, those of count 0 disregarded (R144). -/
def foundState (tallies : List Tally) (bay : Nat) : List Tally :=
  tallies.filter fun t => decide (t.bay = bay) && decide (t.count ≠ 0)

/-- The outcome of a comparison; none is MATCH (Table 8-2). -/
def State.compareBay (s : State) (b : Bay) (found : List Tally) : Option DiscrepancyKind :=
  if b.count = 0 then (if found = [] then none else some .unexpected)
  else
    match found with
    | [] => some .missing
    | [t] =>
      if (s.article t.article).isNone ∨ b.tyre ≠ some { article := t.article, batch := t.batch } then some .label
      else if t.count = b.count then none
      else some .count
    | _ => some .label

/-- The found state that a CORRECT claim may carry: nothing, or one tally of a known article (R145). Outer none: no
claim is sent. -/
def State.correctable (s : State) (found : List Tally) : Option (Option Found) :=
  match found with
  | [] => some none
  | [t] =>
    if (s.article t.article).isSome then
      some (some { tyre := { article := t.article, batch := t.batch }, count := t.count })
    else none
  | _ => none

/-- A CORRECT claim of the audit unit under the policy CORRECT; accepted, the logged entry's corrected flag is set
(R145, step 3). -/
def State.correctMismatch (s : State) (id : BayId) (policy : SweepPolicy) (found : List Tally)
    (number : Option Nat) : State :=
  match policy, s.correctable found with
  | .correct, some f =>
    match s.correct id f with
    | .ok s1 => s1.markCorrected number
    | .error _ => s
  | _, _ => s

/-- One bay of the carrier read: a mismatch sets AUDIT, is logged, and may be corrected (R145). -/
def State.handleBay (w : SweepContext) (tallies : List Tally) (outcome : BayId → Bay × Option DiscrepancyKind)
    (s : State) (id : BayId) : State :=
  match outcome id with
  | (_, none) => s
  | (record, some kind) =>
    let found := foundState tallies id.bay
    let s1 := s.holdSet id .audit
    let l := s1.logEntry (s1.entryFor id kind record found (some w.number) false)
    l.1.correctMismatch id w.policy found l.2

/-- The step's end (R147, R60): the counters, then COMPLETE at the last carrier, STOPPED at a stop mark, or the next
carrier with the sweep suspended; then the presentation ends. -/
def State.endStep (s : State) (c : Nat) (w : SweepContext) (mismatches : Nat) : State :=
  let w1 := { w with done := w.done + 1, mismatches := w.mismatches + mismatches }
  let s1 := s.modCar c fun k => { k with sweep := some w1 }
  let s2 :=
    if w.next = w.last then s1.endSweep c .complete
    else if (s.sweepRecord c).stopMark then s1.endSweep c .stopped
    else
      (s1.modCar c fun k => { k with sweep := some { w1 with next := (w.next + 1) % s.carriersOf c } }).modSweepRecord c
        fun r => { r with readAttempt := 0, readTimer := none }
  s2.settle.presentationEnd c

/-- The bays of the carrier that a sweep step presents, ascending (R144). -/
def State.carrierBays (s : State) (c carrier : Nat) : List BayId :=
  (List.range (s.baysPerCarrier c)).map fun b => { carousel := c, carrier, bay := b }

/-- A TAG-READ while a sweep step is presented: every bay is compared with its record as it stands, takes the sweep's
number, and each mismatch is handled in ascending order (R144, R145). -/
def State.carrierRead (s : State) (c : Nat) (tallies : List Tally) : State :=
  match (s.car c).sweep with
  | none => s
  | some w =>
    let ids := s.carrierBays c w.next
    let outcome := fun id => (s.bay id, s.compareBay (s.bay id) (foundState tallies id.bay))
    let s1 := s.modSweepRecord c fun r => { r with readTimer := none }
    let s2 := ids.foldl (fun s id => s.modBay id fun b => { b with lastSweep := some w.number }) s1
    let s3 := ids.foldl (State.handleBay w tallies outcome) s2
    s3.endStep c w (ids.filter fun id => (outcome id).2.isSome).length

/-- One bay of an unread carrier: AUDIT with the withdrawal, and an UNREAD entry (R146). -/
def State.unreadBay (w : SweepContext) (s : State) (id : BayId) : State :=
  let record := s.bay id
  let s1 := s.holdSet id .audit
  (s1.logEntry (s1.entryFor id .unread record [] (some w.number) false)).1

/-- A read timer expiry of a presented step (R143, R146). -/
def State.readTimeout (s : State) (c : Nat) : State :=
  let r := s.sweepRecord c
  match (s.car c).state, (s.car c).inService, (s.car c).sweep, r.readTimer with
  | .presenting, some .step, some w, some _ =>
    if r.readAttempt = 1 then
      (s.sendScan c w.next).modSweepRecord c fun r =>
        { r with readAttempt := 2, readTimer := some (s.now + s.carrierReadMs) }
    else
      let ids := s.carrierBays c w.next
      (ids.foldl (State.unreadBay w) s).endStep c w ids.length
  | _, _, _, _ => s

/-! ## AUDIT-START and AUDIT-STOP -/

/-- AUDIT-START (R141). -/
def State.auditStart (s : State) (c first last : Nat) (policy : SweepPolicy) : State × Reply :=
  let k := s.car c
  let n := s.carriersOf c
  if 8 ≤ c then (s, .refused .badValue)
  else if k.sweep.isSome then (s, .refused .inUse)
  else if ¬(k.state = .ready ∨ k.state = .moving ∨ k.state = .presenting) then (s, .refused .wrongState)
  else if n ≤ first ∨ n ≤ last then (s, .refused .badValue)
  else
    let s1 := s.startSweep c first last policy .request
    (s1, .done (beBytes 2 s1.audit.sweepCounter ++ [countByte ((last + n - first) % n + 1)]))

/-- AUDIT-STOP, for a sweep in progress: a suspended sweep, and a step in POWER-WAIT, end at once; a step in MOVING or
PRESENTING is marked (R148). Also tells whether the sweep ended. -/
def State.stopSweep (s : State) (c : Nat) : State × Bool :=
  if (s.car c).inService = some .step then
    if (s.car c).state = .moving ∨ (s.car c).state = .presenting then
      (s.modSweepRecord c fun r => { r with stopMark := true }, false)
    else
      let s1 := (s.leaveWait c).modCar c fun k => { k with inService := none }
      ((s1.endSweep c .stopped).notePoint c, true)
  else (s.endSweep c .stopped, true)

/-- AUDIT-STOP (R148). -/
def State.auditStop (s : State) (c : Nat) : State × Reply :=
  if 8 ≤ c then (s, .refused .badValue)
  else
    match (s.car c).sweep with
    | none => (s, .refused .wrongState)
    | some w =>
      let r := s.stopSweep c
      (r.1, .done (beBytes 2 w.number ++ [flagByte r.2]))

/-! ## DISCREPANCY-RESOLVE -/

/-- The action of a DISCREPANCY-RESOLVE, a SET with its explicit state (R153). -/
inductive ResolveAction where
  | acceptFound
  | keepRecorded
  | set (article batch count : Nat)
  deriving DecidableEq, Repr

/-- The position of an action in the list of R153. -/
def resolveCode : ResolveAction → Byte
  | .acceptFound => 0
  | .keepRecorded => 1
  | .set .. => 2

/-- Test 4 of R153: the bay cannot be touched while its carousel moves, presents a task, keeps a claim, or presents the
bay's carrier in a sweep step. -/
def State.resolveBlocked (s : State) (id : BayId) : Bool :=
  let k := s.car id.carousel
  decide (k.state = .moving) || s.hasClaim id.carousel ||
    (decide (k.state = .presenting) &&
      match k.inService with
      | some .step => decide (k.sweep.map SweepContext.next = some id.carrier)
      | some (.task _) => true
      | none => false)

/-- The found state that a resolve writes: outer none for KEEP-RECORDED, which sends no claim (R154); an error where
test 5 of R153 fails. -/
def State.resolveState (s : State) (e : Discrepancy) : ResolveAction → Except Reason (Option (Option Found))
  | .keepRecorded => .ok none
  | .acceptFound =>
    if e.kind = .unread then .error .badValue
    else
      match e.found with
      | [] => .ok (some none)
      | [f] => if (s.article f.tyre.article).isSome then .ok (some (some f)) else .error .badValue
      | _ => .error .badValue
  | .set article batch count =>
    if count = 0 then .ok (some none)
    else if (s.article article).isSome then .ok (some (some { tyre := { article, batch }, count }))
    else .error .unknownItem

/-- Test 1 of R153 on a SET's explicit state. -/
def ResolveAction.inRange : ResolveAction → Bool
  | .set article batch count => decide (count ≤ 4) && (decide (count ≠ 0) || (decide (article = 0) && decide (batch = 0)))
  | _ => true

/-- The CORRECT claim of a resolve (R154, step 1). -/
def State.resolveClaim (s : State) (id : BayId) (found : Option (Option Found)) : Except CorrectRefusal State :=
  match found with
  | none => .ok s
  | some f => s.correct id f

/-- Steps 2 and 3 of R154: the entry goes, the list-full mark of a full list is cleared, and AUDIT is cleared where no
other entry names the bay. -/
def State.removeEntry (s : State) (id : BayId) (e : Discrepancy) : State × Reply :=
  let rest := s.audit.list.filter fun x => x.number != e.number
  let full := decide (32 ≤ s.audit.list.length)
  let s1 := { s with audit := { s.audit with list := rest, listFull := s.audit.listFull && !full } }
  let named := rest.any fun x => x.carousel == e.carousel && x.position == e.position
  let s2 := if named then s1 else s1.holdClear id .audit
  let b := s2.bay id
  (s2, .done ([flagByte (!named && (s.bay id).holds.audit), byte b.count] ++ tyreOptBytes b.tyre))

/-- DISCREPANCY-RESOLVE (R153, R154). -/
def State.resolve (s : State) (number : Nat) (action : ResolveAction) : State × Reply :=
  if action.inRange = false then (s, .refused .badValue)
  else
    match s.audit.list.find? fun e => e.number == number with
    | none => (s, .refused .unknownItem)
    | some e =>
      let id := s.bayAt e.carousel e.position
      if s.bayExists id = false then (s, .refused .badValue)
      else if s.resolveBlocked id then (s, .refused .wrongState)
      else
        match s.resolveState e action with
        | .error r => (s, .refused r)
        | .ok found =>
          match s.resolveClaim id found with
          | .error .stackLimit => (s, .refused .badValue)
          | .error .incoming => (s, .refused .inUse)
          | .ok s1 =>
            let r := s1.removeEntry id e
            (r.1, { r.2 with fields := [byte e.number, resolveCode action] ++ r.2.fields })

end Sys2Proof.Machine
end

