-- ==== Sys2Proof/Machine/Mouth.lean ====
section
/-! DEFINITION. What reaches a carousel's mouth (R111): the reads and keys of a presented PICK task (chapter 6) and of a
presented PUT task (R85, R86). -/

namespace Sys2Proof.Machine

/-- The presented task ends and the presentation ends; what the end reports is taken before the carousel is served
again (R54, R66, log 8). -/
def State.endPresented (s : State) (c id : Nat) (settleBay : Bool := true) : State :=
  (s.endTask id settleBay).settle.presentationEnd c

/-- The task goes on with a fresh indication, or ends complete where taken equals quantity (R113, R116, R117). -/
def State.afterTake (s : State) (c id : Nat) : State :=
  match s.task id with
  | some t => if t.taken = t.quantity then s.endPresented c id else s.indicateTask c t
  | none => s

/-- WRONG-ITEM is shown and nothing else changes (R85, R115). -/
def State.wrongItem (s : State) (c : Nat) (t : Task) : State :=
  s.indicate c t.bay.bay .wrongItem 0 0

/-- The lane of the order a PICK task is for; a presented task's order holds one (R131). -/
def State.laneOf (s : State) (number : Nat) : Nat :=
  match (s.order number).bind Order.lane with
  | some n => n
  | none => 0

/-- One tyre taken by a presented PICK task (R113, R114). -/
def State.take (s : State) (c id : Nat) (t : Task) (tyre : Tyre) : State :=
  let lane := s.laneOf t.order
  let s1 := (s.pickTake t.bay).modTask id fun t => { t with taken := t.taken + 1, transit := t.transit - 1 }
  let f := s1.fillEntry t.ref tyre lane (.mouth c) (s.now + s.transitMs)
  let s2 := f.1.sendRoute (.mouth c) (.lane lane) tyre (some f.2)
  (s2.modGroup t.ref fun g => { g with picked := g.picked + 1 }).afterTake c id

/-- A TAG-READ while a PICK task is presented: a take, or a wrong item (R113, R115). -/
def State.pickRead (s : State) (c id : Nat) (t : Task) (tallies : List Tally) : State :=
  match singleTally tallies with
  | some y => if (s.bay t.bay).tyre = some y then s.take c id t y else s.wrongItem c t
  | none => s.wrongItem c t

/-- A TAG-READ while a PUT task is presented: the placed tyre confirmed, or a wrong item (R85). -/
def State.putRead (s : State) (c id : Nat) (t : Task) (tallies : List Tally) : State :=
  match singleTally tallies with
  | some y =>
    if t.tyre = some y then
      let s1 := (s.putTake t.bay y).modTask id fun t => { t with taken := 1 }
      (s1.noteRetry (.articles [y.article])).endPresented c id
    else s.wrongItem c t
  | none => s.wrongItem c t

/-- A TAG-READ delivered from the mouth reader of `c` (R111). A carrier read that comes late and meets a presented task is
judged as any read of that task is (R113, R85): a single tally that matches is a take, any other a wrong item (log 49). -/
def State.mouthRead (s : State) (c : Nat) (tallies : List Tally) : State :=
  match (s.car c).state, (s.car c).inService with
  | .presenting, some (.task id) =>
    match s.task id with
    | some t =>
      match t.kind with
      | .pick => s.pickRead c id t tallies
      | .put => s.putRead c id t tallies
    | none => s
  | .presenting, some .step => s.carrierRead c tallies
  | _, _ => s

/-- The DAMAGED key on a presented PICK task (R117). -/
def State.pickDamaged (s : State) (c id : Nat) (t : Task) : State :=
  let s1 := (s.pickTake t.bay).modTask id fun t => { t with quantity := t.quantity - 1, transit := t.transit - 1 }
  ((s1.giveBack 1).returnNeed t.ref 1).afterTake c id

/-- The SHORT key on a presented PICK task (R118). -/
def State.pickShort (s : State) (c id : Nat) (t : Task) : State :=
  (s.shortClaim t.bay (t.quantity - t.taken)).endPresented c id false

/-- The DAMAGED key on a presented PUT task (R86). -/
def State.putDamaged (s : State) (c id : Nat) (t : Task) : State :=
  (s.endPresented c id).notify (.putRefused .damaged t.tyre)

/-- A KEY delivered from the mouth keypad of `c` (R111, R86, R117 to R119). -/
def State.mouthKey (s : State) (c : Nat) (key : Key) : State :=
  match (s.car c).state, (s.car c).inService with
  | .presenting, some (.task id) =>
    match s.task id with
    | some t =>
      match t.kind, key with
      | .pick, .short => s.pickShort c id t
      | .pick, .damaged => s.pickDamaged c id t
      | .pick, .skip => s.endPresented c id
      | .put, .short => s
      | .put, .damaged => s.putDamaged c id t
      | .put, .skip => s.park c id
    | none => s
  | _, _ => s

end Sys2Proof.Machine
end

