-- ==== Sys2Proof/Machine/PutAway.lean ====
section
/-! DEFINITION. The put-away unit (chapter 4): the stages of an infeed read (R75), cross-dock (R77, R78), placement
(R79 to R81) and refusal (R76, R82). -/

namespace Sys2Proof.Machine

/-- A read sent to overflow: its ROUTE, then PUT-REFUSED with the tyre as the notice carries it (R76, R82, R83). -/
def State.overflow (s : State) (reason : PutRefusal) (tyre : Tyre) (shown : Option Tyre) : State :=
  (s.sendRoute .infeed (.overflow s.overflowCode) tyre).notify (.putRefused reason shown)

/-- The tyre that the ROUTE of a BAD-READ carries, which no reading gives: a free value (log 30). -/
def State.unreadTyre (s : State) : Tyre × State :=
  ({ article := (Config.unreadArticle s.choices).toNat, batch := (Config.unreadBatch s.choices).toNat },
    { s with choices := s.choices + 1 })

/-- Stage 1 fails (R76). -/
def State.badRead (s : State) : State :=
  let t := s.unreadTyre
  t.2.overflow .badRead t.1 none

/-! ## Cross-dock -/

/-- Whether a group of the pending list can take the tyre (R77). -/
def State.canTake (s : State) (tyre : Tyre) (ref : GroupRef) : Bool :=
  match s.order ref.order, s.group ref with
  | some o, some g =>
    decide (s.groupArticle ref = tyre.article) && decide (1 ≤ g.need) && o.lane.isSome &&
      decide (o.state ≠ .laneWait) && decide (o.state ≠ .withdrawn) &&
      windowAdmits g.window (s.tolerance tyre.article) tyre.batch
  | _, _ => false

/-- The tyre is cross-docked to a group, from an entry already granted (R78). -/
def State.crossDock (s : State) (ref : GroupRef) (tyre : Tyre) (time : Nat) : State :=
  let lane := s.laneOf ref.order
  let f := s.fillEntry ref tyre lane .infeed (time + s.transitMs)
  let s1 := f.1.modGroup ref fun g => { g with
    need := g.need - 1, picked := g.picked + 1, window := widen g.window tyre.batch }
  let s2 :=
    if (s1.group ref).map Group.need = some 0 then
      { s1 with orderUnit := { s1.orderUnit with pending := s1.orderUnit.pending.filter (· != ref) } }
    else s1
  s2.sendRoute .infeed (.lane lane) tyre (some f.2)

/-- Stage 3 (R77): one entry is asked for, the list is walked, and without a group the entry is given back. Also tells
whether the tyre was taken. -/
def State.tryCrossDock (s : State) (tyre : Tyre) (time : Nat) : State × Bool :=
  match s.grant 1 with
  | none => (s, false)
  | some s1 =>
    match s1.orderUnit.pending.find? (s1.canTake tyre) with
    | some ref => (s1.crossDock ref tyre time, true)
    | none => (s1.giveBack 1, false)

/-! ## Placement -/

/-- A bay that may take the tyre, with its W' and whether it records the article and batch (R79, R80). -/
structure Place where
  bay : BayId
  worst : Nat
  same : Bool
  deriving DecidableEq, Repr

/-- The balance unit's answer for a carrier: the loads with the tyre added (R27). -/
def State.placementLoads (s : State) (c carrier article : Nat) : List Int :=
  (s.prospectiveLoads c).modify carrier (· + (s.weight article : Int))

/-- The balance unit's two tests for a carrier (R27, R79): the carrier ceiling and the last enabled grade. W' where both
hold. -/
def State.placementAnswer (s : State) (p : Profile) (c carrier article : Nat) : Option Int :=
  let loads := s.placementLoads c carrier article
  let st := stateOf loads
  if loads.getD carrier 0 ≤ (p.ceiling : Int) ∧ (s.bal c).admits st.1 st.2 then some st.1 else none

/-- The stock side of a candidate bay (R79). -/
def State.roomFor (s : State) (tyre : Tyre) (id : BayId) : Bool :=
  let b := s.bay id
  !b.holds.any && (decide (b.state = .empty) ||
    (decide (b.tyre = some tyre) && decide (b.count + b.incoming < s.stackLimit tyre.article)))

/-- The candidate bays of one carrier (R79). -/
def State.carrierPlaces (s : State) (p : Profile) (tyre : Tyre) (out : List BayId) (c carrier : Nat) : List Place :=
  match s.placementAnswer p c carrier tyre.article with
  | none => []
  | some w =>
    (s.carrierBays c carrier).filterMap fun id =>
      if out.contains id = false ∧ s.roomFor tyre id then
        some { bay := id, worst := w.toNat, same := decide ((s.bay id).tyre = some tyre) }
      else none

/-- The candidate bays in C.K.B order, less those left out (R79, R81). -/
def State.places (s : State) (a : Article) (tyre : Tyre) (out : List BayId) : List Place :=
  (List.range 8).flatMap fun c =>
    match (s.car c).profile with
    | some p =>
      if a.zone.getLsbD c ∧ s.offersBays c then
        (List.range p.carriers).flatMap (s.carrierPlaces p tyre out c)
      else []
    | none => []

/-- The keys of the choice in turn: W', a bay recording the article and batch, fewer queued tasks, lowest C.K.B
(R80). -/
def State.placeKey (s : State) (x : Place) : List Nat :=
  [x.worst, if x.same then 0 else 1, (s.car x.bay.carousel).walkOrder.length, x.bay.carousel, x.bay.carrier, x.bay.bay]

/-- The chosen bay (R80). -/
def State.choosePlace (s : State) (a : Article) (tyre : Tyre) (out : List BayId) : Option BayId :=
  ((sortByKey s.placeKey (s.places a tyre out)).head?).map Place.bay

/-- The PUT task of a placement (R81), its age timer running from now (R56). -/
def putTask (id : BayId) (tyre : Tyre) (expiry : Nat) : Task where
  kind := .put
  level := 1
  bay := id
  quantity := 1
  tyre := some tyre
  age := .running expiry

/-- The accepted placement: the record becomes the PUT task, joins its queue, and the tyre is routed to the mouth
(R81, step 3). -/
def State.placed (s : State) (record : Nat) (id : BayId) (tyre : Tyre) : State :=
  let s1 := s.setTask record (some (putTask id tyre (s.now + s.putAgeMs)))
  (s1.joinTail record).sendRoute .infeed (.mouth id.carousel) tyre

/-- Steps 2 to 4 of R81 with a record taken: the claim on the chosen bay, and on a refusal the next choice with the
refused bay left out. The number bounds the choices: each leaves out one bay more. -/
def State.commitPlace (a : Article) (tyre : Tyre) (record : Nat) : Nat → List BayId → State → State
  | 0, _, s => s.overflow .noRoom tyre (some tyre)
  | fuel + 1, out, s =>
    match s.choosePlace a tyre out with
    | none => s.overflow .noRoom tyre (some tyre)
    | some id =>
      match s.incomingAdd id tyre with
      | some s1 => s1.placed record id tyre
      | none => State.commitPlace a tyre record fuel (id :: out) s

/-- Stages 4 and 5 (R79 to R82); a store has at most 1920 bays to leave out (R1). -/
def State.placement (s : State) (a : Article) (tyre : Tyre) : State :=
  match s.choosePlace a tyre [] with
  | none => s.overflow .noRoom tyre (some tyre)
  | some _ =>
    match s.freeTasks with
    | [] => s.overflow .noTask tyre (some tyre)
    | record :: _ => State.commitPlace a tyre record 1921 [] s

/-! ## The read -/

/-- One infeed read through the stages of Table 4-2 (R75). -/
def State.handleInfeed (s : State) (r : InfeedRead) : State :=
  match r.tallies with
  | [y] =>
    if y.count = 1 then
      let tyre : Tyre := { article := y.article, batch := y.batch }
      match s.article y.article with
      | none => s.overflow .unknownItem tyre (some tyre)
      | some a =>
        match s.tryCrossDock tyre r.time with
        | (s1, true) => s1
        | (s1, false) => s1.placement a tyre
    else s.badRead
  | _ => s.badRead

/-- Put-away takes the oldest read delivered to it (R75). -/
def State.infeedRead (s : State) : State :=
  match s.putAway.reads with
  | [] => s
  | r :: rest => ({ s with putAway := { s.putAway with reads := rest } }).handleInfeed r

end Sys2Proof.Machine
end

