-- ==== Sys2Proof/Machine/Classifier.lean ====
section
/-! DEFINITION. The inbound classifier (R160 to R162, R187), the taking of an ACCEPT (R165), the end of an acceptance
wait (R165), and passthrough (R163). -/

namespace Sys2Proof.Machine

/-! ## Roles and delivery -/

/-- The roles of a station (R162, Table 9-3). -/
inductive Role where
  | drive (carousel : Nat)
  | reader (carousel : Nat)
  | keypad (carousel : Nat)
  | infeed
  | lane (n : Nat)
  | diverter
  deriving DecidableEq, Repr

/-- The role a station holds at carousel `c` (R162). -/
def State.carouselRole (s : State) (station : Byte) (c : Nat) : Option Role :=
  match (s.car c).profile with
  | none => none
  | some p =>
    if p.drive = station then some (.drive c)
    else if p.reader = station then some (.reader c)
    else if p.keypad = station then some (.keypad c)
    else none

/-- The role a station holds in the site record: infeed, lane readers, diverter (R162). -/
def Site.role (site : Site) (station : Byte) : Option Role :=
  if site.infeed = station then some .infeed
  else
    match site.laneReaders.findIdx? (· == station) with
    | some n => some (.lane n)
    | none => if site.diverter = station then some .diverter else none

/-- The role of a station: carousel roles first, then site roles (R162). -/
def State.role (s : State) (station : Byte) : Option Role :=
  match (List.range 8).findSome? (s.carouselRole station) with
  | some r => some r
  | none =>
    match s.putAway.site with
    | some site => site.role station
    | none => none

/-- An infeed read delivered to put-away waits its turn there (R75, log 15). -/
def State.queueRead (s : State) (tallies : List Tally) : State :=
  { s with putAway := { s.putAway with reads := s.putAway.reads ++ [{ tallies, time := s.now }] } }

/-- Delivery of a frame to the block that holds the role of its source for that kind, its payload agreeing with its
layout; none where no block takes it (R162, R187). -/
def State.deliver (s : State) (f : Frame) : Option State :=
  match s.role f.src with
  | some (.drive c) =>
    if f.kind = kindArrived then (readArrived f.payload).map fun a => s.arrived c a.1 a.2.1 a.2.2
    else if f.kind = kindDriveState then (readDriveState f.payload).map fun d => s.driveState c d.1 d.2
    else none
  | some (.reader c) => if f.kind = kindTagRead then (readTagRead f.payload).map (s.mouthRead c) else none
  | some (.keypad c) => if f.kind = kindKey then (readKey f.payload).map (s.mouthKey c) else none
  | some .infeed => if f.kind = kindTagRead then (readTagRead f.payload).map s.queueRead else none
  | some (.lane n) => if f.kind = kindTagRead then (readTagRead f.payload).map (s.arrival n) else none
  | some .diverter => none
  | none => none

/-! ## Filter -/

/-- The source station satisfies the match type (Table 9-2). -/
def FilterElement.sourceMatches (e : FilterElement) (src : Byte) : Bool :=
  match e.matchType with
  | .exact => src == e.a
  | .range => decide (e.a ≤ src) && decide (src ≤ e.b)
  | .mask => (src &&& e.b) == (e.a &&& e.b)

/-- A valid element matches by source and kind (R160). -/
def FilterElement.isMatch (e : FilterElement) (f : Frame) : Bool :=
  e.valid && e.sourceMatches f.src && (match e.kind with | none => true | some k => k == f.kind)

/-- The action that decides a frame (R161). The frame of a COPY reaches its block before the link (log 17). -/
def State.act (s : State) (f : Frame) (action : FilterAction) : State :=
  match action with
  | .discard => s
  | .forward => s.forward f
  | .deliver =>
    match s.deliver f with
    | some s1 => s1
    | none => s.forward f
  | .copy =>
    match s.deliver f with
    | some s1 => s1.forward f
    | none => s.forward f

/-- The first valid element that matches, with its index (R160). -/
def State.deciding (s : State) (f : Frame) : Option (Nat × FilterElement) :=
  match s.filter.findIdx? (fun e => e.isMatch f) with
  | some i => (s.filter[i]?).map fun e => (i, e)
  | none => none

/-- The global rule of the line profile; FORWARD until one is loaded (R156). -/
def State.globalRule (s : State) : GlobalRule :=
  match s.line.profile with
  | some p => p.rule
  | none => .forward

/-- A frame other than ACCEPT: the deciding element's action, with URGENT-FRAME where it is urgent, or the global rule
(R160, R161). -/
def State.classify (s : State) (f : Frame) : State :=
  match s.deciding f with
  | some (i, e) =>
    let s1 := s.act f e.action
    if e.urgent then s1.notify (.urgentFrame i f) else s1
  | none =>
    match s.globalRule with
    | .forward => s.forward f
    | .discard => s

/-! ## Acceptance (R165) -/

/-- The frame that the transmitter is transmitting or awaiting (R165). -/
def Transmitter.held : Transmitter → Option Sending
  | .idle => none
  | .sending x => some x
  | .awaiting x _ _ => some x

/-- The wait of a frame ends with its ACCEPT: a slot MOVE leaves its slot and its sequencer is told; the ACCEPT of a
passthrough frame is forwarded; others make no report (R165, R164). -/
def State.accepted (s : State) (x : Sending) (f : Frame) : State :=
  match x.source with
  | .slot c => (s.txIdle.setSlot c none).moveAccepted c
  | .displaced => s.txIdle
  | .fifo =>
    match x.frame.origin with
    | .part => s.txIdle
    | .link _ => s.txIdle.forward f

/-- An ACCEPT frame at the outbox: it matches by source station and tag, or is discarded (R165, R187). -/
def State.takeAccept (s : State) (f : Frame) : State :=
  match s.outbox.tx.held with
  | some x => if x.frame.dest = f.src ∧ x.frame.tag = f.tag then s.accepted x f else s
  | none => s

/-- The classifier takes the head of the line receive queue (R160). -/
def State.classifyHead (s : State) : State :=
  match s.line.rx with
  | [] => s
  | f :: rest =>
    let s1 := { s with line := { s.line with rx := rest } }
    if f.kind = kindAccept then s1.takeAccept f else s1.classify f

/-- An exhausted frame: the transmitter is idle and the frame is reported by its kind (R165). -/
def State.exhausted (s : State) (x : Sending) : State :=
  match x.source with
  | .slot c => (s.txIdle.setSlot c none).moveExhausted c
  | .displaced => s.txIdle
  | .fifo => s.txIdle.reportExhausted x

/-- The reply window expires: a repeat, or exhaustion (R165). -/
def State.replyExpired (s : State) : State :=
  match s.outbox.tx with
  | .awaiting x _ limit => if x.repeats < limit then s.repeatFrame x else s.exhausted x
  | _ => s

/-! ## Passthrough (R163) -/

/-- A station that is the drive of a carousel with a profile that is not in MANUAL (R163). -/
def State.drivenStation (s : State) (station : Byte) : Bool :=
  (List.range 8).any fun c =>
    match (s.car c).profile with
    | some p => p.drive == station && decide ((s.car c).state ≠ .manual)
    | none => false

/-- The first test of R163 that a passthrough frame fails. -/
def State.passRefusal (s : State) (f : Frame) : Option PassRefusal :=
  match s.line.profile with
  | none => some .notProfiled
  | some p =>
    if f.dest = p.station then some .ownStation
    else if (f.kind = kindMove ∨ f.kind = kindStop) ∧ (f.dest = broadcast ∨ s.drivenStation f.dest) then some .drive
    else if p.maxPayload < f.payload.length then some .oversize
    else none

/-- A frame handed down by the link port: refused with its notice, or put into the FIFO with origin LINK (R163). -/
def State.handDown (s : State) (f : Frame) : State :=
  match s.passRefusal f with
  | some reason => s.notify (.passthroughRefused reason f)
  | none => s.joinFifo { dest := f.dest, kind := f.kind, tag := f.tag, payload := f.payload, origin := .link f.src }

/-- The head of the link receive queue, if it is not a request, is handed down (R171). -/
def State.passHead (s : State) : State :=
  match s.link.rx with
  | [] => s
  | r :: rest =>
    if r.request then s else ({ s with link := { s.link with rx := rest } }).handDown r.frame

/-! ## The link's transmit side (R172, R180) -/

/-- A waiting RESULT enters a free place (R172, R174). -/
def State.enterWaiting (s : State) : State :=
  match s.link.waiting with
  | some out =>
    if s.link.tx.length < 16 then { s with link := { s.link with tx := s.link.tx ++ [out], waiting := none } } else s
  | none => s

/-- The last byte of the head frame has been sent (R172): its place is free; the RESULT of a PORT-RESET LINK resets the
link port (R180). -/
def State.linkSent (s : State) : State :=
  match s.link.tx with
  | [] => s
  | out :: rest =>
    let s1 := { s with link := { s.link with tx := rest } }
    if out.resets then s1.resetLink else s1.enterWaiting

end Sys2Proof.Machine
end

