-- ==== Sys2Proof/Machine/Operands.lean ====
section
/-! DEFINITION. The operand forms of the management requests: how the payload of each kind is read (R174, R186, R188,
R189). A payload that cannot be read so is a BAD-FORMAT. Layouts that no table prints follow R186 (log 10). -/

namespace Sys2Proof.Machine

/-! ## Named lists -/

/-- The tables of TABLE-LOAD and TABLE-FETCH, in the order of R189. -/
inductive TableName where
  | article
  | carousel
  | grade
  | stock
  | filter
  | site
  deriving DecidableEq, Repr

/-- The sections of STATUS-FETCH (Table 10-4). -/
inductive Section where
  | ports
  | power
  | carousel (c : Nat)
  | store
  deriving DecidableEq, Repr

/-- The modes of CAROUSEL-MODE (R50). -/
inductive Mode where
  | online
  | offline
  | manual
  deriving DecidableEq, Repr

/-- A line of an ORDER-PLACE (Table 11-6). -/
structure LineRequest where
  article : Nat
  quantity : Nat
  setSize : Nat
  deriving DecidableEq, Repr

/-- A request with its operands (Table 10-1). -/
inductive Request where
  | linkProfile (station maxPayload enable : Nat)
  | lineProfile (station : Nat) (window limit : Option Nat) (maxPayload : Nat) (rule : GlobalRule)
  | portReset (port : Port)
  | portClear (port : Port)
  | storeReset
  | tableLoad (table : TableName) (start : Nat) (entries : List (List Byte))
  | tableFetch (table : TableName) (start wanted : Nat)
  | statusFetch (which : Section)
  | carouselMode (carousel : Nat) (mode : Mode)
  | gradeCap (carousel index : Nat)
  | powerBudget (target : Nat)
  | lineHold
  | lineRelease
  | orderPlace (number : Nat) (priority : Priority) (policy : ShortPolicy) (lines : List LineRequest)
  | orderWithdraw (number : Nat)
  | laneRelease (lane : Nat)
  | holdRange (carousel first count : Nat) (set : Bool)
  | baySeize (bay : BayId)
  | bayUnseize (bay : BayId)
  | auditStart (carousel first last : Nat) (policy : SweepPolicy)
  | auditStop (carousel : Nat)
  | resolve (number : Nat) (action : ResolveAction)
  | taskRepresent (task : Nat)
  | taskAbandon (task : Nat)
  /-- A HOLD-RANGE whose operation is neither SET nor CLEAR (R16). -/
  | holdRangeOther (carousel : Nat)
  /-- Any other request with a code outside a list that the rule of its kind tests itself (log 9). -/
  | outsideList (kind : Byte)
  deriving DecidableEq, Repr

/-- The item of a list at a position; none beyond the list (R186). -/
def namedValue {α : Type} (list : List α) (code : Nat) : Option α :=
  list[code]?

/-- The tables by code (R189). -/
def readTable (code : Nat) : Option TableName :=
  namedValue [.article, .carousel, .grade, .stock, .filter, .site] code

/-! ## Payloads -/

/-- The size of a table's entry; a SITE entry has 20 bytes and one for each lane of its lane count (R189). One with another
number of reader bytes is thereby a payload of a wrong length, BAD-FORMAT, before test 1 of R73 (log 46). -/
def entrySize (t : TableName) (rest : List Byte) : Nat :=
  match t with
  | .article => 10
  | .carousel => 27
  | .grade => 96
  | .stock => 11
  | .filter => 7
  | .site => 20 + (rest.getD 3 0).toNat

/-- `n` entries that fill the bytes exactly (R189); none where they do not, which is BAD-FORMAT (R174; log 46 for SITE). -/
def takeEntries (t : TableName) : Nat → List Byte → Option (List (List Byte))
  | 0, [] => some []
  | 0, _ :: _ => none
  | n + 1, bs =>
    let size := entrySize t bs
    if size ≤ bs.length then (takeEntries t n (bs.drop size)).map fun es => bs.take size :: es else none

/-- TABLE-LOAD: table code, four-byte start, entry count, entries (R189). -/
def readTableLoad (p : List Byte) : Option Request :=
  match takeFields [1, 4, 1] p with
  | some ([code, start, count], rest) =>
    (readTable code).bind fun t => (takeEntries t count rest).map fun es => .tableLoad t start es
  | _ => none

/-- TABLE-FETCH: table code, four-byte start, entries wanted; the second byte of a STOCK start is 00h (R189). -/
def readTableFetch (p : List Byte) : Option Request :=
  match readFields [1, 4, 1] p with
  | some [code, start, wanted] =>
    (readTable code).bind fun t =>
      if t = .stock ∧ start / 65536 % 256 ≠ 0 then none else some (.tableFetch t start wanted)
  | _ => none

/-- The request of a kind, if each of its named values is in its list; else one that the rule of its kind refuses with
BAD-VALUE (R16, R50, R93, R141, R153, R156, R178, R180; log 9). -/
def ifListed (kind : Byte) (r : Option Request) : Option Request :=
  some (r.getD (.outsideList kind))

/-- STATUS-FETCH: a section, and for CAROUSEL the carousel; any length with a section outside the table (R178). -/
def readStatusFetch (p : List Byte) : Option Request :=
  match p with
  | [] => none
  | code :: rest =>
    if 4 ≤ code.toNat then some (.outsideList kindStatusFetch)
    else if code = 2 then
      match rest with
      | [c] => some (.statusFetch (.carousel c.toNat))
      | _ => none
    else if rest = [] then some (.statusFetch (if code = 0 then .ports else if code = 1 then .power else .store))
    else none

/-- LINE-PROFILE: station, reply window and repeat limit each with a presence byte, maximum payload, global rule
(R156, R186). -/
def readLineProfile (p : List Byte) : Option Request :=
  match readFields [1, 1, 4, 1, 1, 2, 1] p with
  | some [station, pw, window, pl, limit, max, rule] =>
    match readOpt pw window, readOpt pl limit with
    | some w, some l =>
      ifListed kindLineProfile ((namedValue [GlobalRule.forward, .discard] rule).map fun r => .lineProfile station w l max r)
    | _, _ => none
  | _ => none

/-- `n` lines of an ORDER-PLACE, and nothing after them (Table 11-6). -/
def readLines : Nat → List Byte → Option (List LineRequest)
  | 0, [] => some []
  | 0, _ :: _ => none
  | n + 1, bs =>
    match takeFields [4, 1, 1] bs with
    | some ([article, quantity, setSize], rest) => (readLines n rest).map fun ls => { article, quantity, setSize } :: ls
    | _ => none

/-- ORDER-PLACE (Table 11-6). -/
def readOrderPlace (p : List Byte) : Option Request :=
  match takeFields [4, 1, 1, 1] p with
  | some ([number, priority, policy, count], rest) =>
    (readLines count rest).bind fun ls =>
      ifListed kindOrderPlace ((namedValue [Priority.normal, .rush] priority).bind fun pr =>
        (namedValue [ShortPolicy.wait, .part] policy).map fun po => .orderPlace number pr po ls)
  | _ => none

/-- DISCREPANCY-RESOLVE: entry number, action, and for SET the explicit state; any length with an action outside the
three (R153). -/
def readResolve (p : List Byte) : Option Request :=
  match takeFields [1, 1] p with
  | some ([number, action], rest) =>
    if 3 ≤ action then some (.outsideList kindDiscrepancyResolve)
    else if action = 2 then
      match readFields [4, 2, 1] rest with
      | some [article, batch, count] => some (.resolve number (.set article batch count))
      | _ => none
    else if rest = [] then some (.resolve number (if action = 0 then .acceptFound else .keepRecorded))
    else none
  | _ => none

/-- A request of a kind with one named port (R180). -/
def readPort (kind : Byte) (make : Port → Request) (p : List Byte) : Option Request :=
  match p with
  | [code] => ifListed kind ((namedValue [Port.link, .line] code.toNat).map make)
  | _ => none

/-- A request that names one bay C.K.B (R17, R18). -/
def readBay (p : List Byte) : Option BayId :=
  match readFields [1, 1, 1] p with
  | some [c, k, b] => some { carousel := c, carrier := k, bay := b }
  | _ => none

/-- A request with one field of a size. -/
def readOne (size : Nat) (p : List Byte) : Option Nat :=
  match readFields [size] p with
  | some [v] => some v
  | _ => none

/-- A request without operands. -/
def readNone (p : List Byte) (r : Request) : Option Request :=
  if p = [] then some r else none

/-- HOLD-RANGE: carousel, first position, count, operation (R16). -/
def readHoldRange (p : List Byte) : Option Request :=
  match readFields [1, 2, 1, 1] p with
  | some [c, first, n, op] =>
    match namedValue [true, false] op with
    | some set => some (.holdRange c first n set)
    | none => some (.holdRangeOther c)
  | _ => none

/-- AUDIT-START: carousel, first and last carrier, policy (R141). -/
def readAuditStart (p : List Byte) : Option Request :=
  match readFields [1, 1, 1, 1] p with
  | some [c, first, last, policy] =>
    ifListed kindAuditStart ((namedValue [SweepPolicy.correct, .report] policy).map fun x => .auditStart c first last x)
  | _ => none

/-- CAROUSEL-MODE: carousel, mode (R50). -/
def readCarouselMode (p : List Byte) : Option Request :=
  match readFields [1, 1] p with
  | some [c, mode] =>
    ifListed kindCarouselMode ((namedValue [Mode.online, .offline, .manual] mode).map fun m => .carouselMode c m)
  | _ => none

/-- LINK-PROFILE: station, maximum payload, notice enable set (R170). -/
def readLinkProfile (p : List Byte) : Option Request :=
  match readFields [1, 2, 4] p with
  | some [station, max, enable] => some (.linkProfile station max enable)
  | _ => none

/-- GRADE-CAP: carousel, request index (R38). -/
def readGradeCap (p : List Byte) : Option Request :=
  match readFields [1, 1] p with
  | some [c, i] => some (.gradeCap c i)
  | _ => none

/-- The request that a frame's kind and payload spell (R174, Table 11-3). -/
def readRequest (f : Frame) : Option Request :=
  let p := f.payload
  let k := f.kind
  if k = kindLinkProfile then readLinkProfile p
  else if k = kindLineProfile then readLineProfile p
  else if k = kindPortReset then readPort k .portReset p
  else if k = kindPortClear then readPort k .portClear p
  else if k = kindStoreReset then readNone p .storeReset
  else if k = kindTableLoad then readTableLoad p
  else if k = kindTableFetch then readTableFetch p
  else if k = kindStatusFetch then readStatusFetch p
  else if k = kindCarouselMode then readCarouselMode p
  else if k = kindGradeCap then readGradeCap p
  else if k = kindPowerBudget then (readOne 2 p).map .powerBudget
  else if k = kindLineHold then readNone p .lineHold
  else if k = kindLineRelease then readNone p .lineRelease
  else if k = kindOrderPlace then readOrderPlace p
  else if k = kindOrderWithdraw then (readOne 4 p).map .orderWithdraw
  else if k = kindLaneRelease then (readOne 1 p).map .laneRelease
  else if k = kindHoldRange then readHoldRange p
  else if k = kindBaySeize then (readBay p).map .baySeize
  else if k = kindBayUnseize then (readBay p).map .bayUnseize
  else if k = kindAuditStart then readAuditStart p
  else if k = kindAuditStop then (readOne 1 p).map .auditStop
  else if k = kindDiscrepancyResolve then readResolve p
  else if k = kindTaskRepresent then (readOne 1 p).map .taskRepresent
  else if k = kindTaskAbandon then (readOne 1 p).map .taskAbandon
  else none

/-! ## Entries of the tables (Tables 11-8, 3-2, 4-1) -/

/-- A CAROUSEL entry in the order of Table 3-2. -/
def readProfile (bs : List Byte) : Option Profile :=
  match readFields [1, 1, 2, 2, 2, 1, 1, 1, 4, 4, 2, 2, 1, 2, 1] bs with
  | some [carriers, bays, tare, ceiling, feed, drive, reader, keypad, fixed, per, warm, hot, warmGrade, tolerance, policy] =>
    (namedValue [SweepPolicy.correct, .report] policy).map fun policy =>
      { carriers, bays, tare, ceiling, feed, drive := byte drive, reader := byte reader, keypad := byte keypad,
        moveFixed := fixed, movePerCarrier := per, warm, hot, warmGrade, tolerance, policy }
  | _ => none

/-- A CAROUSEL entry's bytes (R177). -/
def profileBytes (p : Profile) : List Byte :=
  writeFields [(1, p.carriers), (1, p.bays), (2, p.tare), (2, p.ceiling), (2, p.feed)] ++
    [p.drive, p.reader, p.keypad] ++
    writeFields [(4, p.moveFixed), (4, p.movePerCarrier), (2, p.warm), (2, p.hot), (1, p.warmGrade), (2, p.tolerance)] ++
    [policyCode p.policy]

/-- An ARTICLE entry in the order of Table 11-8; its fields are not yet tested. -/
def readArticle (bs : List Byte) : Option Article :=
  match readFields [4, 2, 1, 1, 1, 1] bs with
  | some [code, weight, stackLimit, tolerance, zone, width] =>
    some { code, weight, stackLimit, tolerance, zone := byte zone, width }
  | _ => none

/-- An ARTICLE entry's bytes (Table 11-8). -/
def articleBytes (a : Article) : List Byte :=
  writeFields [(4, a.code), (2, a.weight), (1, a.stackLimit), (1, a.tolerance)] ++ [a.zone, byte a.width]

/-- `n` grade records of 12 bytes; none where a loaded enabled byte is neither 00h nor 01h (R190). -/
def readGradeRecords : Nat → List Byte → Option (List Grade)
  | 0, [] => some []
  | 0, _ :: _ => none
  | n + 1, bs =>
    match takeFields [1, 4, 4, 2, 1] bs with
    | some ([on, imbalance, total, power, speed], rest) =>
      if on ≤ 1 then
        (readGradeRecords n rest).map fun gs => { loaded := decide (on = 1), imbalance, total, power, speed } :: gs
      else none
    | _ => none

/-- A GRADE entry: eight records in table-index order (Table 11-8). -/
def readGrades (bs : List Byte) : Option (List Grade) :=
  readGradeRecords 8 bs

/-- A grade record's bytes as a load carries them (Table 11-8). -/
def gradeBytes (g : Grade) : List Byte :=
  flagByte g.loaded :: writeFields [(4, g.imbalance), (4, g.total), (2, g.power), (1, g.speed)]

/-- A STOCK entry (Table 11-8); the hold set is none where FFh is carried. -/
structure StockEntry where
  bay : BayId
  article : Nat
  batch : Nat
  count : Nat
  holds : Option Nat
  deriving DecidableEq, Repr

/-- A STOCK load entry in the order of Table 11-8. -/
def readStock (bs : List Byte) : Option StockEntry :=
  match readFields [1, 1, 1, 4, 2, 1, 1] bs with
  | some [c, k, b, article, batch, count, holds] =>
    some { bay := { carousel := c, carrier := k, bay := b }, article, batch, count,
           holds := if holds = 255 then none else some holds }
  | _ => none

/-- A byte that is 00h or 01h (R190). -/
def readBit (v : Nat) : Option Bool :=
  namedValue [false, true] v

/-- A FILTER entry (Table 11-8); none where a byte is outside Table 9-2 (R160, R190). -/
def readFilter (bs : List Byte) : Option FilterElement :=
  match bs with
  | [valid, matchType, a, b, kind, action, urgent] =>
    match readBit valid.toNat, namedValue [MatchType.exact, .range, .mask] matchType.toNat,
        namedValue [FilterAction.deliver, .forward, .copy, .discard] action.toNat, readBit urgent.toNat with
    | some v, some m, some x, some u =>
      if kind = 0xFF ∨ isKindCode kind then
        some { valid := v, matchType := m, a, b, kind := if kind = 0xFF then none else some kind, action := x, urgent := u }
      else none
    | _, _, _, _ => none
  | _ => none

/-- A FILTER element's bytes (Table 11-8). -/
def filterBytes (e : FilterElement) : List Byte :=
  [flagByte e.valid, match e.matchType with | .exact => 0 | .range => 1 | .mask => 2, e.a, e.b,
    match e.kind with | none => 0xFF | some k => k,
    match e.action with | .deliver => 0 | .forward => 1 | .copy => 2 | .discard => 3, flagByte e.urgent]

/-- A SITE entry: infeed, diverter, overflow code, lane count, lane readers, four times of four bytes (Table 4-1,
R189). -/
def readSite (bs : List Byte) : Option Site :=
  match bs with
  | infeed :: diverter :: overflow :: count :: rest =>
    match readFields [4, 4, 4, 4] (rest.drop count.toNat) with
    | some [putAge, presentation, transit, carrierRead] =>
      some { infeed, diverter, overflow, laneReaders := rest.take count.toNat, putAge, presentation, transit, carrierRead }
    | _ => none
  | _ => none

/-- A SITE record's bytes (Table 4-1). -/
def siteBytes (x : Site) : List Byte :=
  [x.infeed, x.diverter, x.overflow, byte x.laneReaders.length] ++ x.laneReaders ++
    writeFields [(4, x.putAge), (4, x.presentation), (4, x.transit), (4, x.carrierRead)]

end Sys2Proof.Machine
end

