-- ==== Sys2Proof/Machine/Tables.lean ====
section
/-! DEFINITION. The loadable tables (R176): one entry of each table with its tests and effects (R4, R5, R19, R31, R48,
R73, R160), the load of a list of entries, and TABLE-FETCH (R177). -/

namespace Sys2Proof.Machine

/-! ## ARTICLE (R3 to R5) -/

/-- A bay records an article (R4). -/
def Bay.records (b : Bay) (code : Nat) : Bool :=
  decide (b.tyre.map Tyre.article = some code) && decide (0 < b.count + b.incoming)

/-- Any bay of the store records an article (R4, R5). -/
def State.recorded (s : State) (code : Nat) : Bool :=
  s.bays.any fun l => l.any fun b => b.records code

/-- Any order of the order table has a line for an article (R4, R5). -/
def State.ordered (s : State) (code : Nat) : Bool :=
  s.orderUnit.orders.any fun o => o.lines.any fun l => l.article == code

/-- Any transit entry names an article (R5). -/
def State.inTransit (s : State) (code : Nat) : Bool :=
  s.consolidation.transit.any fun e => e.tyre.article == code

/-- Puts an entry in its place by code, replacing one of the same code (R3). -/
def insertArticle (a : Article) : List Article → List Article
  | [] => [a]
  | x :: xs =>
    if a.code < x.code then a :: x :: xs
    else if a.code = x.code then a :: xs
    else x :: insertArticle a xs

/-- Every field of an article entry lies in its range (Table 1-2). -/
def Article.inRange (a : Article) : Bool :=
  decide (1 ≤ a.code ∧ a.code ≤ 4294967294) && decide (10 ≤ a.weight ∧ a.weight ≤ 1000) &&
    decide (1 ≤ a.stackLimit ∧ a.stackLimit ≤ 4) && decide (a.tolerance ≤ 26) && decide (a.width ≤ 3)

/-- The deletion form: every field after the code is 0 (R190). -/
def Article.isDeletion (a : Article) : Bool :=
  decide (a.weight = 0 ∧ a.stackLimit = 0 ∧ a.tolerance = 0 ∧ a.zone = 0 ∧ a.width = 0)

/-- Deletes the entry of a code (R5). -/
def State.deleteArticle (s : State) (code : Nat) : Except Reason State :=
  if code = 0 ∨ code = 4294967295 then .error .badValue
  else if (s.article code).isNone then .error .unknownItem
  else if s.recorded code || s.ordered code || s.inTransit code then .error .inUse
  else .ok { s with articles := s.articles.filter fun a => a.code != code }

/-- Inserts an entry, or replaces the entry of its code under the checks of R4. -/
def State.putArticle (s : State) (a : Article) : Except Reason State :=
  let write := { s with articles := insertArticle a s.articles }
  match s.article a.code with
  | none => if 512 ≤ s.articles.length then .error .noSpace else .ok write
  | some old =>
    if (a.weight ≠ old.weight ∨ a.stackLimit ≠ old.stackLimit) ∧ s.recorded a.code then .error .inUse
    else if a.tolerance < old.tolerance ∧ s.ordered a.code then .error .inUse
    else .ok write

/-- One ARTICLE entry (R3 to R5, R190). -/
def State.loadArticle (s : State) (_index : Nat) (bs : List Byte) : Except Reason State :=
  match readArticle bs with
  | none => .error .badValue
  | some a =>
    if a.isDeletion then s.deleteArticle a.code
    else if a.inRange then s.putArticle a
    else .error .badValue

/-! ## CAROUSEL (R1, R22, R48) -/

/-- The station numbers a profile names. -/
def Profile.stations (p : Profile) : List Byte :=
  [p.drive, p.reader, p.keypad]

/-- The station numbers named in the profiles of the carousels a test picks. -/
def State.carouselStations (s : State) (pick : Nat → Bool) : List Byte :=
  ((List.range 8).filter pick).flatMap fun c =>
    match (s.car c).profile with
    | some p => p.stations
    | none => []

/-- The own line station number, if a line profile is loaded. -/
def State.ownLine (s : State) : List Byte :=
  match s.line.profile with
  | some p => [p.station]
  | none => []

/-- Station numbers are 0 to 254 and differ from one another and from those of a list (R48, R73). -/
def distinctStations (l others : List Byte) : Bool :=
  l.all (fun x => x != broadcast && !others.contains x) && decide l.Nodup

/-- Every field of a profile lies in its range, warm below hot (Table 3-2, R41). -/
def Profile.inRange (p : Profile) : Bool :=
  decide (8 ≤ p.carriers ∧ p.carriers ≤ 40 ∧ p.carriers % 2 = 0) && decide (1 ≤ p.bays ∧ p.bays ≤ 6) &&
    decide (p.tare ≤ 5000) && decide (100 ≤ p.ceiling ∧ p.ceiling ≤ 30000) && decide (1 ≤ p.feed ∧ p.feed ≤ 6000) &&
    decide (500 ≤ p.moveFixed ∧ p.moveFixed ≤ 20000) && decide (100 ≤ p.movePerCarrier ∧ p.movePerCarrier ≤ 5000) &&
    decide (p.hot ≤ 65535 ∧ p.warm < p.hot) && decide (p.warmGrade ≤ 7) && decide (p.tolerance ≤ 5000)

/-- N × b over all carousels, with a new geometry in place of the old (R1). -/
def State.bayTotal (s : State) (c : Nat) (p : Profile) : Nat :=
  ((List.range 8).map fun d => if d = c then p.carriers * p.bays else s.carriersOf d * s.baysPerCarrier d).sum

/-- The geometry of `c` stays as it is (R1). -/
def State.sameGeometry (s : State) (c : Nat) (p : Profile) : Bool :=
  match (s.car c).profile with
  | some old => decide (old.carriers = p.carriers) && decide (old.bays = p.bays)
  | none => false

/-- The geometry tests of R1. -/
def State.geometryRefusal (s : State) (c : Nat) (p : Profile) : Option Reason :=
  if 1920 < s.bayTotal c p then some .noSpace
  else if s.sameGeometry c p then none
  else if (s.baysOf c).all fun b => decide (b.state = .empty) && !b.holds.any then none
  else some .inUse

/-- The bays and loads of a carousel after an accepted profile (R1, R22): formed anew, or kept with a changed tare. -/
def State.formCarousel (s : State) (c : Nat) (p : Profile) : State :=
  match s.sameGeometry c p, (s.car c).profile with
  | true, some old =>
    if old.tare = p.tare then s else s.modBal c fun b => b.changeTare ((p.tare : Int) - old.tare)
  | _, _ =>
    let s1 := { s with bays := s.bays.modify c fun _ => List.replicate (p.carriers * p.bays) {} }
    s1.modBal c fun b => b.formLoads (List.replicate p.carriers (p.tare : Int))

/-- The balance-fault flag re-evaluated at a profile or grade load (R43). -/
def State.reviewFault (s : State) (c : Nat) : State :=
  let b := s.bal c
  if b.unadmitted then s.raiseBalanceFault c
  else if b.fault then ((s.modBal c fun b => { b with fault := false }).offerPass).notePoint c
  else s

/-- The COOLING flag re-evaluated at a profile load (R41). -/
def State.reviewCooling (s : State) (c : Nat) (p : Profile) : State :=
  if p.hot ≤ (s.bal c).duty then s.setCooling c true
  else if (s.bal c).duty ≤ p.warm then s.clearCooling c
  else s

/-- An accepted CAROUSEL entry (R48). -/
def State.acceptProfile (s : State) (c : Nat) (p : Profile) : State :=
  let s1 := (s.formCarousel c p).modCar c fun k => { k with profile := some p }
  let s2 := s1.modBal c fun b => { b with grades := deriveEnabled p.feed b.grades }
  (s2.reviewCooling c p).reviewFault c

/-- One CAROUSEL entry (R48). -/
def State.loadCarousel (s : State) (c : Nat) (bs : List Byte) : Except Reason State :=
  if 8 ≤ c then .error .badValue
  else if (s.car c).state ≠ .offline then .error .wrongState
  else
    match readProfile bs with
    | none => .error .badValue
    | some p =>
      if p.inRange && distinctStations p.stations (s.carouselStations (· != c) ++ s.ownLine) then
        match s.geometryRefusal c p with
        | some r => .error r
        | none => .ok (s.acceptProfile c p)
      else .error .badValue

/-! ## GRADE (R31, R32) -/

/-- Every field of a grade record lies in its range (Table 2-1). -/
def Grade.inRange (g : Grade) : Bool :=
  decide (g.imbalance ≤ 2000000) && decide (g.total ≤ 2000000) && decide (1 ≤ g.power ∧ g.power ≤ 6000) &&
    decide (1 ≤ g.speed ∧ g.speed ≤ 255)

/-- I and T_g do not decrease and P does not increase along a list of records (R31). -/
def gradesOrdered : List Grade → Bool
  | a :: b :: rest =>
    decide (a.imbalance ≤ b.imbalance ∧ a.total ≤ b.total ∧ b.power ≤ a.power) && gradesOrdered (b :: rest)
  | _ => true

/-- The table indices whose record is loaded enabled but disabled by the feed rating (R32). -/
def feedDisabled (gs : List Grade) : List Nat :=
  (List.range 8).filter fun i =>
    match gs[i]? with
    | some g => g.loaded && !g.enabled
    | none => false

/-- One GRADE entry (R31). -/
def State.loadGrade (s : State) (c : Nat) (bs : List Byte) : Except Reason State :=
  if 8 ≤ c then .error .badValue
  else
    match (s.car c).profile with
    | none => .error .wrongState
    | some p =>
      if (s.car c).state ≠ .offline then .error .wrongState
      else
        match readGrades bs with
        | none => .error .badValue
        | some gs =>
          if gs.all Grade.inRange && gradesOrdered (gs.filter Grade.loaded) then
            .ok ((s.modBal c fun b => { b with grades := deriveEnabled p.feed gs }).reviewFault c)
          else .error .badValue

/-! ## STOCK (R19) -/

/-- Test 2 of R19: the carousel is out of service, or in balance fault with no task presented and no claim kept. -/
def State.stockWritable (s : State) (c : Nat) : Bool :=
  let k := s.car c
  let presentsTask := decide (k.state = .presenting) && (match k.inService with | some (.task _) => true | _ => false)
  decide (k.state = .offline) || decide (k.state = .manual) ||
    ((s.bal c).fault && !presentsTask && !s.hasClaim c)

/-- Test 4 of R19 (the order inside it is log 9). -/
def State.stockRefusal (s : State) (e : StockEntry) : Option Reason :=
  if 4 < e.count then some .badValue
  else if e.count = 0 ∧ (e.article ≠ 0 ∨ e.batch ≠ 0) then some .badValue
  else if 0 < e.count ∧ (s.article e.article).isNone then some .unknownItem
  else if 0 < e.count ∧ s.stackLimit e.article < e.count then some .badValue
  else
    match e.holds with
    | some h => if 8 ≤ h ∨ h % 2 = 1 then some .badValue else none
    | none => none

/-- Any entry of the discrepancy list names a bay (R19, R154). -/
def State.named (s : State) (id : BayId) : Bool :=
  s.audit.list.any fun e => e.carousel == id.carousel && e.position == s.position id

/-- The hold set a STOCK entry leaves (R19). -/
def State.stockHolds (s : State) (e : StockEntry) (old : Holds) : Holds :=
  match e.holds with
  | none => old
  | some h => { audit := old.audit && s.named e.bay, mgmt := h.testBit 1, service := h.testBit 2 }

/-- STOCK-WRITE: the record written whole, its load change with the check, and a hold cleared reported (R19). -/
def State.stockWrite (s : State) (e : StockEntry) : State :=
  let old := s.bay e.bay
  let new : Bay := { old with
    tyre := if e.count = 0 then none else some { article := e.article, batch := e.batch }
    count := e.count
    holds := s.stockHolds e old.holds }
  let s1 := (s.modBay e.bay fun _ => new).loadChange e.bay.carousel e.bay.carrier (s.bayLoad new - s.bayLoad old) true
  if old.holds.any && !new.holds.any then s1.noteRetry .all else s1

/-- One STOCK entry (R19). -/
def State.loadStock (s : State) (_index : Nat) (bs : List Byte) : Except Reason State :=
  match readStock bs with
  | none => .error .badValue
  | some e =>
    if s.bayExists e.bay = false then .error .badValue
    else if s.stockWritable e.bay.carousel = false then .error .wrongState
    else if (s.bay e.bay).reserved ≠ 0 ∨ (s.bay e.bay).incoming ≠ 0 then .error .wrongState
    else
      match s.stockRefusal e with
      | some r => .error r
      | none => .ok (s.stockWrite e)

/-! ## FILTER (R160) -/

/-- One FILTER entry at an index (R160). -/
def State.loadFilter (s : State) (index : Nat) (bs : List Byte) : Except Reason State :=
  if 32 ≤ index then .error .badValue
  else
    match readFilter bs with
    | none => .error .badValue
    | some e =>
      if e.matchType = .range ∧ e.b < e.a then .error .badValue
      else .ok { s with filter := s.filter.set index e }

/-! ## SITE (R73) -/

/-- Every field of a site record lies in its range (Table 4-1). -/
def Site.inRange (x : Site) : Bool :=
  decide (1 ≤ x.laneReaders.length ∧ x.laneReaders.length ≤ 16) && decide (30 ≤ x.putAge ∧ x.putAge ≤ 900) &&
    decide (10 ≤ x.presentation ∧ x.presentation ≤ 600) && decide (5 ≤ x.transit ∧ x.transit ≤ 300) &&
    decide (1 ≤ x.carrierRead ∧ x.carrierRead ≤ 30)

/-- The stations of the site record that R73 compares. -/
def Site.stations (x : Site) : List Byte :=
  x.infeed :: x.diverter :: x.laneReaders

/-- 1 + the highest number of a lane that is not FREE; 0 where every lane is (R73, test 3). -/
def State.lanesNeeded (s : State) : Nat :=
  ((List.range s.consolidation.lanes.length).filter fun n =>
    match s.lane n with
    | some l => decide (l.state ≠ .free)
    | none => false).foldl (fun _ n => n + 1) 0

/-- An accepted site record: lanes added FREE and offered, lowest first, or FREE lanes removed (R73, R96). -/
def State.acceptSite (s : State) (x : Site) : State :=
  let had := s.consolidation.lanes.length
  let count := x.laneReaders.length
  let lanes := s.consolidation.lanes.take count ++ List.replicate (count - had) ({} : Lane)
  let s1 := { s with
    putAway := { s.putAway with site := some x }
    consolidation := { s.consolidation with lanes := lanes } }
  ((List.range count).filter fun n => decide (had ≤ n)).foldl State.offerLane s1

/-- One SITE entry (R73, R176); its index is tested with it, so a load without entries passes no such test (log 43). -/
def State.loadSite (s : State) (index : Nat) (bs : List Byte) : Except Reason State :=
  if index ≠ 0 then .error .badValue
  else
    match readSite bs with
    | none => .error .badValue
    | some x =>
      if x.inRange && distinctStations x.stations (s.carouselStations (fun _ => true) ++ s.ownLine) then
        if x.laneReaders.length < s.lanesNeeded then .error .inUse else .ok (s.acceptSite x)
      else .error .badValue

/-! ## TABLE-LOAD (R176) -/

/-- What a load has done: the state, the entries applied, and the first refused entry's reason. -/
structure Loaded where
  state : State
  applied : Nat := 0
  refusal : Option Reason := none

/-- The entries one after another, each with all its effects before the next is tested, up to the first refused
(R176). A load without entries has none to refuse, whatever its start (log 43). -/
def loadAll (load : State → Nat → List Byte → Except Reason State) : Nat → List (List Byte) → Loaded → Loaded
  | _, [], l => l
  | index, bs :: rest, l =>
    match load l.state index bs with
    | .ok s => loadAll load (index + 1) rest { state := s.settle, applied := l.applied + 1 }
    | .error r => { l with refusal := some r }

/-- The RESULT of a load (R176), with what the entries applied report after the count (R32, log 12). -/
def Loaded.reply (l : Loaded) (extra : List Byte) : Reply :=
  match l.refusal with
  | none => .done (countByte l.applied :: extra)
  | some r => if l.applied = 0 then .refused r else .partly (countByte l.applied :: reasonCode r :: extra)

/-- TABLE-LOAD of a table whose entries report nothing (R176). -/
def State.tableLoad (s : State) (load : State → Nat → List Byte → Except Reason State) (start : Nat)
    (entries : List (List Byte)) : State × Reply :=
  let l := loadAll load start entries { state := s }
  (l.state, l.reply [])

/-- TABLE-LOAD of the GRADE table: each entry applied reports the set its feed rating disables (R32). -/
def State.tableLoadGrades (s : State) (start : Nat) (entries : List (List Byte)) : State × Reply :=
  let l := loadAll State.loadGrade start entries { state := s }
  (l.state, l.reply ((List.range l.applied).map fun k => setByte (feedDisabled (l.state.bal (start + k)).grades)))

/-! ## TABLE-FETCH (R177) -/

/-- An entry of a fetch: the start that names it and its bytes. -/
structure Fetched where
  start : Nat
  bytes : List Byte
  deriving DecidableEq, Repr

/-- An entry that may be marked absent: presence byte, then the entry or zeros (R189, R186). -/
def optEntry (size : Nat) : Option (List Byte) → List Byte
  | none => 0 :: List.replicate size 0
  | some bs => 1 :: bs

/-- A STOCK entry's bytes as a fetch returns them (Table 11-8). An ASSIGNED bay, of count 0, returns the article and batch
it records (R6, log 45). -/
def stockBytes (id : BayId) (b : Bay) : List Byte :=
  let t := b.tyre.getD { article := 0, batch := 0 }
  bayBytes id ++ writeFields [(4, t.article), (2, t.batch), (1, b.count)] ++
    [b.holds.toByte, match b.state with | .empty => 0 | .assigned => 1 | .stocked => 2, byte b.incoming,
      byte b.reserved] ++ optBytes 2 b.lastSweep

/-- The request index of a table index: its place among the enabled records; FFh when it is not enabled (R32). -/
def requestIndexByte (gs : List Grade) (i : Nat) : Byte :=
  match gs[i]? with
  | some g => if g.enabled then byte ((gs.take i).filter Grade.enabled).length else 0xFF
  | none => 0xFF

/-- A grade table's bytes as a fetch returns them (Table 11-8). -/
def gradesBytes (gs : List Grade) : List Byte :=
  (List.range 8).flatMap fun i =>
    match gs[i]? with
    | some g => gradeBytes g ++ [flagByte g.enabled, requestIndexByte gs i]
    | none => []

/-- The bays of a carousel as fetched entries, by position (R177). -/
def State.stockEntries (s : State) (c : Nat) : List Fetched :=
  (List.range (s.baysOf c).length).map fun p =>
    let id := s.bayAt c p
    { start := c * 2 ^ 24 + p, bytes := stockBytes id (s.bay id) }

/-- The SITE record, or the record marked absent with the default timeouts (R74). -/
def State.siteEntry (s : State) : List Byte :=
  match s.putAway.site with
  | some x => 1 :: siteBytes x
  | none => [0, 0, 0, 0, 0] ++ writeFields [(4, 120), (4, 90), (4, 60), (4, 5)]

/-- The entries of a STOCK fetch from a carousel and position (R177); none where the position is above the last. -/
def State.fetchStock (s : State) (c position : Nat) : Option (List Fetched) :=
  let following := ((List.range 8).filter fun d => decide (c < d)).flatMap s.stockEntries
  if 8 ≤ c then none
  else if (s.car c).profile.isNone then some following
  else if (s.baysOf c).length ≤ position then none
  else some ((s.stockEntries c).drop position ++ following)

/-- The entries of a table from a start onward, in the table's own order; none where the start is beyond the table
(R177). -/
def State.fetchEntries (s : State) (t : TableName) (start : Nat) : Option (List Fetched) :=
  match t with
  | .article =>
    some ((s.articles.filter fun a => decide (start ≤ a.code)).map fun a => { start := a.code, bytes := articleBytes a })
  | .carousel =>
    if 8 ≤ start then none
    else some (((List.range 8).drop start).map fun c =>
      { start := c, bytes := optEntry 27 ((s.car c).profile.map profileBytes) })
  | .grade =>
    if 8 ≤ start then none
    else some (((List.range 8).drop start).map fun c =>
      { start := c, bytes := optEntry 112 ((s.car c).profile.map fun _ => gradesBytes (s.bal c).grades) })
  | .stock => s.fetchStock (start / 2 ^ 24) (start % 2 ^ 16)
  | .filter =>
    if 32 ≤ start then none
    else some (((List.range 32).drop start).filterMap fun i =>
      (s.filter[i]?).map fun e => { start := i, bytes := filterBytes e })
  | .site => if start ≠ 0 then none else some [{ start := 0, bytes := s.siteEntry }]

/-- How many whole entries fit in so many bytes. -/
def entriesThatFit (room : Nat) : List Fetched → Nat
  | [] => 0
  | e :: es => if e.bytes.length ≤ room then entriesThatFit (room - e.bytes.length) es + 1 else 0

/-- TABLE-FETCH (R177): the RESULT's payload holds 3 bytes of its own, the count and the start beside the entries. -/
def State.tableFetch (s : State) (t : TableName) (start wanted : Nat) : Reply :=
  if wanted = 0 then .refused .badValue
  else
    match s.fetchEntries t start with
    | none => .refused .badValue
    | some all =>
      let entries := all.take wanted
      let n := entriesThatFit (s.linkMax - 8) entries
      let bytes := (entries.take n).flatMap Fetched.bytes
      match entries[n]? with
      | none => .done (countByte n :: beBytes 4 0 ++ bytes)
      | some next => if n = 0 then .refused .noSpace else .partly (countByte n :: beBytes 4 next.start ++ bytes)

end Sys2Proof.Machine
end

