-- ==== Sys2Proof/Machine/Status.lean ====
section
/-! DEFINITION. STATUS-FETCH (R178): the contents of each section of Table 10-4, laid out by R186 (log 12). -/

namespace Sys2Proof.Machine

/-- The set of carousels whose slot holds a MOVE, in one byte (R156). -/
def State.slotSet (s : State) : Byte :=
  setByte ((List.range 8).filter fun c => (s.slot c).isSome)

/-- The position of a global rule in Table 9-1: FORWARD, DISCARD. -/
def ruleCode : GlobalRule → Byte
  | .forward => 0
  | .discard => 1

/-- The PORTS section (Table 10-4, R156, R170). -/
def State.portsSection (s : State) : List Byte :=
  let l := s.link
  let m := s.line
  [flagByte s.linkActive] ++
    optEntry 7 (l.profile.map fun p => [p.station] ++ beBytes 2 p.maxPayload ++ beBytes 4 p.enable.toNat) ++
    [l.errors.toByte, flagByte s.lineActive] ++
    optEntry 9 (m.profile.map fun p => [p.station] ++ beBytes 4 p.replyWindow ++ [byte p.repeatLimit] ++
      beBytes 2 p.maxPayload ++ [ruleCode p.rule]) ++
    [m.errors.toByte, countByte m.rx.length, flagByte m.drive, flagByte s.lineHeld,
      countByte s.outbox.fifo.length, s.slotSet]

/-- The POWER section (Table 10-4); the claims stand in the order the moves started, each with its carousel (log 44). -/
def State.powerSection (s : State) : List Byte :=
  let p := s.power
  beBytes 2 p.target ++ beBytes 2 p.budget ++ beBytes 2 p.claimed ++
    listBytes (fun x => byte x.carousel :: beBytes 2 x.draw) p.claims ++
    listBytes (fun x => [byte x.carousel, byte x.level]) p.waitList

/-- The floor as STATUS-FETCH reports it (R33): absent with no enabled grade; where no enabled grade admits the
committed state the spec states no value, and a free value stands (log 14). -/
def State.floorReport (s : State) (c : Nat) : Option Nat :=
  let b := s.bal c
  match (s.car c).profile with
  | none => none
  | some p =>
    if b.enabledGrades.isEmpty then none
    else
      match s.floor c with
      | some f => some f
      | none => some (Config.floorUnadmitted (b.dutyLimit p) b.cap (b.enabledGrades.length - 1))

/-- The work in service: 00h absent, 01h a task and its id, 02h a sweep step (log 12). -/
def workBytes : Option Work → List Byte
  | none => [0, 0]
  | some (.task id) => [1, byte id]
  | some .step => [2, 0]

/-- The sweep state and the sweep in progress (R140) with its save area whole (Table 10-4, R60): NONE, ACTIVE or SUSPENDED,
then number, origin, next and last carrier, the two counters and the policy, zeros when there is none (log 12). -/
def State.sweepBytes (s : State) (c : Nat) : List Byte :=
  match (s.car c).sweep with
  | none => List.replicate 9 0
  | some w =>
    [if (s.car c).inService = some .step then 1 else 2] ++ beBytes 2 w.number ++
      [originCode (s.sweepRecord c).origin, byte w.next, byte w.last, countByte w.done, countByte w.mismatches,
        policyCode w.policy]

/-- The CAROUSEL section of a carousel (Table 10-4). -/
def State.carouselSection (s : State) (c : Nat) : List Byte :=
  let k := s.car c
  let b := s.bal c
  [carouselStateCode k.state, flagByte b.cooling, flagByte b.fault, flagByte k.faultPending] ++ optBytes 1 k.index ++
    loadBytes b.worst ++ loadBytes b.total ++ beBytes 2 b.duty ++ optBytes 1 (s.floorReport c) ++ [byte b.cap] ++
    [countByte k.queue3.length, countByte k.queue2.length, countByte k.queue1.length, countByte k.queue0.length] ++
    listBytes (fun id => [byte id]) k.parked ++ workBytes k.inService ++ s.sweepBytes c

/-- A lane as the STORE section shows it (R128). -/
def laneBytes (l : Lane) : List Byte :=
  [laneStateCode l.state] ++ optBytes 4 l.order ++ [byte l.expected, byte l.arrived]

/-- The STORE section (Table 10-4). -/
def State.storeSection (s : State) : List Byte :=
  [countByte s.orderUnit.orders.length, countByte s.orderUnit.pending.length, countByte s.orderUnit.laneWait.length,
    countByte (128 - s.freeTasks.length), countByte s.consolidation.transit.length,
    countByte s.consolidation.reserved,
    countByte (s.consolidation.transit.filter TransitEntry.unrouted).length] ++
    listBytes laneBytes s.consolidation.lanes ++
    [countByte s.audit.list.length, countByte s.audit.overflow, flagByte s.audit.listFull]

/-- The contents of a section; none for a carousel outside 0-7 (R178). -/
def State.sectionBytes (s : State) : Section → Option (List Byte)
  | .ports => some s.portsSection
  | .power => some s.powerSection
  | .carousel c => if 8 ≤ c then none else some (s.carouselSection c)
  | .store => some s.storeSection

/-- STATUS-FETCH (R178). -/
def State.statusFetch (s : State) (x : Section) : Reply :=
  match s.sectionBytes x with
  | none => .refused .badValue
  | some bs => if s.linkMax < 3 + bs.length then .refused .noSpace else .done bs

end Sys2Proof.Machine
end

