-- ==== Sys2Proof/Machine/Requests.lean ====
section
/-! DEFINITION. The management unit (R174) and what each request does that no earlier file holds: profiles and ports
(R156, R168, R170, R180), carousel modes (R50, R51), caps and budget (R35, R38), the stop pair (R158), orders (R93 to
R103), holds (R16 to R18), tasks (R88, R89, R123, R124) and STORE-RESET (R179). -/

namespace Sys2Proof.Machine

/-! ## The management unit (R174) -/

/-- The request at the head of the link receive queue, with the reading of its payload, when the unit is free
(R174). -/
def State.headRequest (s : State) : Option (Frame × Option Request) :=
  if s.link.unitFree then
    match s.link.rx with
    | r :: _ => if r.request then some (r.frame, readRequest r.frame) else none
    | [] => none
  else none

/-- The request leaves the receive queue (R174). -/
def State.takeRequest (s : State) : State :=
  { s with link := { s.link with rx := s.link.rx.drop 1 } }

/-- The unit serves a request: its owner carries it out whole, and its RESULT is queued or waits (R174). -/
def State.serve (s : State) (f : Frame) (act : State → State × Reply) : State :=
  let r := act s.takeRequest
  r.1.settle.answer f r.2

/-- A request that is not taken: refused, nothing changed. -/
def State.refuse (s : State) (r : Reason) : State × Reply :=
  (s, .refused r)

/-! ## Profiles and ports -/

/-- LINK-PROFILE (R170). -/
def State.setLinkProfile (s : State) (f : Frame) (station maxPayload enable : Nat) : State × Reply :=
  if station ≤ 254 ∧ 64 ≤ maxPayload ∧ maxPayload ≤ 496 ∧ enable < 2 ^ 18 then
    let p : LinkProfile := { station := byte station, maxPayload, enable := BitVec.ofNat 32 enable, host := f.src }
    ({ s with link := { s.link with profile := some p } }, .done)
  else s.refuse .badValue

/-- The station numbers of the site record, if one is loaded. -/
def State.siteStations (s : State) : List Byte :=
  match s.putAway.site with
  | some x => x.stations
  | none => []

/-- LINE-PROFILE (R156). -/
def State.setLineProfile (s : State) (station : Nat) (window limit : Option Nat) (maxPayload : Nat) (rule : GlobalRule) :
    State × Reply :=
  let w := window.getD 20
  let l := limit.getD 3
  if station ≤ 254 ∧ 5 ≤ w ∧ w ≤ 100 ∧ l ≤ 7 ∧ 64 ≤ maxPayload ∧ maxPayload ≤ 496 ∧
      (s.carouselStations (fun _ => true) ++ s.siteStations).contains (byte station) = false then
    let p : LineProfile := { station := byte station, replyWindow := w, repeatLimit := l, maxPayload, rule }
    ({ s with line := { s.line with profile := some p } }, .done)
  else s.refuse .badValue

/-- PORT-CLEAR: the error set as it stood, then emptied (R180). -/
def State.portClear (s : State) (port : Port) : State × Reply :=
  match port with
  | .link => ({ s with link := { s.link with errors := {} } }, .done [s.link.errors.toByte])
  | .line => ({ s with line := { s.line with errors := {} } }, .done [s.line.errors.toByte])

/-- Step 3 of R168: the transmitter stops, and an abandoned ROUTE is reported dropped. -/
def State.abandonTransmission (s : State) : State :=
  match s.outbox.tx.held with
  | some x => (s.txIdle).reportLost x.frame
  | none => s.txIdle

/-- Step 4 of R168 for one carousel: its slot is emptied, its claim released and its work returned; a carousel still
MOVING goes to UNHOMED as the line hold takes it (R72, R68). -/
def State.emptySlot (s : State) (c : Nat) : State :=
  if (s.slot c).isSome then
    let s1 := s.setSlot c none
    if (s1.car c).state = .moving then s1.takeHold c else s1.releaseClaim c
  else s

/-- Step 5 of R168: every FIFO frame goes, a ROUTE reported dropped. -/
def State.emptyFifo (s : State) : State :=
  s.outbox.fifo.foldl State.reportLost { s with outbox := { s.outbox with fifo := [] } }

/-- Step 6 of R168, with the queue and the reception of step 2. -/
def State.awaitLineProfile (s : State) : State :=
  { s with line := { s.line with rx := [], receiver := .hunting false false, errors := {}, profile := none } }

/-- PORT-RESET LINE (R168). -/
def State.resetLine (s : State) : State :=
  let s1 := (s.setDrive true).abandonTransmission
  let a := s1.arrange ((List.range 8).filter fun c => (s1.slot c).isSome)
  (a.1.foldl State.emptySlot a.2).emptyFifo.awaitLineProfile

/-! ## Carousel modes (R50, R51) -/

/-- The tests of ONLINE in OFFLINE, MANUAL or DRIVE-FAULT (R50). -/
def State.onlineRefusal (s : State) (c : Nat) : Option Reason :=
  let b := s.bal c
  if (s.car c).profile.isNone then some .wrongState
  else if b.enabledGrades.isEmpty then some .wrongState
  else if b.fault || !(b.admits b.worst b.total) then some .balance
  else if s.hasClaim c then some .inUse
  else none

/-- CAROUSEL-MODE ONLINE (R50). -/
def State.online (s : State) (c : Nat) : State × Reply :=
  if 8 ≤ c then s.refuse .badValue
  else
    match (s.car c).state with
    | .offline | .manual | .driveFault =>
      match s.onlineRefusal c with
      | some r => s.refuse r
      | none => ((s.modCar c fun k => { k with state := .unhomed, index := none }).sendStatusQuery c, .done)
    | .unhomed => (s.sendStatusQuery c, .done)
    | .ready | .moving | .presenting => (s, .done)

/-- Any unended task of the pool targets a bay of the carousel (R51). -/
def State.targeted (s : State) (c : Nat) : Bool :=
  s.orderUnit.pool.any fun t =>
    match t with
    | some t => decide (t.bay.carousel = c)
    | none => false

/-- The refusals of OFFLINE and MANUAL (R51). -/
def State.modeInUse (s : State) (c : Nat) : Bool :=
  s.targeted c || decide ((s.car c).inService = some .step) || s.hasClaim c

/-- CAROUSEL-MODE OFFLINE or MANUAL (R51): the sweep ends with cause MODE, the state changes, OFFLINE loses the index,
and the pending mark is cleared. -/
def State.takeOut (s : State) (c : Nat) (state : CarouselState) : State × Reply :=
  if 8 ≤ c then s.refuse .badValue
  else if s.modeInUse c then s.refuse .inUse
  else if (s.car c).state = state then (s, .done)
  else
    ((s.endSweep c .mode).modCar c fun k => { k with
      state := state, index := if state = .manual then k.index else none, faultPending := false }, .done)

/-! ## Caps, budget, stop pair -/

/-- GRADE-CAP (R38). -/
def State.setCap (s : State) (c index : Nat) : State × Reply :=
  if 8 ≤ c ∨ 8 ≤ index then s.refuse .badValue
  else ((s.modBal c fun b => { b with cap := index }).offerPass, .done)

/-- POWER-BUDGET: target, E, then an offer pass (R35); E and C as they stand after the request (log 20). -/
def State.setBudget (s : State) (target : Nat) : State × Reply :=
  let s1 := { s with power := Power.settleBudget { s.power with target := target } }
  let s2 := s1.offerPass.settle
  (s2, .done (beBytes 2 s2.power.budget ++ beBytes 2 s2.power.claimed))

/-- The RESULT of LINE-HOLD and LINE-RELEASE: drive and sense after the request (R158). -/
def State.pairReply (s : State) : Reply :=
  .done [flagByte s.line.drive, flagByte s.lineHeld]

/-- LINE-HOLD (R158). -/
def State.holdLine (s : State) : State × Reply :=
  let s1 := s.setDrive true
  (s1, s1.pairReply)

/-- LINE-RELEASE (R158). -/
def State.releaseLine (s : State) : State × Reply :=
  if s.lineActive then
    let s1 := s.setDrive false
    (s1, s1.pairReply)
  else s.refuse .notProfiled

/-! ## ORDER-PLACE (R93, R94) -/

/-- Tests 2 on a line (Table 5-4). -/
def LineRequest.inRange (l : LineRequest) : Bool :=
  decide (1 ≤ l.quantity ∧ l.quantity ≤ 16) && decide (l.setSize = 1 ∨ l.setSize = 2 ∨ l.setSize = 4) &&
    decide (l.quantity % l.setSize = 0)

/-- The first failing test of Table 5-4. -/
def State.orderRefusal (s : State) (number : Nat) (lines : List LineRequest) : Option Reason :=
  if number = 0 ∨ lines.length < 1 ∨ 8 < lines.length then some .badValue
  else if lines.all LineRequest.inRange = false then some .badValue
  else if 16 < (lines.map LineRequest.quantity).sum then some .badValue
  else if lines.any (fun l => (s.article l.article).isNone) then some .unknownItem
  else if (s.order number).isSome then some .inUse
  else if 64 ≤ s.orderUnit.orders.length then some .noSpace
  else none

/-- The line record of a placed line, with its groups (R91, R94). -/
def LineRequest.record (l : LineRequest) : OrderLine where
  article := l.article
  quantity := l.quantity
  setSize := l.setSize
  groups := (List.range (l.quantity / l.setSize)).map fun n => { number := n, need := l.setSize }

/-- The references of an order's groups by line and group number. -/
def Order.refs (o : Order) : List GroupRef :=
  (List.range o.lines.length).flatMap fun i =>
    match o.lines[i]? with
    | some l => l.groups.map fun g => { order := o.number, line := i, group := g.number }
    | none => []

/-- Step 2 of R94: the lowest FREE lane, or the lane wait list (R95). -/
def State.seatOrder (s : State) (number : Nat) : State :=
  match s.freeLane with
  | some lane => s.assignLane lane number
  | none =>
    { s with orderUnit := { s.orderUnit with laneWait := insertByKey s.laneKey number s.orderUnit.laneWait } }

/-- Step 3 of R94: every group allocated in turn; the groups left short, in order. -/
def allocateEach : List GroupRef → State → List GroupRef → State × List GroupRef
  | [], s, short => (s, short)
  | ref :: rest, s, short =>
    match s.allocateGroup ref with
    | (s1, true) => allocateEach rest s1 short
    | (s1, false) => allocateEach rest s1 (short ++ [ref])

/-- The WAIT policy (R102). -/
def State.waitShort (s : State) (number : Nat) (short : List GroupRef) : State :=
  let s1 := short.foldl State.joinPending s
  if short.isEmpty then s1
  else s1.notify (.orderShort number .wait short.length (((s1.order number).map Order.total).getD 0))

/-- One short group removed from its line under the PARTIAL policy: the line's quantity falls by the set size (R103). -/
def State.dropGroup (s : State) (ref : GroupRef) : State :=
  s.modOrder ref.order fun o => { o with
    lines := o.lines.modify ref.line fun l => { l with
      quantity := l.quantity - l.setSize
      groups := l.groups.filter fun g => g.number != ref.group } }

/-- The removal of an order of total 0: its lane is freed and offered, or it leaves the lane wait list (R103). -/
def State.removeEmptyOrder (s : State) (number : Nat) : State :=
  match (s.order number).bind Order.lane with
  | some lane => ((s.removeOrder number).freeTheLane lane).offerLane lane
  | none =>
    let s1 := s.removeOrder number
    { s1 with orderUnit := { s1.orderUnit with laneWait := s1.orderUnit.laneWait.filter fun n => n != number } }

/-- The lane of an order expects a new total (R103, R129). -/
def State.expectTotal (s : State) (number total : Nat) : State :=
  match (s.order number).bind Order.lane with
  | some lane => s.modLane lane fun l => { l with expected := total }
  | none => s

/-- The PARTIAL policy (R103). -/
def State.partShort (s : State) (number : Nat) (short : List GroupRef) : State :=
  if short.isEmpty then s
  else
    let s1 := short.foldl State.dropGroup s
    let total := ((s1.order number).map Order.total).getD 0
    let s2 := (s1.expectTotal number total).notify (.orderShort number .part short.length total)
    if total = 0 then s2.removeEmptyOrder number else s2

/-- Step 4 of R94. -/
def State.shortGroups (s : State) (number : Nat) (policy : ShortPolicy) (short : List GroupRef) : State :=
  match policy with
  | .wait => s.waitShort number short
  | .part => s.partShort number short

/-- The order record of a placement (R94, step 1). -/
def newOrder (number : Nat) (priority : Priority) (policy : ShortPolicy) (lines : List LineRequest) : Order where
  number := number
  priority := priority
  policy := policy
  lines := lines.map LineRequest.record

/-- The RESULT of an ORDER-PLACE (R94, step 5). -/
def State.placeReply (s : State) (number groups short : Nat) : Reply :=
  let o := s.order number
  .done (beBytes 4 number ++ optBytes 1 (o.bind Order.lane) ++
    [countByte ((o.map Order.total).getD 0), countByte (groups - short), countByte short])

/-- ORDER-PLACE (R93, R94). -/
def State.placeOrder (s : State) (number : Nat) (priority : Priority) (policy : ShortPolicy)
    (lines : List LineRequest) : State × Reply :=
  match s.orderRefusal number lines with
  | some r => s.refuse r
  | none =>
    let o := newOrder number priority policy lines
    let s1 := { s with orderUnit := { s.orderUnit with orders := s.orderUnit.orders ++ [o] } }
    let r := allocateEach o.refs (s1.seatOrder number) []
    let s2 := r.1.shortGroups number policy r.2
    (s2, s2.placeReply number o.refs.length r.2.length)

/-! ## Holds (R16 to R18) -/

/-- A HOLD-RANGE SET over positions: the bays processed before a stop, and the position of the stop (R16). -/
def State.holdPositions (c : Nat) : List Nat → Nat → State → State × Nat × Option Nat
  | [], n, s => (s, n, none)
  | p :: ps, n, s =>
    let id := s.bayAt c p
    if s.inServiceBay c = some id then (s, n, some p)
    else State.holdPositions c ps (n + 1) (s.holdSet id .mgmt)

/-- The positions of a range, clamped to the last position (R16). -/
def State.rangeOf (s : State) (c first count : Nat) : List Nat :=
  (List.range count).filterMap fun k => if first + k < (s.baysOf c).length then some (first + k) else none

/-- A HOLD-RANGE whose operation is neither SET nor CLEAR: WRONG-STATE where the carousel has no profile, else BAD-VALUE
(R16; log 27 for a carousel number above 7). -/
def State.otherRange (s : State) (c : Nat) : State × Reply :=
  if c < 8 ∧ (s.car c).profile.isNone then s.refuse .wrongState else s.refuse .badValue

/-- The refusals of HOLD-RANGE (R16; log 27 for a carousel number above 7). -/
def State.rangeRefusal (s : State) (c first count : Nat) : Option Reason :=
  if 8 ≤ c then some .badValue
  else if (s.car c).profile.isNone then some .wrongState
  else if count < 1 ∨ 240 < count ∨ (s.baysOf c).length ≤ first then some .badValue
  else none

/-- HOLD-RANGE SET (R16). -/
def State.holdRangeSet (s : State) (c first count : Nat) : State × Reply :=
  match s.rangeRefusal c first count with
  | some r => s.refuse r
  | none =>
    match State.holdPositions c (s.rangeOf c first count) 0 s with
    | (s1, n, none) => (s1, .done [countByte n])
    | (s1, n, some p) => (s1, .partly (countByte n :: beBytes 2 p))

/-- HOLD-RANGE CLEAR (R16): MGMT is removed from each bay of the range; where that leaves at least one of them with an empty
hold set, whatever it held before, the retry is asked for, once for the request (Table 5-6). -/
def State.holdRangeClear (s : State) (c first count : Nat) : State × Reply :=
  match s.rangeRefusal c first count with
  | some r => s.refuse r
  | none =>
    let range := s.rangeOf c first count
    let s1 := range.foldl (fun s p => s.holdClear (s.bayAt c p) .mgmt) s
    let free := range.any fun p => !(s1.bay (s1.bayAt c p)).holds.any
    (if free then s1.noteRetry .all else s1, .done [countByte range.length])

/-- BAY-SEIZE (R17). -/
def State.seize (s : State) (id : BayId) : State × Reply :=
  let b := s.bay id
  if s.bayExists id = false then s.refuse .badValue
  else if s.inServiceBay id.carousel = some id then s.refuse .wrongState
  else
    (s.holdSet id .service,
      .done [flagByte b.holds.service, byte b.count, byte (if b.holds.service then 0 else b.reserved)])

/-- BAY-UNSEIZE (R18). -/
def State.unseize (s : State) (id : BayId) : State × Reply :=
  if s.bayExists id = false then s.refuse .badValue
  else (s.holdClear id .service, .done [flagByte (s.bay id).holds.service])

/-! ## Tasks (R88, R89, R123, R124) -/

/-- The task of a TASK-REPRESENT or TASK-ABANDON, or why the request is refused (R88, R89). -/
def State.stalledTask (s : State) (id : Nat) : Except Reason Task :=
  if 128 ≤ id then .error .badValue
  else
    match s.task id with
    | some t => if t.state = .stalled then .ok t else .error .tooLate
    | none => .error .tooLate

/-- TASK-REPRESENT (R88, R123): back to QUEUED at the head of the queue of its level, a service point. -/
def State.represent (s : State) (id : Nat) : State × Reply :=
  match s.stalledTask id with
  | .error r => s.refuse r
  | .ok t => (((s.detach id t).joinHead id .queued).notePoint t.bay.carousel, .done)

/-- TASK-ABANDON (R89, R124): the task leaves the parked set and ends, its remainder settled. -/
def State.abandon (s : State) (id : Nat) : State × Reply :=
  match s.stalledTask id with
  | .error r => s.refuse r
  | .ok t => ((s.detach id t).endTask id, .done)

/-! ## STORE-RESET (R179) -/

/-- A bay at STORE-RESET: reserved and incoming 0 (R21). -/
def Bay.storeReset (b : Bay) : Bay :=
  { b with reserved := 0, incoming := 0 }.tidy

/-- The state of a carousel at STORE-RESET (R71). -/
def Carousel.stateAfterReset (k : Carousel) : CarouselState :=
  match k.state with
  | .moving => .unhomed
  | .presenting => if k.faultPending then .driveFault else .ready
  | x => x

/-- A carousel record at STORE-RESET (R71, Table 3-7). -/
def Carousel.storeReset (k : Carousel) : Carousel :=
  { k with
    state := k.stateAfterReset
    index := if k.stateAfterReset = .unhomed then none else k.index
    faultPending := false
    queue3 := [], queue2 := [], queue1 := [], queue0 := [], parked := []
    inService := none, sweep := none, move := none, moveTimer := none, presentationTimer := none }

/-- The balance unit's power side at STORE-RESET: claims released, E the target, the wait list empty (R46). -/
def Power.storeReset (p : Power) : Power :=
  Power.settleBudget { p with claims := [], waitList := [] }

/-- A sweep record at STORE-RESET (R155). -/
def SweepRecord.storeReset (r : SweepRecord) : SweepRecord :=
  { r with stopMark := false, readAttempt := 0, readTimer := none }

/-- Every block's part of STORE-RESET but the stop pair's (Table 10-5). -/
def State.clearStore (s : State) : State :=
  { s with
    bays := s.bays.map fun l => l.map Bay.storeReset
    balances := s.balances.map fun b => { b with deviation := 0 }
    power := s.power.storeReset
    carousels := s.carousels.map Carousel.storeReset
    outbox := { s.outbox with slots := s.outbox.slots.map unsentRemoved }
    orderUnit := {}
    consolidation := { s.consolidation with
      lanes := s.consolidation.lanes.map fun _ => {}
      transit := [], reserved := 0 }
    audit := { s.audit with sweeps := s.audit.sweeps.map SweepRecord.storeReset }
    agenda := {} }

/-- STORE-RESET (R179). -/
def State.storeReset (s : State) : State × Reply :=
  (s.clearStore.setDrive true, .done)

end Sys2Proof.Machine
end

