-- ==== Sys2Proof/Machine/Events.lean ====
section
/-! DEFINITION. The meanings of the events: resets and reception, the stop pair, the taking of a queue's head, the
transmitters and the timers. An event that does not arise in a state (no frame at the head, the timer stopped) leaves
the state as it is (log 1). -/

namespace Sys2Proof.Machine

/-! ## Resets and reception -/

/-- POWER_ON_RESET (R20, R46, R47, R74, R110, R139, R155, R169, R170): every block in its power-on state, the straps
sampled. The waiting commands, the use of free values and another party's hold are not the part's to reset. -/
def execPowerOnReset (station : Byte) (linkRate lineRate : BitVec 2) (s : State) : Host.Outcome State Fault Refusal :=
  let fresh := State.powerOn station linkRate lineRate
  .next { fresh with
    line := { fresh.line with outsideHold := s.line.outsideHold }
    choices := s.choices
    pending := s.pending }

/-- LINK_BREAK (R173): the first report of a break resets the link port; a break that lasts longer is still one
event. -/
def execLinkBreak (s : State) : Host.Outcome State Fault Refusal :=
  if s.link.inBreak then .next s
  else
    let s1 := s.resetLink
    .next { s1 with link := { s1.link with receiver := .hunting false false, inBreak := true } }

/-- LINK_FRAME_RECEIVED (R171, R183): the bytes in turn; during a break no frame is taken (R173). -/
def execLinkFrameReceived (bytes : List Byte) (s : State) : Host.Outcome State Fault Refusal :=
  .next (if s.link.inBreak then s else bytes.foldl State.linkByte s)

/-- LINE_FRAME_RECEIVED (R157, R183): the bytes in turn. -/
def execLineFrameReceived (bytes : List Byte) (s : State) : Host.Outcome State Fault Refusal :=
  .next (bytes.foldl State.lineByte s)

/-- An idle gap at the link's receiver (R183). -/
def State.linkGap (s : State) : State :=
  let r := receiveGap s.link.receiver
  let s1 := { s with link := { s.link with receiver := r.receiver } }
  match r.error with
  | some e => s1.linkError e
  | none => s1

/-- An idle gap at the line's receiver (R183). -/
def State.lineGap (s : State) : State :=
  let r := receiveGap s.line.receiver
  let s1 := { s with line := { s.line with receiver := r.receiver } }
  match r.error with
  | some e => s1.lineError e
  | none => s1

/-- RECEPTION_BREAK_OFF (R183). -/
def execReceptionBreakOff (port : Port) (s : State) : Host.Outcome State Fault Refusal :=
  match port with
  | .link => .next s.linkGap
  | .line => .next s.lineGap

/-- LINK_PAIR_RETURNS_TO_IDLE (R173). -/
def execLinkPairReturnsToIdle (s : State) : Host.Outcome State Fault Refusal :=
  .next { s with link := { s.link with inBreak := false } }

/-! ## The stop pair -/

/-- LINE_HOLD_SENSED (R159, R68): another party takes the hold; effects follow only where the sense changes (log 26). -/
def execLineHoldSensed (s : State) : Host.Outcome State Fault Refusal :=
  .next (s.setOutsideHold true).settle

/-- LINE_HOLD_CLEARED (R159, R69): no other party holds the pair any longer (log 26). -/
def execLineHoldCleared (s : State) : Host.Outcome State Fault Refusal :=
  .next (s.setOutsideHold false).settle

/-! ## The heads of queues -/

/-- CLASSIFY_FRAME (R160 to R162, R165). -/
def execClassifyFrame (s : State) : Host.Outcome State Fault Refusal :=
  .next s.classifyHead.settle

/-- INFEED_READ (R75). -/
def execInfeedRead (s : State) : Host.Outcome State Fault Refusal :=
  .next s.infeedRead.settle

/-- PASSTHROUGH (R163, R171). -/
def execPassthrough (s : State) : Host.Outcome State Fault Refusal :=
  .next s.passHead.settle

/-! ## The transmitters -/

/-- TRANSMIT_START (R165, R166). -/
def execTransmitStart (s : State) : Host.Outcome State Fault Refusal :=
  .next s.startTransmission

/-- TRANSMIT_END (R165). -/
def execTransmitEnd (s : State) : Host.Outcome State Fault Refusal :=
  .next s.endTransmission

/-- REPLY_WINDOW_EXPIRY (R165, R62, R132). -/
def execReplyWindowExpiry (s : State) : Host.Outcome State Fault Refusal :=
  .next s.replyExpired.settle

/-- LINK_FRAME_SENT (R172, R180). -/
def execLinkFrameSent (s : State) : Host.Outcome State Fault Refusal :=
  .next s.linkSent

/-! ## The timers; a number beyond the part's units is a fault (log 25) -/

/-- MOVE_TIMER_EXPIRY (R64). -/
def execMoveTimerExpiry (carousel : Nat) (s : State) : Host.Outcome State Fault Refusal :=
  if carousel < 8 then .next (s.moveTimeout carousel).settle else .fault .noSuchUnit

/-- PRESENTATION_TIMER_EXPIRY (R66, R87, R121). -/
def execPresentationTimerExpiry (carousel : Nat) (s : State) : Host.Outcome State Fault Refusal :=
  if carousel < 8 then .next (s.presentationTimeout carousel).settle else .fault .noSuchUnit

/-- AGE_TIMER_EXPIRY (R56). -/
def execAgeTimerExpiry (task : Nat) (s : State) : Host.Outcome State Fault Refusal :=
  if task < 128 then .next (s.ageOut task).settle else .fault .noSuchUnit

/-- DUTY_TIMER_EXPIRY (R40, R41). -/
def execDutyTimerExpiry (carousel : Nat) (s : State) : Host.Outcome State Fault Refusal :=
  if carousel < 8 then .next (s.leakDuty carousel).settle else .fault .noSuchUnit

/-- READ_TIMER_EXPIRY (R143, R146). -/
def execReadTimerExpiry (carousel : Nat) (s : State) : Host.Outcome State Fault Refusal :=
  if carousel < 8 then .next (s.readTimeout carousel).settle else .fault .noSuchUnit

/-- TRANSIT_DEADLINE_EXPIRY (R136). -/
def execTransitDeadlineExpiry (place : Nat) (s : State) : Host.Outcome State Fault Refusal :=
  if place < 64 then .next (s.deadline place).settle else .fault .noSuchUnit

end Sys2Proof.Machine
end

