-- ==== Sys2Proof/Machine/Commands.lean ====
section
/-! DEFINITION. The meanings of the management requests. Each takes the request of its kind at the head of the link
receive queue when the management unit is free (R174); where that head is no such request, the state is left as it is
(log 1, log 2). -/

namespace Sys2Proof.Machine

/-- The management unit takes the request at the head, if `act` says what is done for it (R174). -/
def State.onRequest (s : State) (act : Frame → Request → Option (State → State × Reply)) : State :=
  match s.headRequest with
  | some (f, some r) =>
    match act f r with
    | some a => s.serve f a
    | none => s
  | _ => s

/-- What a row does with a request that carries a code outside a named list: a request of the row's own kind is refused
with BAD-VALUE (log 9). -/
def refuseListed (kind own : Byte) : Option (State → State × Reply) :=
  if kind = own then some (fun s => s.refuse .badValue) else none

/-- LINK_PROFILE (R170). -/
def execLinkProfile (s : State) : Host.Outcome State Fault Refusal :=
  .next (s.onRequest fun f r =>
    match r with
    | .linkProfile station max enable => some (fun s => s.setLinkProfile f station max enable)
    | _ => none)

/-- LINE_PROFILE (R156). -/
def execLineProfile (s : State) : Host.Outcome State Fault Refusal :=
  .next (s.onRequest fun _ r =>
    match r with
    | .lineProfile station window limit max rule => some (fun s => s.setLineProfile station window limit max rule)
    | .outsideList kind => refuseListed kind kindLineProfile
    | _ => none)

/-- PORT_CLEAR (R180). -/
def execPortClear (s : State) : Host.Outcome State Fault Refusal :=
  .next (s.onRequest fun _ r =>
    match r with
    | .portClear port => some (fun s => s.portClear port)
    | .outsideList kind => refuseListed kind kindPortClear
    | _ => none)

/-- STORE_RESET (R179, R21, R46, R71, R110, R139, R155, R169). -/
def execStoreReset (s : State) : Host.Outcome State Fault Refusal :=
  .next (s.onRequest fun _ r =>
    match r with
    | .storeReset => some (State.storeReset)
    | _ => none)

/-- TABLE_LOAD_ARTICLE (R3 to R5, R176). -/
def execTableLoadArticle (s : State) : Host.Outcome State Fault Refusal :=
  .next (s.onRequest fun _ r =>
    match r with
    | .tableLoad .article start entries => some (fun s => s.tableLoad State.loadArticle start entries)
    | _ => none)

/-- TABLE_LOAD_CAROUSEL (R1, R22, R48, R176). -/
def execTableLoadCarousel (s : State) : Host.Outcome State Fault Refusal :=
  .next (s.onRequest fun _ r =>
    match r with
    | .tableLoad .carousel start entries => some (fun s => s.tableLoad State.loadCarousel start entries)
    | _ => none)

/-- TABLE_LOAD_GRADE (R31, R32, R176). -/
def execTableLoadGrade (s : State) : Host.Outcome State Fault Refusal :=
  .next (s.onRequest fun _ r =>
    match r with
    | .tableLoad .grade start entries => some (fun s => s.tableLoadGrades start entries)
    | _ => none)

/-- TABLE_LOAD_STOCK (R19, R176). -/
def execTableLoadStock (s : State) : Host.Outcome State Fault Refusal :=
  .next (s.onRequest fun _ r =>
    match r with
    | .tableLoad .stock start entries => some (fun s => s.tableLoad State.loadStock start entries)
    | _ => none)

/-- TABLE_LOAD_FILTER (R160, R176). -/
def execTableLoadFilter (s : State) : Host.Outcome State Fault Refusal :=
  .next (s.onRequest fun _ r =>
    match r with
    | .tableLoad .filter start entries => some (fun s => s.tableLoad State.loadFilter start entries)
    | _ => none)

/-- TABLE_LOAD_SITE (R73, R176). -/
def execTableLoadSite (s : State) : Host.Outcome State Fault Refusal :=
  .next (s.onRequest fun _ r =>
    match r with
    | .tableLoad .site start entries => some (fun s => s.tableLoad State.loadSite start entries)
    | _ => none)

/-- TABLE_FETCH (R177). -/
def execTableFetch (s : State) : Host.Outcome State Fault Refusal :=
  .next (s.onRequest fun _ r =>
    match r with
    | .tableFetch table start wanted => some (fun s => (s, s.tableFetch table start wanted))
    | _ => none)

/-- STATUS_FETCH (R178). -/
def execStatusFetch (s : State) : Host.Outcome State Fault Refusal :=
  .next (s.onRequest fun _ r =>
    match r with
    | .statusFetch which => some (fun s => (s, s.statusFetch which))
    | .outsideList kind => refuseListed kind kindStatusFetch
    | _ => none)

/-- CAROUSEL_MODE_ONLINE (R50). -/
def execCarouselModeOnline (s : State) : Host.Outcome State Fault Refusal :=
  .next (s.onRequest fun _ r =>
    match r with
    | .carouselMode c .online => some (fun s => s.online c)
    | .outsideList kind => refuseListed kind kindCarouselMode
    | _ => none)

/-- CAROUSEL_MODE_OFFLINE (R51). -/
def execCarouselModeOffline (s : State) : Host.Outcome State Fault Refusal :=
  .next (s.onRequest fun _ r =>
    match r with
    | .carouselMode c .offline => some (fun s => s.takeOut c .offline)
    | .outsideList kind => refuseListed kind kindCarouselMode
    | _ => none)

/-- CAROUSEL_MODE_MANUAL (R51). -/
def execCarouselModeManual (s : State) : Host.Outcome State Fault Refusal :=
  .next (s.onRequest fun _ r =>
    match r with
    | .carouselMode c .manual => some (fun s => s.takeOut c .manual)
    | .outsideList kind => refuseListed kind kindCarouselMode
    | _ => none)

/-- GRADE_CAP (R38). -/
def execGradeCap (s : State) : Host.Outcome State Fault Refusal :=
  .next (s.onRequest fun _ r =>
    match r with
    | .gradeCap c index => some (fun s => s.setCap c index)
    | _ => none)

/-- POWER_BUDGET (R35). -/
def execPowerBudget (s : State) : Host.Outcome State Fault Refusal :=
  .next (s.onRequest fun _ r =>
    match r with
    | .powerBudget target => some (fun s => s.setBudget target)
    | _ => none)

/-- LINE_HOLD (R158). -/
def execLineHold (s : State) : Host.Outcome State Fault Refusal :=
  .next (s.onRequest fun _ r =>
    match r with
    | .lineHold => some (State.holdLine)
    | _ => none)

/-- LINE_RELEASE (R158). -/
def execLineRelease (s : State) : Host.Outcome State Fault Refusal :=
  .next (s.onRequest fun _ r =>
    match r with
    | .lineRelease => some (State.releaseLine)
    | _ => none)

/-- ORDER_PLACE (R93, R94). -/
def execOrderPlace (s : State) : Host.Outcome State Fault Refusal :=
  .next (s.onRequest fun _ r =>
    match r with
    | .orderPlace number priority policy lines => some (fun s => s.placeOrder number priority policy lines)
    | .outsideList kind => refuseListed kind kindOrderPlace
    | _ => none)

/-- ORDER_WITHDRAW (R107). -/
def execOrderWithdraw (s : State) : Host.Outcome State Fault Refusal :=
  .next (s.onRequest fun _ r =>
    match r with
    | .orderWithdraw number => some (fun s => s.orderWithdraw number)
    | _ => none)

/-- LANE_RELEASE (R138). -/
def execLaneRelease (s : State) : Host.Outcome State Fault Refusal :=
  .next (s.onRequest fun _ r =>
    match r with
    | .laneRelease lane => some (fun s => s.laneRelease lane)
    | _ => none)

/-- HOLD_RANGE_SET (R16). -/
def execHoldRangeSet (s : State) : Host.Outcome State Fault Refusal :=
  .next (s.onRequest fun _ r =>
    match r with
    | .holdRange c first n true => some (fun s => s.holdRangeSet c first n)
    | .holdRangeOther c => some (fun s => s.otherRange c)
    | _ => none)

/-- HOLD_RANGE_CLEAR (R16). -/
def execHoldRangeClear (s : State) : Host.Outcome State Fault Refusal :=
  .next (s.onRequest fun _ r =>
    match r with
    | .holdRange c first n false => some (fun s => s.holdRangeClear c first n)
    | .holdRangeOther c => some (fun s => s.otherRange c)
    | _ => none)

/-- BAY_SEIZE (R17). -/
def execBaySeize (s : State) : Host.Outcome State Fault Refusal :=
  .next (s.onRequest fun _ r =>
    match r with
    | .baySeize bay => some (fun s => s.seize bay)
    | _ => none)

/-- BAY_UNSEIZE (R18). -/
def execBayUnseize (s : State) : Host.Outcome State Fault Refusal :=
  .next (s.onRequest fun _ r =>
    match r with
    | .bayUnseize bay => some (fun s => s.unseize bay)
    | _ => none)

/-- AUDIT_START (R141). -/
def execAuditStart (s : State) : Host.Outcome State Fault Refusal :=
  .next (s.onRequest fun _ r =>
    match r with
    | .auditStart c first last policy => some (fun s => s.auditStart c first last policy)
    | .outsideList kind => refuseListed kind kindAuditStart
    | _ => none)

/-- AUDIT_STOP (R148). -/
def execAuditStop (s : State) : Host.Outcome State Fault Refusal :=
  .next (s.onRequest fun _ r =>
    match r with
    | .auditStop c => some (fun s => s.auditStop c)
    | _ => none)

/-- DISCREPANCY_RESOLVE_ACCEPT_FOUND (R153, R154). -/
def execDiscrepancyResolveAcceptFound (s : State) : Host.Outcome State Fault Refusal :=
  .next (s.onRequest fun _ r =>
    match r with
    | .resolve number .acceptFound => some (fun s => s.resolve number .acceptFound)
    | .outsideList kind => refuseListed kind kindDiscrepancyResolve
    | _ => none)

/-- DISCREPANCY_RESOLVE_KEEP_RECORDED (R153, R154). -/
def execDiscrepancyResolveKeepRecorded (s : State) : Host.Outcome State Fault Refusal :=
  .next (s.onRequest fun _ r =>
    match r with
    | .resolve number .keepRecorded => some (fun s => s.resolve number .keepRecorded)
    | .outsideList kind => refuseListed kind kindDiscrepancyResolve
    | _ => none)

/-- DISCREPANCY_RESOLVE_SET (R153, R154). -/
def execDiscrepancyResolveSet (s : State) : Host.Outcome State Fault Refusal :=
  .next (s.onRequest fun _ r =>
    match r with
    | .resolve number (.set article batch count) => some (fun s => s.resolve number (.set article batch count))
    | .outsideList kind => refuseListed kind kindDiscrepancyResolve
    | _ => none)

/-- TASK_REPRESENT (R88, R123). -/
def execTaskRepresent (s : State) : Host.Outcome State Fault Refusal :=
  .next (s.onRequest fun _ r =>
    match r with
    | .taskRepresent task => some (fun s => s.represent task)
    | _ => none)

/-- TASK_ABANDON (R89, R124). -/
def execTaskAbandon (s : State) : Host.Outcome State Fault Refusal :=
  .next (s.onRequest fun _ r =>
    match r with
    | .taskAbandon task => some (fun s => s.abandon task)
    | _ => none)

/-- A PORT-RESET of a port outside LINK and LINE is refused with BAD-VALUE (R180). -/
def State.otherPort (s : State) (f : Frame) (kind : Byte) : State :=
  if kind = kindPortReset then s.takeRequest.answer f (.refused .badValue) else s

/-- PORT_RESET_LINE (R168): "is answered DONE and then acts", so its RESULT is queued first (log 35). -/
def execPortResetLine (s : State) : Host.Outcome State Fault Refusal :=
  match s.headRequest with
  | some (f, some (.portReset .line)) => .next (s.takeRequest.answer f .done).resetLine.settle
  | some (f, some (.outsideList kind)) => .next (s.otherPort f kind)
  | _ => .next s

/-- PORT_RESET_LINK (R180): its RESULT is queued with the mark that its sending resets the link port. -/
def execPortResetLink (s : State) : Host.Outcome State Fault Refusal :=
  match s.headRequest with
  | some (f, some (.portReset .link)) => .next (s.takeRequest.answer f .done true)
  | some (f, some (.outsideList kind)) => .next (s.otherPort f kind)
  | _ => .next s

/-- BAD_FORMAT_REQUEST (R174): a kind that is no request, or a payload that cannot be read as its kind's. -/
def execBadFormatRequest (s : State) : Host.Outcome State Fault Refusal :=
  match s.headRequest with
  | some (f, none) => .next (s.takeRequest.answer f (.refused .badFormat))
  | _ => .next s

end Sys2Proof.Machine
end

