-- ==== Sys2Proof/Machine/Dispatch.lean ====
section
/-! DEFINITION. One arm per command, each one call of its meaning. -/

namespace Sys2Proof.Machine

def exec (i : Instr) (s : State) : Host.Outcome State Fault Refusal :=
  match i with
  | .powerOnReset station linkRate lineRate => Sys2Proof.Machine.execPowerOnReset station linkRate lineRate s
  | .linkBreak => Sys2Proof.Machine.execLinkBreak s
  | .linkFrameReceived bytes => Sys2Proof.Machine.execLinkFrameReceived bytes s
  | .lineFrameReceived bytes => Sys2Proof.Machine.execLineFrameReceived bytes s
  | .receptionBreakOff port => Sys2Proof.Machine.execReceptionBreakOff port s
  | .lineHoldSensed => Sys2Proof.Machine.execLineHoldSensed s
  | .lineHoldCleared => Sys2Proof.Machine.execLineHoldCleared s
  | .classifyFrame => Sys2Proof.Machine.execClassifyFrame s
  | .infeedRead => Sys2Proof.Machine.execInfeedRead s
  | .passthrough => Sys2Proof.Machine.execPassthrough s
  | .transmitStart => Sys2Proof.Machine.execTransmitStart s
  | .transmitEnd => Sys2Proof.Machine.execTransmitEnd s
  | .replyWindowExpiry => Sys2Proof.Machine.execReplyWindowExpiry s
  | .linkFrameSent => Sys2Proof.Machine.execLinkFrameSent s
  | .moveTimerExpiry carousel => Sys2Proof.Machine.execMoveTimerExpiry carousel s
  | .presentationTimerExpiry carousel => Sys2Proof.Machine.execPresentationTimerExpiry carousel s
  | .ageTimerExpiry task => Sys2Proof.Machine.execAgeTimerExpiry task s
  | .dutyTimerExpiry carousel => Sys2Proof.Machine.execDutyTimerExpiry carousel s
  | .readTimerExpiry carousel => Sys2Proof.Machine.execReadTimerExpiry carousel s
  | .transitDeadlineExpiry place => Sys2Proof.Machine.execTransitDeadlineExpiry place s
  | .linkProfile => Sys2Proof.Machine.execLinkProfile s
  | .lineProfile => Sys2Proof.Machine.execLineProfile s
  | .portResetLine => Sys2Proof.Machine.execPortResetLine s
  | .portResetLink => Sys2Proof.Machine.execPortResetLink s
  | .portClear => Sys2Proof.Machine.execPortClear s
  | .storeReset => Sys2Proof.Machine.execStoreReset s
  | .tableLoadArticle => Sys2Proof.Machine.execTableLoadArticle s
  | .tableLoadCarousel => Sys2Proof.Machine.execTableLoadCarousel s
  | .tableLoadGrade => Sys2Proof.Machine.execTableLoadGrade s
  | .tableLoadStock => Sys2Proof.Machine.execTableLoadStock s
  | .tableLoadFilter => Sys2Proof.Machine.execTableLoadFilter s
  | .tableLoadSite => Sys2Proof.Machine.execTableLoadSite s
  | .tableFetch => Sys2Proof.Machine.execTableFetch s
  | .statusFetch => Sys2Proof.Machine.execStatusFetch s
  | .carouselModeOnline => Sys2Proof.Machine.execCarouselModeOnline s
  | .carouselModeOffline => Sys2Proof.Machine.execCarouselModeOffline s
  | .carouselModeManual => Sys2Proof.Machine.execCarouselModeManual s
  | .gradeCap => Sys2Proof.Machine.execGradeCap s
  | .powerBudget => Sys2Proof.Machine.execPowerBudget s
  | .lineHold => Sys2Proof.Machine.execLineHold s
  | .lineRelease => Sys2Proof.Machine.execLineRelease s
  | .orderPlace => Sys2Proof.Machine.execOrderPlace s
  | .orderWithdraw => Sys2Proof.Machine.execOrderWithdraw s
  | .laneRelease => Sys2Proof.Machine.execLaneRelease s
  | .holdRangeSet => Sys2Proof.Machine.execHoldRangeSet s
  | .holdRangeClear => Sys2Proof.Machine.execHoldRangeClear s
  | .baySeize => Sys2Proof.Machine.execBaySeize s
  | .bayUnseize => Sys2Proof.Machine.execBayUnseize s
  | .auditStart => Sys2Proof.Machine.execAuditStart s
  | .auditStop => Sys2Proof.Machine.execAuditStop s
  | .discrepancyResolveAcceptFound => Sys2Proof.Machine.execDiscrepancyResolveAcceptFound s
  | .discrepancyResolveKeepRecorded => Sys2Proof.Machine.execDiscrepancyResolveKeepRecorded s
  | .discrepancyResolveSet => Sys2Proof.Machine.execDiscrepancyResolveSet s
  | .taskRepresent => Sys2Proof.Machine.execTaskRepresent s
  | .taskAbandon => Sys2Proof.Machine.execTaskAbandon s
  | .badFormatRequest => Sys2Proof.Machine.execBadFormatRequest s
  | .linkPairReturnsToIdle => Sys2Proof.Machine.execLinkPairReturnsToIdle s

end Sys2Proof.Machine
end

