-- ==== Sys2Proof/Machine/Step.lean ====
section
/-! DEFINITION. One step: the command at the front of the queue, or one idle millisecond (log 3, log 34). -/

namespace Sys2Proof.Machine

/-- With no command waiting the part idles, and a millisecond passes (DESIGN CHOICE, log 3). -/
def State.idle (s : State) : State :=
  { s with now := s.now + 1 }

/-- The state with its command queue replaced. -/
def State.withPending (s : State) (q : List Instr) : State :=
  { s with pending := q }

/-- One step takes the command at the front of the queue and runs it on the queue's rest. -/
def step (s : State) : Host.Outcome State Fault Refusal :=
  match s.pending with
  | [] => .next s.idle
  | c :: rest => exec c (s.withPending rest)

/-- The command that a word spells, put at the front of the queue; no row of the table gives bits, so no word spells
one (log 34). -/
def State.withFetchWord (s : State) (nbits w : Nat) : State :=
  match decodeTableWord nbits w with
  | some c => s.withPending (c :: s.pending)
  | none => s

end Sys2Proof.Machine
end

