-- ==== Sys2Proof/Safety.lean ====
section
/-! DEFINITION. The terms the statements are written in: what a request at the head is, the invariants of the part, and
the frame of the follow-ups that a step takes before it ends (log 8). -/

namespace Sys2Proof.Machine

/-! ## Premises -/

/-- The management unit is free and the request `r`, in frame `f`, is at the head of the link receive queue (R174). -/
def State.asked (s : State) (f : Frame) (r : Request) : Prop :=
  s.headRequest = some (f, some r)

/-- No follow-up is left over from an earlier step (log 8). -/
def State.quiet (s : State) : Prop :=
  s.agenda = {} ∧ s.orderUnit.retry = .none

/-! ## Invariants -/

/-- E is at least the target and at least C (R35). -/
def Power.lawful (p : Power) : Prop :=
  p.target ≤ p.budget ∧ p.claimed ≤ p.budget

/-- Every table, queue and list is within the room the spec gives it. -/
structure State.bounded (s : State) : Prop where
  /-- R171. -/
  linkRx : s.link.rx.length ≤ 8
  /-- R172. -/
  linkTx : s.link.tx.length ≤ 16
  /-- R157. -/
  lineRx : s.line.rx.length ≤ 16
  /-- R164. -/
  fifo : s.outbox.fifo.length ≤ 32
  /-- R164. -/
  slots : s.outbox.slots.length = 8
  /-- R160. -/
  filter : s.filter.length = 32
  /-- R3. -/
  articles : s.articles.length ≤ 512
  /-- R90. -/
  orders : s.orderUnit.orders.length ≤ 64
  /-- R97. -/
  pool : s.orderUnit.pool.length = 128
  /-- R128. -/
  lanes : s.consolidation.lanes.length ≤ 16
  /-- R150. -/
  discrepancies : s.audit.list.length ≤ 32
  /-- Eight carousels, each with its bays, its balance and its sweep record (00 Scope). -/
  eight : s.carousels.length = 8 ∧ s.bays.length = 8 ∧ s.balances.length = 8 ∧ s.audit.sweeps.length = 8

/-- The keyed lists: articles ascend by code, one entry for each (R3); order numbers differ (R93); the numbers of the
discrepancy list are 0 to 255 and differ (R150). -/
structure State.keyed (s : State) : Prop where
  articles : s.articles.Pairwise fun a b => a.code < b.code
  orders : (s.orderUnit.orders.map Order.number).Nodup
  discrepancies : (s.audit.list.map Discrepancy.number).Nodup
  numbers : ∀ e ∈ s.audit.list, e.number < 256

/-- A bay record under the laws of the device: an article and batch are recorded exactly when count + incoming > 0, and
reserved is at most count (R6); a held bay has reserved 0 (R14). -/
structure Bay.lawful (b : Bay) : Prop where
  tyre : b.tyre.isSome = true ↔ 0 < b.count + b.incoming
  reserved : b.reserved ≤ b.count
  held : b.holds.any = true → b.reserved = 0

/-- The transit list's law: entries in use and reserved never exceed 64, and each entry has a place 0-63 of its own
(R130). -/
structure Consolidation.lawful (x : Consolidation) : Prop where
  room : x.transit.length + x.reserved ≤ 64
  places : (x.transit.map TransitEntry.place).Nodup
  range : ∀ e ∈ x.transit, e.place < 64

/-- The power wait list holds at most one entry for each carousel, so at most eight (R36). -/
structure Power.queued (p : Power) : Prop where
  once : (p.waitList.map WaitEntry.carousel).Nodup
  range : ∀ e ∈ p.waitList, e.carousel < 8

/-- The laws of the device that each claim, grant and offer keeps by itself. -/
structure State.laws (s : State) : Prop where
  /-- R6, R14. -/
  bays : ∀ l ∈ s.bays, ∀ b ∈ l, b.lawful
  /-- R130. -/
  transit : s.consolidation.lawful
  /-- R36. -/
  waits : s.power.queued
  /-- While the stop pair is held no unsent MOVE stands in a slot (R159). -/
  unsent : s.lineHeld = true → ∀ c m, s.slot c = some m → m.chosen = true

/-! ## What a balance holds -/

/-- The half-loop sums, T and W are those of the loads, on a loop of an even number of carriers (R22, R23). -/
structure Balance.agrees (b : Balance) : Prop where
  even : b.loads.length % 2 = 0
  carriers : 0 < b.loads.length
  halfSums : b.halfSums = halfSumsOf b.loads
  total : b.total = b.loads.sum
  worst : b.worst = worstOf (halfSumsOf b.loads) b.loads.sum

/-! ## The frame of the follow-ups -/

/-- A bay record but for what is promised out of it. -/
def Bay.shelf (b : Bay) : Bay :=
  { b with reserved := 0 }

/-- A group but for its need, its window and its tasks. -/
def Group.fixed (g : Group) : Group :=
  { g with need := 0, window := none, tasks := [] }

/-- An order but for what allocation changes: its groups' needs, windows and tasks, and the tasks it holds. -/
def Order.fixed (o : Order) : Order :=
  { o with
    held := []
    lines := o.lines.map fun l => { l with groups := l.groups.map Group.fixed } }

/-- A carousel record but for its level queues. -/
def Carousel.unqueued (k : Carousel) : Carousel :=
  { k with queue3 := [], queue2 := [], queue1 := [], queue0 := [] }

/-- What a service point never changes in a carousel record: profile, pending mark, index, parked set, save area and
move timer. -/
def Carousel.fixed (k : Carousel) : Carousel :=
  { k.unqueued with
    state := .offline, inService := none, moveNumber := 0, move := none, presentationTimer := none }

/-- A sweep record but for its read attempt and read timer. -/
def SweepRecord.fixed (r : SweepRecord) : SweepRecord :=
  { r with readAttempt := 0, readTimer := none }

/-- Everything that service points and retry passes leave as it was; the carousels that `still` names change in nothing
but their level queues. `s` is the part before them, `t` after. -/
structure State.Keeps (still : Nat → Prop) (s t : State) : Prop where
  now : t.now = s.now
  link : t.link = s.link
  line : t.line = { s.line with errors := t.line.errors }
  errors : t.line.errors = s.line.errors ∨ t.line.errors = s.line.errors.add .full
  filter : t.filter = s.filter
  articles : t.articles = s.articles
  /-- No bay changes but in what is reserved. -/
  bays : t.bays.map (List.map Bay.shelf) = s.bays.map (List.map Bay.shelf)
  balances : t.balances = s.balances
  /-- Target and E stand; claims may only be added. -/
  power : t.power.target = s.power.target ∧ t.power.budget = s.power.budget ∧ s.power.claims <+: t.power.claims
  carousels : t.carousels.map Carousel.fixed = s.carousels.map Carousel.fixed
  busy : ∀ c, still c → (t.car c).unqueued = (s.car c).unqueued
  putAway : t.putAway = s.putAway
  orders : t.orderUnit.orders.map Order.fixed = s.orderUnit.orders.map Order.fixed
  laneWait : t.orderUnit.laneWait = s.orderUnit.laneWait
  /-- A task keeps all but its state and its transit entries. -/
  tasks : ∀ id k, s.task id = some k → ∃ st n, t.task id = some { k with state := st, transit := n }
  lanes : t.consolidation.lanes = s.consolidation.lanes
  transit : t.consolidation.transit = s.consolidation.transit
  audit : { t.audit with sweeps := [] } = { s.audit with sweeps := [] }
  sweeps : t.audit.sweeps.map SweepRecord.fixed = s.audit.sweeps.map SweepRecord.fixed
  pending : t.pending = s.pending

/-- The frame of the follow-ups of a step (retry pass, service points, freed entries; R57, R106, R130): only a carousel in
READY with nothing in service is served. -/
def State.Follows (s t : State) : Prop :=
  s.Keeps (fun c => s.idleReady c = false) t

/-- A carousel has an entry on the power wait list (R36). -/
def State.waits (s : State) (c : Nat) : Bool :=
  s.power.waitList.any fun e => e.carousel == c

/-- The frame of an offer pass with the follow-ups of its step (R36, R57): beside the carousels that are served, only one
with an entry on the power wait list may start its move. -/
def State.Serves (s t : State) : Prop :=
  s.Keeps (fun c => s.idleReady c = false ∧ s.waits c = false) t

/-! ## The stop pair -/

/-- What the sensed hold does to one carousel (R68). `k` is its record before, `t` the part after. -/
def State.heldCar (t : State) (c : Nat) (k : Carousel) : Prop :=
  match k.state with
  | .moving =>
    (t.car c).state = .unhomed ∧ (t.car c).index = none ∧ (t.car c).move = none ∧ (t.car c).moveTimer = none ∧
      (t.car c).inService = none ∧ t.hasClaim c = false
  | .driveFault => (t.car c).unqueued = k.unqueued ∧ t.hasClaim c = false
  | .ready => k.inService ≠ none → (t.car c).unqueued = k.unqueued
  | .offline | .unhomed | .presenting | .manual => (t.car c).unqueued = k.unqueued

/-- What the stop pair never touches. -/
structure State.OffThePair (s t : State) : Prop where
  now : t.now = s.now
  filter : t.filter = s.filter
  articles : t.articles = s.articles
  balances : t.balances = s.balances
  counts : ∀ id, (t.bay id).count = (s.bay id).count ∧ (t.bay id).holds = (s.bay id).holds
  putAway : t.putAway = s.putAway
  lanes : t.consolidation.lanes = s.consolidation.lanes
  transit : t.consolidation.transit = s.consolidation.transit
  target : t.power.target = s.power.target
  discrepancies : t.audit.list = s.audit.list
  line : t.line.profile = s.line.profile ∧ t.line.rx = s.line.rx
  pending : t.pending = s.pending

/-! ## The line FIFO -/

/-- A frame `x` meets a FIFO that holds `l`, and `m` is the FIFO after (R164): with room it joins the tail; an INDICATE that
finds 32 frames takes the place of the INDICATE for its station nearest the tail; any other frame is dropped. -/
structure FifoTakes (l : List OutFrame) (x : OutFrame) (m : List OutFrame) (dropped : Bool) : Prop where
  room : l.length < 32 → m = l ++ [x] ∧ dropped = false
  replaced : 32 ≤ l.length → x.kind = kindIndicate → ∀ a g b, l = a ++ g :: b → g.kind = kindIndicate → g.dest = x.dest →
    (∀ y ∈ b, ¬(y.kind = kindIndicate ∧ y.dest = x.dest)) → m = a ++ x :: b ∧ dropped = false
  full : 32 ≤ l.length → (x.kind ≠ kindIndicate ∨ ∀ y ∈ l, ¬(y.kind = kindIndicate ∧ y.dest = x.dest)) →
    m = l ∧ dropped = true

/-- The part after a frame that names no transit entry is built (R164): the tag counter advances, the FIFO takes the frame,
and FULL joins the line errors where it is dropped. -/
def State.Builds (s : State) (dest kind : Byte) (payload : List Byte) (t : State) : Prop :=
  ∃ m dropped, FifoTakes s.outbox.fifo { dest, kind, tag := s.outbox.tagCounter, payload } m dropped ∧
    t = { s with
      outbox := { s.outbox with tagCounter := s.outbox.tagCounter + 1, fifo := m }
      line := { s.line with errors := { s.line.errors with full := s.line.errors.full || dropped } } }

/-! ## The offer of a lane -/

/-- Lane `n`, just FREE in `z`, is offered to the lane wait list (R96): an empty list leaves it FREE; else the head of the
list leaves it, the lane is FILLING for that order with its total expected, the order PICKING, and the tasks it holds join
the tails of their level queues in the order they were made, each a service point (R54). -/
def State.Offers (z : State) (n : Nat) (x : State) : Prop :=
  (z.orderUnit.laneWait = [] → x = z) ∧
  ∀ number rest o, z.orderUnit.laneWait = number :: rest → z.order number = some o →
    x = o.held.foldl (fun v id => match v.task id with
        | some k => (v.modCar k.bay.carousel fun q => q.modQueue k.level (· ++ [id])).servicePoint k.bay.carousel
        | none => v)
      { z with
        orderUnit := { z.orderUnit with
          laneWait := rest
          orders := z.orderUnit.orders.map fun p =>
            if p.number = number then { p with lane := some n, state := .picking, held := [] } else p }
        consolidation := { z.consolidation with
          lanes := z.consolidation.lanes.modify n fun _ =>
            { state := .filling, order := some number, expected := (o.lines.map OrderLine.quantity).sum } } }

end Sys2Proof.Machine
end

