-- ==== Sys2Proof/Certificates/Slice0/Obligations.lean ====
section
/-! DEFINITION. The statements for the provers. `u.answer f r` is the part after the RESULT `r` of the request in frame
`f` has entered the transmit queue or waits for it (statement BadFormatAnswered spells it out); `u.Follows v` is the
frame of the follow-ups of a step (log 8), `u.Serves v` that of an offer pass and the follow-ups. -/

open Sys2Proof Sys2Proof.Machine

/-! ## The step, reset and the invariants -/

/-- The command at the front of the queue is run on the queue's rest (the model's queue, log 34); with no command
waiting a millisecond passes (the model's choice, log 3). -/
def Obligations.StepTakesFront : Prop :=
  ∀ s : State,
    (∀ c q, step { s with pending := c :: q } = exec c { s with pending := q }) ∧
    step { s with pending := [] } = .next { s with now := s.now + 1, pending := [] }

/-- POWER_ON_RESET: what every block holds after it. That the other party's hold of the stop pair stands through it is log
4's choice, and that the wait list's sequence counter starts at 0 is log 5's. -/
def Obligations.PowerOnResetClears : Prop :=
  ∀ station linkRate lineRate (s : State), ∃ t, exec (.powerOnReset station linkRate lineRate) s = .next t ∧
    t.articles = [] ∧
    (∀ c < 8, (t.car c).state = .offline ∧ (t.car c).profile = none ∧ (t.car c).index = none ∧
      (t.car c).walkOrder = [] ∧ (t.car c).queue0 = [] ∧ (t.car c).parked = [] ∧ (t.car c).inService = none ∧
      (t.car c).sweep = none ∧ (t.car c).moveNumber = 0 ∧ (t.car c).faultPending = false ∧ (t.car c).moveTimer = none ∧
      (t.car c).presentationTimer = none ∧ t.baysOf c = [] ∧ (t.bal c).loads = [] ∧ (t.bal c).cap = 0 ∧
      (t.bal c).duty = 0 ∧ (t.bal c).cooling = false ∧ (t.bal c).fault = false ∧ (t.bal c).deviation = 0 ∧
      (t.bal c).enabledGrades = [] ∧ t.slot c = none) ∧
    t.power = { target := 0, budget := 0, claims := [], waitList := [], nextSequence := 0 } ∧
    t.link.profile = none ∧ t.link.strap = station ∧ t.link.errors = {} ∧ t.link.rx = [] ∧ t.link.tx = [] ∧
    t.link.waiting = none ∧ t.line.profile = none ∧ t.line.errors = {} ∧ t.line.rx = [] ∧ t.line.drive = true ∧
    t.lineHeld = true ∧ t.line.outsideHold = s.line.outsideHold ∧
    t.filter.length = 32 ∧ (∀ e ∈ t.filter, e.valid = false) ∧
    t.outbox.fifo = [] ∧ t.outbox.tx = .idle ∧ t.outbox.tagCounter = 0 ∧
    t.putAway.site = none ∧ t.orderUnit.orders = [] ∧ t.freeTasks.length = 128 ∧ t.orderUnit.pending = [] ∧
    t.orderUnit.laneWait = [] ∧ t.consolidation.lanes = [] ∧ t.consolidation.transit = [] ∧
    t.consolidation.reserved = 0 ∧ t.audit.list = [] ∧ t.audit.sweepCounter = 0 ∧ t.audit.overflow = 0 ∧
    t.audit.listFull = false ∧ t.pending = s.pending

/-- The power law (R35), the laws of the device, the rooms and keys of the tables, and the absence of a follow-up hold at
reset. -/
def Obligations.ResetMeetsInvariants : Prop :=
  State.reset.power.lawful ∧ State.reset.laws ∧ State.reset.bounded ∧ State.reset.keyed ∧ State.reset.quiet

/-- R35's law over every step: E stays at or above the target and at or above C. -/
def Obligations.PowerLawKept : Prop :=
  ∀ s t : State, s.power.lawful → step s = .next t → t.power.lawful

/-- Every step keeps within their rooms the link and line queues, the FIFO and the slots, the filter, the article and order
tables, the task pool, the lanes and the discrepancy list, and keeps eight of each carousel record; and it keeps articles,
order numbers and entry numbers keyed. The transit list and the power wait list are StoreLawsKept's; the pending list, the
lane wait list and the level queues are not covered. -/
def Obligations.TablesKept : Prop :=
  ∀ s t : State, s.bounded → s.keyed → step s = .next t → t.bounded ∧ t.keyed

/-- Every step keeps the laws of the device: of each bay record, an article and batch are recorded exactly when count +
incoming > 0, reserved is at most count (R6), and a held bay has reserved 0 (R14); the transit entries in use with those
reserved never exceed 64, each at a place of its own from 0 to 63 (R130); the power wait list holds each carousel at most
once, so at most eight entries (R36); no unsent MOVE stands in a slot while the stop pair is held (R159). -/
def Obligations.StoreLawsKept : Prop :=
  ∀ s t : State, s.bounded → s.laws → step s = .next t → t.laws

/-- A step takes every follow-up it raises before it ends, and this is what the taking does: where entries were freed, a
service point of each of carousels 0 to 7 with nothing in service (R130); then one retry pass for all that was noted, which
notes no further one (R106); then the service points noted (R57). A pass walks the pending list from its head: each group
still on it whose article the pass covers is attempted whole, and the others keep their place. The order of these three is
the model's choice (log 8); that of several carousels is left free (log 6). -/
def Obligations.FollowUpsTaken : Prop :=
  (∀ s t : State, s.quiet → step s = .next t → t.quiet) ∧
  ∀ s : State,
    let serves := fun (v : State) (l : List Nat) (t : State) => ∃ (order : List Nat) (choices : Nat),
      order.Perm (l.filter fun c => decide ((v.car c).state = .ready ∧ (v.car c).inService = none)) ∧
      t = order.foldl State.servicePoint { v with choices }
    let covers := fun (r : Retry) (article : Nat) => r = .all ∨ ∃ l, r = .articles l ∧ article ∈ l
    let passes := fun v u : State => ∃ walk : State → GroupRef → State,
      (∀ x g, g ∈ x.orderUnit.pending → covers v.orderUnit.retry (x.groupArticle g) → walk x g = (x.allocateGroup g).1) ∧
      (∀ x g, g ∉ x.orderUnit.pending ∨ ¬covers v.orderUnit.retry (x.groupArticle g) → walk x g = x) ∧
      u = v.orderUnit.pending.foldl walk { v with orderUnit := { v.orderUnit with retry := .none } }
    s.settle.quiet ∧
    ∃ a b : State,
      (s.agenda.freed = true → serves { s with agenda := { s.agenda with freed := false } } (List.range 8) a) ∧
      (s.agenda.freed = false → a = s) ∧
      (a.orderUnit.retry = .none → b = a) ∧ (a.orderUnit.retry ≠ .none → passes a b) ∧ b.orderUnit.retry = .none ∧
      serves { b with agenda := { b.agenda with points := [] } } b.agenda.points s.settle

/-! ## Reception -/

/-- A frame received without a gap is disposed of by the first test that holds, of R171 on the link and of R157 on the line;
`high` and `low` are the two check bytes as received. An idle gap breaks a frame off with FRAMING and ends the disregarding
of an oversize frame without an error. That own requests are those to the own station is the model's reading (log 22). So is
that a gap does not end a run of bytes outside a frame: a hunting port stays as it is, and a C3h that waits for its 3Ch joins
the run, with FRAMING if the run has none yet (log 24). A run of bytes in which no C3h 3Ch begins adds FRAMING once; a C3h
not followed by 3Ch is such a byte (log 24). -/
def Obligations.ReceptionDisposes : Prop :=
  (∀ (s : State) (f : Frame) (high low : Byte) (run : Bool),
    s.link.inBreak = false → s.link.receiver = .hunting run false → f.payload.length < 65536 →
    let u := { s with link := { s.link with receiver := .hunting false false } }
    exec (.linkFrameReceived ([0xC3, 0x3C] ++ f.body ++ [high, low])) s = .next (
      if s.linkMax < f.payload.length then
        { u with link := { u.link with errors := { s.link.errors with oversize := true } } }
      else if [high, low] ≠ f.check then
        { u with link := { u.link with errors := { s.link.errors with check := true } } }
      else if s.link.profile = none ∧ ¬(f.kind = kindLinkProfile ∧ f.dest = s.link.strap) then
        { u with link := { u.link with errors := { s.link.errors with sequence := true } } }
      else if 8 ≤ s.link.rx.length then
        { u with link := { u.link with errors := { s.link.errors with overrun := true } } }
      else { u with link := { u.link with
        rx := s.link.rx ++ [{ frame := f, request := decide (f.dest = s.ownLink) }] } })) ∧
  (∀ (s : State) (f : Frame) (high low : Byte) (run : Bool),
    s.line.receiver = .hunting run false → f.payload.length < 65536 →
    let u := { s with line := { s.line with receiver := .hunting false false } }
    exec (.lineFrameReceived ([0xC3, 0x3C] ++ f.body ++ [high, low])) s = .next (
      if s.lineMax < f.payload.length then
        { u with line := { u.line with errors := { s.line.errors with oversize := true } } }
      else if [high, low] ≠ f.check then
        { u with line := { u.line with errors := { s.line.errors with check := true } } }
      else if s.line.profile = none then
        { u with line := { u.line with errors := { s.line.errors with sequence := true } } }
      else if 16 ≤ s.line.rx.length then
        { u with line := { u.line with errors := { s.line.errors with overrun := true } } }
      else { u with line := { u.line with rx := s.line.rx ++ [f] } })) ∧
  (∀ (s : State) (bytes : List Byte) (run : Bool), bytes ≠ [] →
    (∀ (i : Nat), bytes[i]? = some 0xC3 → ∃ b, bytes[i + 1]? = some b ∧ b ≠ 0x3C) →
    (s.link.inBreak = false → s.link.receiver = .hunting run false →
      exec (.linkFrameReceived bytes) s = .next { s with link := { s.link with
        receiver := .hunting true false, errors := { s.link.errors with framing := s.link.errors.framing || !run } } }) ∧
    (s.line.receiver = .hunting run false →
      exec (.lineFrameReceived bytes) s = .next { s with line := { s.line with
        receiver := .hunting true false, errors := { s.line.errors with framing := s.line.errors.framing || !run } } })) ∧
  ∀ (s : State) (got : List Byte) (left : Nat) (run : Bool),
    (s.link.receiver = .taking got → exec (.receptionBreakOff .link) s = .next { s with link := { s.link with
      receiver := .hunting false false, errors := { s.link.errors with framing := true } } }) ∧
    (s.link.receiver = .disregarding left → exec (.receptionBreakOff .link) s = .next { s with link := { s.link with
      receiver := .hunting false false } }) ∧
    (s.link.receiver = .hunting run false → exec (.receptionBreakOff .link) s = .next s) ∧
    (s.link.receiver = .hunting run true → exec (.receptionBreakOff .link) s = .next { s with link := { s.link with
      receiver := .hunting true false, errors := { s.link.errors with framing := s.link.errors.framing || !run } } }) ∧
    (s.line.receiver = .taking got → exec (.receptionBreakOff .line) s = .next { s with line := { s.line with
      receiver := .hunting false false, errors := { s.line.errors with framing := true } } }) ∧
    (s.line.receiver = .disregarding left → exec (.receptionBreakOff .line) s = .next { s with line := { s.line with
      receiver := .hunting false false } }) ∧
    (s.line.receiver = .hunting run false → exec (.receptionBreakOff .line) s = .next s) ∧
    (s.line.receiver = .hunting run true → exec (.receptionBreakOff .line) s = .next { s with line := { s.line with
      receiver := .hunting true false, errors := { s.line.errors with framing := s.line.errors.framing || !run } } })

/-- R173: a break on the link receive pair. It changes the link port alone; a longer break is one event; no frame is taken
until the pair returns to idle; notices and forwarded frames raised in AWAIT-PROFILE are dropped without error. -/
def Obligations.LinkBreakResetsLink : Prop :=
  ∀ s : State, s.link.inBreak = false →
    let t : State := { s with link := { s.link with
      rx := [], tx := [], waiting := none, errors := {}, profile := none, receiver := .hunting false false
      inBreak := true } }
    exec .linkBreak s = .next t ∧ exec .linkBreak t = .next t ∧
    (∀ bytes, exec (.linkFrameReceived bytes) t = .next t) ∧
    exec .linkPairReturnsToIdle t = .next { t with link := { t.link with inBreak := false } } ∧
    t.link.unitFree = true ∧ t.ownLink = s.link.strap ∧ t.linkMax = 496 ∧
    (∀ f, t.forward f = t) ∧ ∀ n, t.notify n = t

/-- The head frame of the link transmit queue has been sent: its place is free and a waiting RESULT takes it; the RESULT of
a PORT-RESET LINK resets the link port as steps 2 to 4 of a break do, its receiver kept (the model's reading, log 32). On an
empty queue nothing happens (the model's choice, log 1). How the queue fills: a notice whose kind is in the enable set is
built, to the host of the link profile with tag 0, and a forwarded frame keeps header and payload; each joins the tail, or is
dropped: with OVERSIZE where its payload exceeds the maximum, else with LINK-FULL where the queue holds 16 or a RESULT waits
(R172, R181; that OVERSIZE comes first is log 42). A notice outside the set, and both in AWAIT-PROFILE, leave no trace. The
bytes of a notice's fields are log 12's. -/
def Obligations.LinkFrameSent : Prop :=
  (∀ (s : State) (n : Notice) (f : Frame),
    let error := fun e : ErrorSet => { s with link := { s.link with errors := e } }
    let joined := fun (p : LinkProfile) (x : Frame) =>
      if p.maxPayload < x.payload.length then error { s.link.errors with oversize := true }
      else if 16 ≤ s.link.tx.length ∨ s.link.waiting ≠ none then error { s.link.errors with full := true }
      else { s with link := { s.link with tx := s.link.tx ++ [{ frame := x }] } }
    (s.link.profile = none → s.notify n = s ∧ s.forward f = s) ∧
    ∀ p, s.link.profile = some p →
      (p.enable.getLsbD (noticeCode n) = false → s.notify n = s) ∧
      (p.enable.getLsbD (noticeCode n) = true → s.notify n = joined p {
        dest := p.host, src := p.station, kind := 0x31, tag := 0, payload := byte (noticeCode n) :: noticeFields n }) ∧
      s.forward f = joined p f) ∧
  ∀ (s : State) (out : Outgoing) (rest : List Outgoing),
    (s.link.tx = [] → exec .linkFrameSent s = .next s) ∧
    (s.bounded → s.link.tx = out :: rest → out.resets = false →
      exec .linkFrameSent s = .next { s with link := { s.link with
        tx := rest ++ s.link.waiting.toList, waiting := none } }) ∧
    (s.link.tx = out :: rest → out.resets = true →
      exec .linkFrameSent s = .next { s with link := { s.link with
        rx := [], tx := [], waiting := none, errors := {}, profile := none } })

/-! ## Passthrough and the outbox -/

/-- A frame for another station, at the head of the link receive queue, is tested in the order of R163. One that passes
joins the tail of a FIFO with room; a full FIFO takes an INDICATE in the place of the one for the same station nearest
the tail; any other frame is dropped with OUTBOX-FULL (R164). -/
def Obligations.PassthroughTests : Prop :=
  ∀ (s : State) (r : Received) (rest : List Received), s.quiet → s.link.rx = r :: rest → r.request = false →
    let f := r.frame
    let u := { s with link := { s.link with rx := rest } }
    let new : OutFrame := { dest := f.dest, kind := f.kind, tag := f.tag, payload := f.payload, origin := .link f.src }
    (s.line.profile = none →
      exec .passthrough s = .next (u.notify (.passthroughRefused .notProfiled f))) ∧
    ∀ p, s.line.profile = some p →
      (f.dest = p.station → exec .passthrough s = .next (u.notify (.passthroughRefused .ownStation f))) ∧
      (f.dest ≠ p.station →
        let driven := (f.kind = kindMove ∨ f.kind = kindStop) ∧ (f.dest = 255 ∨
          ∃ c < 8, ∃ q, (s.car c).profile = some q ∧ q.drive = f.dest ∧ (s.car c).state ≠ .manual)
        (driven → exec .passthrough s = .next (u.notify (.passthroughRefused .drive f))) ∧
        (¬driven → p.maxPayload < f.payload.length →
          exec .passthrough s = .next (u.notify (.passthroughRefused .oversize f))) ∧
        (¬driven → f.payload.length ≤ p.maxPayload →
          (s.outbox.fifo.length < 32 →
            exec .passthrough s = .next { u with outbox := { u.outbox with fifo := s.outbox.fifo ++ [new] } }) ∧
          (32 ≤ s.outbox.fifo.length → f.kind = kindIndicate → ∀ a g b, s.outbox.fifo = a ++ g :: b →
            g.kind = kindIndicate → g.dest = f.dest → (∀ x ∈ b, ¬(x.kind = kindIndicate ∧ x.dest = f.dest)) →
            exec .passthrough s = .next { u with outbox := { u.outbox with fifo := a ++ new :: b } }) ∧
          (32 ≤ s.outbox.fifo.length →
            (f.kind ≠ kindIndicate ∨ ∀ x ∈ s.outbox.fifo, ¬(x.kind = kindIndicate ∧ x.dest = f.dest)) →
            exec .passthrough s = .next (({ u with line := { u.line with
              errors := { s.line.errors with full := true } } }).notify (.passthroughRefused .outboxFull f)))))

/-- TRANSMIT_START on an idle transmitter of an ACTIVE port: the unsent slot MOVE of the highest level, the lowest carousel
among equals; with none, the FIFO head. TRANSMIT_END: a frame to 255 completes, any other starts its acceptance wait. -/
def Obligations.TransmitterStartsAndEnds : Prop :=
  ∀ (s : State) (p : LineProfile), s.bounded → s.line.profile = some p →
    (∀ c m, c < 8 → s.outbox.tx = .idle → s.slot c = some m → m.chosen = false →
      (∀ d n, d < 8 → s.slot d = some n → n.chosen = false → n.level < m.level ∨ (n.level = m.level ∧ c ≤ d)) →
      exec .transmitStart s = .next { s with outbox := { s.outbox with
        slots := s.outbox.slots.set c (some { m with chosen := true })
        tx := .sending { frame := m.frame, src := s.lineSource m.frame, source := .slot c } } }) ∧
    (∀ g rest, s.outbox.tx = .idle → (∀ d n, d < 8 → s.slot d = some n → n.chosen = true) →
      s.outbox.fifo = g :: rest →
      exec .transmitStart s = .next { s with outbox := { s.outbox with
        fifo := rest, tx := .sending { frame := g, src := s.lineSource g, source := .fifo } } }) ∧
    (∀ x, s.outbox.tx = .sending x → x.frame.dest = 255 →
      exec .transmitEnd s = .next { s with outbox := { s.outbox with tx := .idle } }) ∧
    ∀ x, s.outbox.tx = .sending x → x.frame.dest ≠ 255 →
      exec .transmitEnd s = .next { s with outbox := { s.outbox with
        tx := .awaiting x (s.now + p.replyWindow) p.repeatLimit } }

/-- REPLY_WINDOW_EXPIRY: below the limit the frame is sent again with its tag; at the limit the transmitter is idle, a frame
of the FIFO is reported by its kind (UNACCEPTED, or a ROUTE's entry UNROUTED), and the slot MOVE of a MOVING carousel
leaves its slot and takes its carousel to DRIVE-FAULT with its index unknown and its claim released; where the move has
ended already, its sequencer ignores the exhaustion. A repeat takes its source anew, as the first transmission does (R166;
the model's reading, log 23). -/
def Obligations.ReplyWindowExpires : Prop :=
  ∀ (s : State) (x : Sending) (expiry limit : Nat), s.quiet → s.bounded → s.outbox.tx = .awaiting x expiry limit →
    let u := { s with outbox := { s.outbox with tx := .idle } }
    (x.repeats < limit → exec .replyWindowExpiry s = .next { s with outbox := { s.outbox with
      tx := .sending { x with repeats := x.repeats + 1, src := s.lineSource x.frame } } }) ∧
    (limit ≤ x.repeats → x.source = .displaced → exec .replyWindowExpiry s = .next u) ∧
    (limit ≤ x.repeats → x.source = .fifo → (x.frame.origin ≠ .part ∨ x.frame.kind ≠ kindRoute) →
      exec .replyWindowExpiry s = .next (u.notify
        (.unaccepted x.frame.dest x.frame.kind x.frame.tag x.frame.origin (x.repeats + 1)))) ∧
    (∀ n, limit ≤ x.repeats → x.source = .fifo → x.frame.origin = .part → x.frame.kind = kindRoute →
      x.frame.entry = some n →
      exec .replyWindowExpiry s = .next { u with consolidation := { u.consolidation with
        transit := s.consolidation.transit.map fun e => if e.serial = n then { e with unrouted := true } else e } }) ∧
    (limit ≤ x.repeats → x.source = .fifo → x.frame.origin = .part → x.frame.kind = kindRoute →
      x.frame.entry = none → exec .replyWindowExpiry s = .next u) ∧
    (∀ c < 8, limit ≤ x.repeats → x.source = .slot c → (s.car c).state ≠ .moving →
      exec .replyWindowExpiry s = .next { u with outbox := { u.outbox with slots := s.outbox.slots.set c none } }) ∧
    ∀ c < 8, limit ≤ x.repeats → x.source = .slot c → (s.car c).state = .moving → s.waits c = false →
      ∃ t, exec .replyWindowExpiry s = .next t ∧ t.slot c = none ∧ (t.car c).state = .driveFault ∧
        (t.car c).index = none ∧ (t.car c).move = none ∧ (t.car c).moveTimer = none ∧ (t.car c).inService = none ∧
        t.hasClaim c = false ∧ t.articles = s.articles ∧ t.balances = s.balances ∧ t.pending = s.pending

/-- An ACCEPT at the head of the line receive queue. It matches by source station and tag and ends the wait: a slot MOVE of a
MOVING carousel leaves its slot and starts the move timer for the fixed allowance and that of each carrier, and that of a
move which has ended already leaves its slot and is ignored by its sequencer; a passthrough frame's ACCEPT is forwarded;
other frames make no report. One that does not match is discarded. -/
def Obligations.AcceptEndsWait : Prop :=
  ∀ (s : State) (f : Frame) (rest : List Frame), s.quiet → s.bounded → s.line.rx = f :: rest → f.kind = kindAccept →
    let u := { s with line := { s.line with rx := rest } }
    let v := { u with outbox := { u.outbox with tx := .idle } }
    (∀ x, s.outbox.tx.held = some x → ¬(x.frame.dest = f.src ∧ x.frame.tag = f.tag) →
      exec .classifyFrame s = .next u) ∧
    (s.outbox.tx = .idle → exec .classifyFrame s = .next u) ∧
    ∀ x, s.outbox.tx.held = some x → x.frame.dest = f.src → x.frame.tag = f.tag →
      (x.source = .displaced → exec .classifyFrame s = .next v) ∧
      (x.source = .fifo → x.frame.origin = .part → exec .classifyFrame s = .next v) ∧
      (∀ src, x.source = .fifo → x.frame.origin = .link src → exec .classifyFrame s = .next (v.forward f)) ∧
      (∀ c < 8, x.source = .slot c → (s.car c).state ≠ .moving →
        exec .classifyFrame s = .next { v with outbox := { v.outbox with slots := s.outbox.slots.set c none } }) ∧
      ∀ c p m, x.source = .slot c → c < 8 → (s.car c).profile = some p → (s.car c).move = some m →
        (s.car c).state = .moving →
        exec .classifyFrame s = .next { v with
          outbox := { v.outbox with slots := s.outbox.slots.set c none }
          carousels := s.carousels.set c { s.car c with
            moveTimer := some (s.now + (p.moveFixed + p.movePerCarrier * m.distance)) } }

/-! ## The stop pair -/

/-- The pair becomes sensed held, by another party or by LINE-HOLD: LINE-HELD with the part's drive, every carousel takes
the hold (R68), and the RESULT of LINE-HOLD shows drive and sense. The pair becomes sensed clear, by the other party or by
LINE-RELEASE: LINE-CLEAR, and each UNHOMED carousel queries its drive and stays UNHOMED (R69); LINE-RELEASE needs a profile.
A pair whose sense does not change changes in its holder alone (the model's reading, log 26; an event against the present
sense is log 1's choice). The bytes of drive and sense in both RESULTs are log 11's choice. -/
def Obligations.StopPair : Prop :=
  let cleared : State → State → Prop := fun s t =>
    (∀ c < 8, (s.car c).state = .unhomed → s.waits c = false → (t.car c).unqueued = (s.car c).unqueued ∧
      ∀ p, (s.car c).profile = some p → ∃ g ∈ t.outbox.fifo, g.kind = kindStatusQuery ∧ g.dest = p.drive ∧ g.payload = []) ∧
    (∀ c < 8, s.idleReady c = false → s.waits c = false → (t.car c).unqueued = (s.car c).unqueued) ∧ s.OffThePair t
  (∀ s : State, s.bounded → s.lineHeld = false → ∃ t, exec .lineHoldSensed s = .next t ∧
    t.line.outsideHold = true ∧ t.line.drive = s.line.drive ∧ (∀ c < 8, t.heldCar c (s.car c)) ∧ s.OffThePair t ∧
    (s.notify (.lineHeld s.line.drive)).link.tx <+: t.link.tx) ∧
  (∀ s : State, s.quiet → s.lineHeld = true →
    exec .lineHoldSensed s = .next { s with line := { s.line with outsideHold := true } }) ∧
  (∀ (s : State) (f : Frame), s.bounded → s.asked f .lineHold → s.lineHeld = false →
    ∃ v, exec .lineHold s = .next (v.answer f (.done [1, 1])) ∧
      v.line.drive = true ∧ v.line.outsideHold = s.line.outsideHold ∧ (∀ c < 8, v.heldCar c (s.car c)) ∧
      s.OffThePair v ∧ (s.takeRequest.notify (.lineHeld true)).link.tx <+: v.link.tx) ∧
  (∀ (s : State) (f : Frame), s.quiet → s.asked f .lineHold → s.lineHeld = true →
    exec .lineHold s =
      .next ({ s.takeRequest with line := { s.line with drive := true } }.answer f (.done [1, 1]))) ∧
  (∀ s : State, s.bounded → s.outbox.fifo.length ≤ 24 → s.line.outsideHold = true → s.line.drive = false →
    ∃ t, exec .lineHoldCleared s = .next t ∧ t.line.outsideHold = false ∧ t.line.drive = false ∧ cleared s t ∧
      (s.notify (.lineClear false)).link.tx <+: t.link.tx) ∧
  (∀ s : State, s.quiet → (s.line.outsideHold = false ∨ s.line.drive = true) →
    exec .lineHoldCleared s = .next { s with line := { s.line with outsideHold := false } }) ∧
  ∀ (s : State) (f : Frame), s.asked f .lineRelease →
    (s.quiet → s.line.profile = none → exec .lineRelease s = .next (s.takeRequest.answer f (.refused .notProfiled))) ∧
    (s.quiet → s.line.profile ≠ none → (s.line.drive = false ∨ s.line.outsideHold = true) →
      exec .lineRelease s = .next ({ s.takeRequest with line := { s.line with drive := false } }.answer f
        (.done [0, flagByte s.line.outsideHold]))) ∧
    (s.bounded → s.outbox.fifo.length ≤ 24 → s.line.profile ≠ none → s.line.drive = true → s.line.outsideHold = false →
      ∃ v, exec .lineRelease s = .next (v.answer f (.done [0, 0])) ∧ v.line.drive = false ∧
        v.line.outsideHold = false ∧ cleared s v ∧ (s.takeRequest.notify (.lineClear false)).link.tx <+: v.link.tx)

/-! ## Floor frames -/

/-- A frame other than ACCEPT at the head of the line receive queue: the first valid element that matches by source and kind
decides its action, with URGENT-FRAME where it is urgent; with no match the global rule decides, FORWARD until a profile
is loaded. A delivered frame that no block takes is forwarded, once. Who takes it (R162, Table 9-3): the carousel roles are
looked up first, drive, mouth reader and mouth keypad, then the infeed reader, then the lane readers; the drive's ARRIVED and
DRIVE-STATE, the keypad's KEY and the TAG-READs of the readers reach the operation named here, an infeed read put-away's list
with the time of its delivery (log 15); any other kind, a payload against its layout, the diverter and a station without a
role reach no block. That a COPY delivers before it forwards, and that URGENT-FRAME comes after the action, is the model's
choice (log 17), and so is that the follow-ups of a delivered frame come last (log 8). -/
def Obligations.FirstMatchDecides : Prop :=
  (∀ (s : State) (f : Frame),
    let holds := fun c : Nat => c < 8 ∧ ∃ p, (s.car c).profile = some p ∧
      (f.src = p.drive ∨ f.src = p.reader ∨ f.src = p.keypad)
    let reads := fun take : List Tally → State =>
      s.deliver f = if f.kind = kindTagRead then (readTagRead f.payload).map take else none
    (∀ c p, c < 8 → (s.car c).profile = some p → (∀ d < c, ¬holds d) →
      (f.src = p.drive →
        (f.kind = kindArrived → s.deliver f = (readArrived f.payload).map fun a => s.arrived c a.1 a.2.1 a.2.2) ∧
        (f.kind = kindDriveState → s.deliver f = (readDriveState f.payload).map fun d => s.driveState c d.1 d.2) ∧
        (f.kind ≠ kindArrived → f.kind ≠ kindDriveState → s.deliver f = none)) ∧
      (f.src ≠ p.drive → f.src = p.reader → reads (s.mouthRead c)) ∧
      (f.src ≠ p.drive → f.src ≠ p.reader → f.src = p.keypad →
        s.deliver f = if f.kind = kindKey then (readKey f.payload).map (s.mouthKey c) else none)) ∧
    ((∀ c, ¬holds c) →
      (s.putAway.site = none → s.deliver f = none) ∧
      ∀ x, s.putAway.site = some x →
        (f.src = x.infeed → reads fun tallies =>
          { s with putAway := { s.putAway with reads := s.putAway.reads ++ [{ tallies, time := s.now }] } }) ∧
        (∀ n, f.src ≠ x.infeed → x.laneReaders[n]? = some f.src → (∀ m < n, x.laneReaders[m]? ≠ some f.src) →
          reads (s.arrival n)) ∧
        (f.src ≠ x.infeed → f.src ∉ x.laneReaders → s.deliver f = none))) ∧
  ∀ (s : State) (f : Frame) (rest : List Frame), s.quiet → s.line.rx = f :: rest → f.kind ≠ kindAccept →
    let u := { s with line := { s.line with rx := rest } }
    let fits : FilterElement → Prop := fun e => e.valid = true ∧ (e.kind = none ∨ e.kind = some f.kind) ∧
      match e.matchType with
      | .exact => f.src = e.a
      | .range => e.a ≤ f.src ∧ f.src ≤ e.b
      | .mask => ∀ i < 8, e.b.getLsbD i = true → f.src.getLsbD i = e.a.getLsbD i
    (∀ (i : Nat) (e : FilterElement), s.filter[i]? = some e → fits e → (∀ j < i, ∀ d, s.filter[j]? = some d → ¬fits d) →
      let urgent : State → State := fun t => if e.urgent then t.notify (.urgentFrame i f) else t
      (e.action = .discard → exec .classifyFrame s = .next (urgent u)) ∧
      (e.action = .forward → exec .classifyFrame s = .next (urgent (u.forward f))) ∧
      (e.action = .deliver ∨ e.action = .copy → u.deliver f = none →
        exec .classifyFrame s = .next (urgent (u.forward f))) ∧
      ∀ v, u.deliver f = some v →
        (e.action = .deliver → exec .classifyFrame s = .next (urgent v).settle) ∧
        (e.action = .copy → exec .classifyFrame s = .next (urgent (v.forward f)).settle)) ∧
    ((∀ e ∈ s.filter, ¬fits e) →
      exec .classifyFrame s = .next (if s.line.profile.map LineProfile.rule = some .discard then u else u.forward f))

/-- A DRIVE-STATE in UNHOMED: STOPPED at a known index homes the carousel, which is READY there; at an unknown index nothing
changes; TURNING sends a STOP, lost with FULL where the FIFO is full (R164), its tag used up even then (the model's choice,
log 41); FAULT takes the carousel to DRIVE-FAULT. -/
def Obligations.HomingReports : Prop :=
  ∀ (s : State) (c reported : Nat) (p : Profile), s.bounded → c < 8 → (s.car c).state = .unhomed →
    (s.car c).profile = some p →
    (reported < p.carriers →
      let t := s.driveState c .stopped reported
      t.car c = { s.car c with state := .ready, index := some reported } ∧ t.balances = s.balances ∧ t.bays = s.bays ∧
        t.outbox = s.outbox ∧ t.link = s.link ∧ t.power = s.power ∧ ∀ d, d ≠ c → t.car d = s.car d) ∧
    (p.carriers ≤ reported → s.driveState c .stopped reported = s) ∧
    s.Builds p.drive kindStop [] (s.driveState c .turning reported) ∧
    let t := s.driveState c .fault reported
    t.car c = { s.car c with state := .driveFault } ∧
      t.link = (s.notify (.carouselFault c .drive (s.car c).index)).link ∧ t.outbox = s.outbox ∧ t.power = s.power

/-- An ARRIVED of the move in flight, at its target: the claim is released, H rises by distance × P / 8, the index is the
target, and the work presents: a task under a fresh presentation timer, a sweep step with its first SCAN-CARRIER, read
attempt 1 and read timer (R143). A task marked withdrawn ends without presenting (R67), the carousel READY with a service
point to follow, after what its end reports (the model's order, log 8). An ARRIVED with another move number is ignored. -/
def Obligations.ArrivedAtTarget : Prop :=
  ∀ (s : State) (c number id : Nat) (measured : Int) (p : Profile) (m : Move) (k : Task), s.bounded → c < 8 →
    (s.car c).state = .moving → (s.car c).profile = some p → (s.car c).move = some m →
    let moved : State → Prop := fun t =>
      (t.car c).index = some m.target ∧ (t.car c).move = none ∧ (t.car c).moveTimer = none ∧
      (t.bal c).duty = min 65535 ((s.bal c).duty + m.distance * m.draw / 8) ∧
      (t.bal c).cooling = ((s.bal c).cooling || decide (p.hot ≤ (t.bal c).duty)) ∧
      (t.bal c).loads = (s.bal c).loads ∧ t.hasClaim c = false ∧ t.power.target = s.power.target ∧
      (s.hasClaim c = true → t.power.budget = max s.power.target
        (Power.claimed { s.power with claims := s.power.claims.filter fun x => x.carousel != c })) ∧
      t.articles = s.articles ∧ t.consolidation.transit = s.consolidation.transit
    (number ≠ (s.car c).moveNumber → s.arrived c m.target measured number = s) ∧
    ((s.car c).inService = some (.task id) → s.task id = some k → k.withdrawn = false → s.waits c = false →
      number = (s.car c).moveNumber →
      let t := s.arrived c m.target measured number
      moved t ∧ (t.car c).state = .presenting ∧ (t.car c).presentationTimer = some (s.now + s.presentationMs) ∧
      (t.car c).inService = some (.task id) ∧ t.task id = some { k with state := .presenting } ∧ t.bays = s.bays) ∧
    (∀ w, (s.car c).inService = some .step → (s.car c).sweep = some w → s.waits c = false →
      s.outbox.fifo.length < 32 → number = (s.car c).moveNumber →
      let t := s.arrived c m.target measured number
      moved t ∧ (t.car c).state = .presenting ∧ (t.car c).inService = some .step ∧ (t.car c).sweep = some w ∧
      (t.car c).presentationTimer = (s.car c).presentationTimer ∧ t.bays = s.bays ∧
      t.sweepRecord c = { s.sweepRecord c with readAttempt := 1, readTimer := some (s.now + s.carrierReadMs) } ∧
      ∃ tag, t.outbox.fifo = s.outbox.fifo ++
        [OutFrame.mk p.reader kindScanCarrier tag [byte w.next, byte p.bays] .part none]) ∧
    ((s.car c).inService = some (.task id) → s.task id = some k → k.withdrawn = true → k.bay.carousel = c →
      s.position k.bay < (s.baysOf c).length → s.waits c = false → number = (s.car c).moveNumber →
      let t := s.arrived c m.target measured number
      let a := ((((s.releaseClaim c).raiseDuty c p m.distance m.draw).endMove c).modCar c fun x => { x with
        index := some m.target }).deviationCheck c m.target measured
      let v := a.endTask id
      t = (v.settle.modCar c fun x => { x with state := .ready, inService := none }).notePoint c ∧
      moved v ∧ v.task id = none ∧ v.orderUnit.retry = .all ∧ v.outbox.fifo = s.outbox.fifo ∧
      (∀ j, (v.bay j).count = (s.bay j).count) ∧
      (k.kind = .pick → (v.bay k.bay).reserved = (s.bay k.bay).reserved - (k.quantity - k.taken)) ∧
      (t.car c).state = .ready ∧ (t.car c).inService = none ∧ (t.car c).index = some m.target ∧
      (t.car c).move = none ∧ (t.car c).moveTimer = none ∧
      (t.car c).presentationTimer = (s.car c).presentationTimer ∧ c ∈ t.agenda.points)

/-- A timer's command for a number the part has no unit for stops with a fault (the model's choice, log 25). -/
def Obligations.TimerOperandFaults : Prop :=
  ∀ (s : State) (n : Nat),
    (8 ≤ n → exec (.moveTimerExpiry n) s = .fault .noSuchUnit ∧ exec (.presentationTimerExpiry n) s = .fault .noSuchUnit ∧
      exec (.dutyTimerExpiry n) s = .fault .noSuchUnit ∧ exec (.readTimerExpiry n) s = .fault .noSuchUnit) ∧
    (128 ≤ n → exec (.ageTimerExpiry n) s = .fault .noSuchUnit) ∧
    (64 ≤ n → exec (.transitDeadlineExpiry n) s = .fault .noSuchUnit)

/-- How a move ends away from its target, and the drive's reports. A move timer expiry in MOVING sends a STOP and keeps the
claim (R64); an ARRIVED at another index and a FAULT report release it (R63, R53); each returns the work (R65) and takes the
carousel to DRIVE-FAULT. Reports in the other states, and the deviation check with its automatic sweep, are as R44, R45,
R53, R63 and R70 give. The model's own: a FAULT report in MANUAL leaves the state whole, its index too, where Table 3-4 and
R70 differ (log 47); an expiry of a move timer that does not run changes nothing (log 1); what a step reports is taken at its
end (log 8). `k` is the carousel's record before. -/
def Obligations.DriveReportsAndTimeout : Prop :=
  ∀ (s : State) (c : Nat) (p : Profile), s.bounded → c < 8 → (s.car c).profile = some p →
    let k := s.car c
    let failed : State → Option Nat → Prop := fun u index =>
      (u.car c).state = .driveFault ∧ (u.car c).index = index ∧ (u.car c).move = none ∧ (u.car c).moveTimer = none ∧
        (u.car c).inService = none ∧ (u.car c).moveNumber = k.moveNumber ∧ (u.car c).parked = k.parked ∧
        (u.bal c).loads = (s.bal c).loads ∧ (u.bal c).deviation = (s.bal c).deviation ∧
        (∀ id, (u.bay id).count = (s.bay id).count) ∧ u.consolidation.transit = s.consolidation.transit
    let returned : State → Prop := fun u =>
      (∀ id w, k.inService = some (.task id) → s.task id = some w → w.withdrawn = false → w.bay.carousel = c →
        u.task id = some { w with state := .queued, transit := 0 } ∧ (u.car c).queue w.level = id :: k.queue w.level ∧
          (u.car c).sweep = k.sweep) ∧
      (∀ id w, k.inService = some (.task id) → s.task id = some w → w.withdrawn = true → u.task id = none) ∧
      (k.inService = some .step → (u.car c).sweep = if (s.sweepRecord c).stopMark then none else k.sweep) ∧
      u.waits c = false
    let known : Nat → Option Nat := fun r => if r < p.carriers then some r else k.index
    let follows : Nat → State → Prop := fun r u =>
      u = s.modCar c fun x => { x with index := known r }
    -- the move timer (R64)
    (s.quiet → k.state ≠ .moving ∨ k.moveTimer = none → exec (.moveTimerExpiry c) s = .next s) ∧
    (k.state = .moving → k.moveTimer ≠ none →
      let u := s.moveTimeout c
      exec (.moveTimerExpiry c) s = .next u.settle ∧ failed u none ∧ returned u ∧ u.power.claims = s.power.claims ∧
        u.power.budget = s.power.budget ∧
        (s.outbox.fifo.length < 32 → u.outbox.fifo = s.outbox.fifo ++
          [{ dest := p.drive, kind := kindStop, tag := s.outbox.tagCounter, payload := [] }]) ∧
        (∀ id, k.inService = some (.task id) → s.outbox.fifo.length < 32 →
          u.link = (s.notify (.carouselFault c .timeout none)).link)) ∧
    -- ARRIVED (R63, R64, R70)
    (∀ m reported measured, k.state = .moving → k.move = some m → reported ≠ m.target → s.waits c = false →
      let u := s.arrived c reported measured k.moveNumber
      let travelled := if m.ascending then (reported + p.carriers - m.start) % p.carriers
        else (m.start + p.carriers - reported) % p.carriers
      failed u (if reported < p.carriers then some reported else none) ∧ returned u ∧ u.hasClaim c = false ∧
        (u.bal c).duty = if reported < p.carriers then min 65535 ((s.bal c).duty + travelled * m.draw / 8)
          else (s.bal c).duty) ∧
    (∀ reported measured number,
      (k.state = .driveFault → follows reported (s.arrived c reported measured number)) ∧
      (k.state = .manual → (p.carriers ≤ reported → s.arrived c reported measured number = s) ∧
        (reported < p.carriers → s.arrived c reported measured number =
          (s.modCar c fun x => { x with index := some reported }).deviationCheck c reported measured)) ∧
      (k.state = .offline ∨ k.state = .unhomed ∨ k.state = .ready ∨ k.state = .presenting →
        s.arrived c reported measured number = s)) ∧
    -- DRIVE-STATE outside UNHOMED (R53, R70)
    (∀ d reported,
      let u := s.driveState c d reported
      (k.state = .offline → u = s) ∧
      (k.state = .ready ∨ k.state = .moving ∨ k.state = .presenting → d ≠ .fault → u = s) ∧
      (k.state = .ready → d = .fault → (u.car c).state = .driveFault ∧ (u.car c).index = k.index ∧
        (u.car c).inService = none ∧ u.power.claims = s.power.claims ∧ returned u ∧
        (k.inService = none → u.link = (s.notify (.carouselFault c .drive k.index)).link)) ∧
      (k.state = .moving → d = .fault → s.waits c = false → failed u none ∧ returned u ∧ u.hasClaim c = false) ∧
      (k.state = .presenting → d = .fault → u = s.modCar c fun x => { x with faultPending := true }) ∧
      (k.state = .driveFault → d ≠ .stopped → u = s) ∧
      (k.state = .driveFault → d = .stopped → s.waits c = false →
        u.car c = { k with index := known reported } ∧ u.hasClaim c = false) ∧
      (k.state = .manual → d = .fault → u = s) ∧
      (k.state = .manual → d ≠ .fault → follows reported u)) ∧
    -- the deviation check (R44, R45)
    ∀ r measured,
      let d := 2 * (s.bal c).halfSums.getD r 0 - (s.bal c).total
      let deviates := p.tolerance ≠ 0 ∧ (p.tolerance : Int) < |measured - d|
      let u := s.deviationCheck c r measured
      let serving := k.state = .ready ∨ k.state = .moving ∨ k.state = .presenting
      (¬deviates → u = s.modBal c fun b => { b with deviation := 0 }) ∧
      (deviates → (s.bal c).deviation = 0 → u = s.modBal c fun b => { b with deviation := 1 }) ∧
      (deviates → (s.bal c).deviation ≠ 0 →
        u.bal c = { s.bal c with deviation := 0 } ∧ u.link = (s.notify (.balanceDeviation c r measured d)).link ∧
        (¬serving ∨ k.sweep ≠ none → u.car c = k ∧ u.audit = s.audit) ∧
        ∀ i, serving → k.sweep = none → k.index = some i →
          let number := (s.audit.sweepCounter + 1) % 65536
          let w : SweepContext := { next := i, last := (i + p.carriers - 1) % p.carriers, policy := p.policy, number }
          u.car c = { k with sweep := some w } ∧
          u.audit.sweepCounter = number ∧ (u.sweepRecord c).origin = .automatic ∧ (u.sweepRecord c).stopMark = false)

/-- An age timer expiry: level 2 from now on; a waiting task of the level 1 queue joins the tail of the level 2 queue in its
present state; a task in service or parked stays where it is; a timer that is not running has no expiry. -/
def Obligations.AgeExpiry : Prop :=
  ∀ (s : State) (id : Nat) (k : Task), s.bounded → s.quiet → id < 128 → s.task id = some k →
    let c := k.bay.carousel
    let u := s.modTask id fun t => { t with level := 2, age := .expired }
    ((∀ e, k.age ≠ .running e) → exec (.ageTimerExpiry id) s = .next s) ∧
    ∀ e, k.age = .running e →
      (id ∉ (s.car c).queue1 → exec (.ageTimerExpiry id) s = .next u) ∧
      (c < 8 → id ∈ (s.car c).queue1 → k.state = .queued ∨ k.state = .balanceWait →
        ∃ t, exec (.ageTimerExpiry id) s = .next t ∧
          State.Follows { u with carousels := s.carousels.set c { s.car c with
            queue3 := (s.car c).queue3.filter (· != id)
            queue2 := (s.car c).queue2.filter (· != id) ++ [id]
            queue1 := (s.car c).queue1.filter (· != id)
            queue0 := (s.car c).queue0.filter (· != id) } } t ∧
          (s.idleReady c = false → (t.car c).queue2 = (s.car c).queue2.filter (· != id) ++ [id] ∧
            (t.car c).queue1 = (s.car c).queue1.filter (· != id)))

/-- A duty timer expiry: an H above 0 falls by the larger of 1 and H / 16, an H of 0 stays; COOLING clears at or below the
warm threshold; the timer runs on. No other balance changes. -/
def Obligations.DutyLeaks : Prop :=
  ∀ (s : State) (c : Nat), s.bounded → s.quiet → c < 8 →
    let h := (s.bal c).duty - max 1 ((s.bal c).duty / 16)
    let cooling := fun p : Profile => (s.bal c).cooling && !decide (0 < (s.bal c).duty ∧ h ≤ p.warm)
    ∃ t, exec (.dutyTimerExpiry c) s = .next t ∧
      ((s.car c).profile = none → t.balances = s.balances.set c { s.bal c with
        duty := h, dutyExpiry := (s.bal c).dutyExpiry + 1000 }) ∧
      (∀ p, (s.car c).profile = some p → t.balances = s.balances.set c { s.bal c with
        duty := h, dutyExpiry := (s.bal c).dutyExpiry + 1000, cooling := cooling p }) ∧
      t.articles = s.articles ∧ t.filter = s.filter ∧ t.bays.map (List.map Bay.shelf) = s.bays.map (List.map Bay.shelf) ∧
      t.power.target = s.power.target ∧ t.power.budget = s.power.budget ∧ s.power.claims <+: t.power.claims ∧
      t.consolidation.transit = s.consolidation.transit ∧ t.audit.list = s.audit.list ∧ t.pending = s.pending

/-- A read timer expiry of a presented step: the first sends a second SCAN-CARRIER and restarts the timer; the second marks
every bay of the carrier AUDIT and moves the sweep on, or ends it at its last carrier; the presentation ends, in READY or, with
a drive fault pending, in DRIVE-FAULT. The model's own: a SCAN-CARRIER lost at a full FIFO uses its tag up (log 41); an expiry
of a timer that does not run changes nothing (log 1); follow-ups come last (log 8). -/
def Obligations.ReadTimerExpires : Prop :=
  ∀ (s : State) (c : Nat) (p : Profile) (w : SweepContext), s.bounded → s.quiet → c < 8 → (s.car c).profile = some p →
    (s.car c).state = .presenting → (s.car c).inService = some .step → (s.car c).sweep = some w →
    ((s.sweepRecord c).readTimer = none → exec (.readTimerExpiry c) s = .next s) ∧
    ((s.sweepRecord c).readTimer ≠ none → (s.sweepRecord c).readAttempt = 1 →
      ∃ t, exec (.readTimerExpiry c) s = .next t ∧ State.Builds { s with
        audit := { s.audit with sweeps := s.audit.sweeps.set c { s.sweepRecord c with
          readAttempt := 2, readTimer := some (s.now + s.carrierReadMs) } } }
        p.reader kindScanCarrier [byte w.next, byte p.bays] t) ∧
    ((s.sweepRecord c).readTimer ≠ none → (s.sweepRecord c).readAttempt ≠ 1 →
      ∃ u t : State, exec (.readTimerExpiry c) s = .next t ∧ u.Follows t ∧
        (∀ b < p.bays, ∀ id : BayId, id = { carousel := c, carrier := w.next, bay := b } →
          s.position id < (s.baysOf c).length → (t.bay id).holds = { (s.bay id).holds with audit := true } ∧
            (t.bay id).count = (s.bay id).count) ∧
        (u.car c).state = (if (s.car c).faultPending then .driveFault else .ready) ∧ (u.car c).faultPending = false ∧
        (u.car c).inService = none ∧ (u.sweepRecord c).readTimer = none ∧
        (w.next = w.last → (t.car c).sweep = none) ∧
        (w.next ≠ w.last → (s.sweepRecord c).stopMark = true → (t.car c).sweep = none) ∧
        (w.next ≠ w.last → (s.sweepRecord c).stopMark = false → (t.car c).sweep = some { w with
          next := (w.next + 1) % p.carriers, done := w.done + 1, mismatches := w.mismatches + p.bays }) ∧
        t.audit.list.length = min 32 (s.audit.list.length + p.bays) ∧
        t.balances = s.balances ∧ t.articles = s.articles ∧ t.power.target = s.power.target)

/-- The carrier read of a presented sweep step: each bay's outcome is the first row of Table 8-2 on its record as the read
is taken (R144); in bay order each mismatch sets AUDIT, logs its entry and, under CORRECT with nothing or one known tally
found, sends CORRECT, whose acceptance sets the entry's flag (R145, R13); the counters and the sweep move on or end (R147,
R60), and the presentation ends. The found tally total leaves out tallies of count 0 (log 40). What the
step reports is taken before the presentation ends (the model's order, log 8). -/
def Obligations.CarrierReadCompares : Prop :=
  (∀ (s : State) (c : Nat) (p : Profile) (w : SweepContext) (tallies : List Tally), s.bounded → c < 8 →
    (s.car c).profile = some p → (s.car c).state = .presenting → (s.car c).inService = some .step →
    (s.car c).sweep = some w →
    let id := fun b : Nat => BayId.mk c w.next b
    let found := fun b : Nat => tallies.filter fun t => decide (t.bay = b ∧ t.count ≠ 0)
    let outcome := fun b : Nat =>
      let r := s.bay (id b)
      if r.count = 0 then (if found b = [] then none else some .unexpected)
      else match found b with
        | [] => some .missing
        | [t] =>
          if s.article t.article = none ∨ r.tyre ≠ some (Tyre.mk t.article t.batch) then some .label
          else if t.count = r.count then none else some .count
        | _ => some DiscrepancyKind.label
    let bays := List.range p.bays
    let timed := { s with audit := { s.audit with sweeps := s.audit.sweeps.modify c fun r => { r with readTimer := none } } }
    let marked := bays.foldl (fun v b => v.modBay (id b) fun r => { r with lastSweep := some w.number }) timed
    let handled := bays.foldl (fun v b => match outcome b with
      | none => v
      | some kind =>
        let r := s.bay (id b)
        let x := v.holdSet (id b) .audit
        let l := x.logEntry (Discrepancy.mk 0 c (x.position (id b)) kind r.tyre r.count r.incoming
          (((found b).take 4).map fun t => Found.mk (Tyre.mk t.article t.batch) t.count) (found b).length (some w.number) false)
        let claim := match found b with
          | [] => some none
          | [t] => if l.1.article t.article = none then none else some (some (Found.mk (Tyre.mk t.article t.batch) t.count))
          | _ => none
        match w.policy, claim with
        | .correct, some f => match l.1.correct (id b) f with
          | .ok y => { y with audit := { y.audit with
              list := y.audit.list.map fun e => if some e.number = l.2 then { e with corrected := true } else e } }
          | .error _ => l.1
        | _, _ => l.1) marked
    let n := w.mismatches + (bays.filter fun b => (outcome b).isSome).length
    let ended := fun (x : State) (cause : SweepCause) =>
      State.modSweepRecord ((x.notify (.auditDone c w.number (x.sweepRecord c).origin cause (w.done + 1) n)).modCar c
        fun k => { k with sweep := none }) c fun r => { r with stopMark := false, readAttempt := 0, readTimer := none }
    let after :=
      if w.next = w.last then ended handled .complete
      else if (handled.sweepRecord c).stopMark = true then ended handled .stopped
      else (handled.modCar c fun k => { k with sweep := some { w with
        next := (w.next + 1) % handled.carriersOf c, done := w.done + 1, mismatches := n } }).modSweepRecord c
          fun r => { r with readAttempt := 0, readTimer := none }
    s.mouthRead c tallies = after.settle.presentationEnd c) ∧
  ∀ (s : State) (id : BayId) (f : Option Found), s.bounded → id.carousel < 8 →
    s.position id < (s.baysOf id.carousel).length → (s.bay id).reserved = 0 →
    let b := s.bay id
    let refused := fun z : Found => s.stackLimit z.tyre.article < z.count + b.incoming ∨
      (0 < b.incoming ∧ b.tyre ≠ some z.tyre)
    let written : Bay := match f with
      | none => { b with count := 0, tyre := if b.incoming = 0 then none else b.tyre }
      | some z => { b with count := z.count, tyre := some z.tyre }
    ((∃ z, f = some z ∧ refused z) → ∃ e, s.correct id f = .error e) ∧
    ((∀ z, f = some z → 0 < z.count ∧ ¬refused z) → ∃ y, s.correct id f = .ok y ∧ y.bay id = written ∧
      (y.bal id.carousel).total = (s.bal id.carousel).total + (s.bayLoad written - s.bayLoad b) ∧
      (y.bal id.carousel).loads = (s.bal id.carousel).loads.modify id.carrier (· + (s.bayLoad written - s.bayLoad b)) ∧
      y.audit.list = s.audit.list ∧ y.articles = s.articles)

/-- A transit deadline: the entry goes; for an order that is not WITHDRAWN, TYRE-LOST, picked one less and one need back to
the group, which is on the pending list (the retry pass of the step may then allocate it whole); for a WITHDRAWN order its
lane is tested for RETURN. A place with no entry has no expiry. What the step reports is taken at its end (the model's
order, log 8). -/
def Obligations.TransitDeadline : Prop :=
  ∀ (s : State) (n : Nat), s.bounded → s.keyed → s.quiet → n < 64 →
    ((∀ e ∈ s.consolidation.transit, e.place ≠ n) → exec (.transitDeadlineExpiry n) s = .next s) ∧
    ∀ a e b o, s.consolidation.transit = a ++ e :: b → e.place = n → (∀ x ∈ a, x.place ≠ n) →
      (∀ x ∈ a ++ b, x.serial ≠ e.serial) → s.order e.group.order = some o →
      let u := s.deadline n
      exec (.transitDeadlineExpiry n) s = .next u.settle ∧ u.consolidation.transit = a ++ b ∧ u.agenda.freed = true ∧
        u.settle.consolidation.transit = a ++ b ∧
        u.articles = s.articles ∧ u.balances = s.balances ∧ u.audit = s.audit ∧ u.pending = s.pending ∧
        u.power = s.power ∧ u.bays = s.bays ∧ u.carousels = s.carousels ∧ u.orderUnit.pool = s.orderUnit.pool ∧
        (o.state ≠ .withdrawn →
          u.link = (s.notify (.tyreLost e)).link ∧ u.consolidation.lanes = s.consolidation.lanes ∧
          ∀ g, s.group e.group = some g →
            u.group e.group = some { g with picked := g.picked - 1, need := g.need + 1 } ∧
            e.group ∈ u.orderUnit.pending ∧ (∀ x ∈ s.orderUnit.pending, x ∈ u.orderUnit.pending) ∧
            (e.group ∉ s.orderUnit.pending → u.orderUnit.retry = .all)) ∧
        (o.state = .withdrawn → u.orderUnit = s.orderUnit ∧ u.link = s.link ∧
          ∀ lane, o.lane = some lane → ∀ l, s.lane lane = some l →
            ∃ l', u.lane lane = some l' ∧ l'.arrived = l.arrived ∧ l'.expected = l.expected ∧
              (l'.state = .returning ↔ l.state = .returning ∨
                ((∀ x ∈ a ++ b, x.group.order ≠ e.group.order) ∧ l.state ≠ .free)))

/-! ## Picks, lanes and put-away -/

/-- A single tally of the presented PICK task's article and batch takes one tyre, here not the task's last: count,
reserved and load fall, taken and picked rise, one of the task's transit entries is filled, and the ROUTE to the order's
lane and a fresh indication are put into the FIFO, in this order; a ROUTE that finds the FIFO full is lost, and its entry is
UNROUTED (R132, R164). Any other read shows WRONG-ITEM and changes nothing else. The model's own: a frame lost at a full FIFO
uses its tag up, so the indication carries the tag after the ROUTE's in either case (log 41); which free place the entry takes
is left free (log 7). -/
def Obligations.PickTakesOneTyre : Prop :=
  ∀ (s : State) (c id : Nat) (k : Task) (p : Profile) (y : Tyre) (g : Group) (bay count : Nat), s.bounded → c < 8 →
    k.bay.carousel = c → s.position k.bay < (s.baysOf c).length → (s.car c).profile = some p →
    (s.car c).state = .presenting → (s.car c).inService = some (.task id) → s.task id = some k → k.kind = .pick →
    k.state = .presenting → (s.bal c).fault = false → s.waits c = false → s.group k.ref = some g →
    s.consolidation.transit.length < 64 →
    let tag := s.outbox.tagCounter
    ((s.bay k.bay).tyre = some y → k.taken + 1 < k.quantity →
      let t := s.mouthRead c [{ bay, article := y.article, batch := y.batch, count }]
      let width := if (s.bay k.bay).count ≤ 1 ∧ (s.bay k.bay).incoming = 0 then 0 else s.widthClass y.article
      (t.bay k.bay).count = (s.bay k.bay).count - 1 ∧ (t.bay k.bay).reserved = (s.bay k.bay).reserved - 1 ∧
      (t.bay k.bay).incoming = (s.bay k.bay).incoming ∧ (t.bay k.bay).holds = (s.bay k.bay).holds ∧
      (t.bal c).total = (s.bal c).total - s.weight y.article ∧
      (t.bal c).loads = (s.bal c).loads.modify k.bay.carrier (· - (s.weight y.article : Int)) ∧
      t.task id = some { k with taken := k.taken + 1, transit := k.transit - 1 } ∧
      t.group k.ref = some { g with picked := g.picked + 1 } ∧
      (∃ e fifo routeLost shownLost,
        FifoTakes s.outbox.fifo {
          dest := s.diverter, kind := kindRoute, tag
          payload := routePayload (.mouth c) (.lane (s.laneOf k.order)) y, entry := some e.serial } fifo routeLost ∧
        FifoTakes fifo {
          dest := p.reader, kind := kindIndicate, tag := tag + 1
          payload := [byte k.bay.bay, 0, byte (k.quantity - (k.taken + 1)), byte width] } t.outbox.fifo shownLost ∧
        t.line = { s.line with errors := { s.line.errors with full := s.line.errors.full || routeLost || shownLost } } ∧
        t.consolidation.transit = s.consolidation.transit.map (fun x =>
          if routeLost = true ∧ x.serial = e.serial then { x with unrouted := true } else x) ++ [e] ∧
        e.unrouted = routeLost ∧ e.place < 64 ∧
        (∀ x ∈ s.consolidation.transit, x.place ≠ e.place) ∧ e.group = k.ref ∧ e.tyre = y ∧
        e.lane = s.laneOf k.order ∧ e.source = .mouth c ∧ e.deadline = s.now + s.transitMs) ∧
      t.consolidation.reserved = s.consolidation.reserved - 1 ∧ (t.car c).state = .presenting ∧
      (t.car c).inService = some (.task id) ∧ t.articles = s.articles ∧ t.link = s.link ∧ t.audit = s.audit) ∧
    ∀ tallies, (∀ x, tallies = [x] → (s.bay k.bay).tyre ≠ some { article := x.article, batch := x.batch }) →
      s.Builds p.reader kindIndicate [byte k.bay.bay, 2, 0, 0] (s.mouthRead c tallies)

/-- A TAG-READ or KEY from a carousel's mouth: ignored with nothing presented; a PUT is confirmed or shows WRONG-ITEM (R85),
and its keys refuse it or park it (R86, R87); a PICK's last take ends it complete (R116), and DAMAGED, SHORT and SKIP settle
bay, load, group and transit entries (R117 to R119). Where the task ends, what the end reports is taken first (log 8). -/
def Obligations.MouthReadsAndKeys : Prop :=
  (∀ (s : State) (f : Frame) (c : Nat),
    (s.role f.src = some (.reader c) → s.deliver f =
      if f.kind = kindTagRead then (readTagRead f.payload).map (s.mouthRead c) else none) ∧
    (s.role f.src = some (.keypad c) → s.deliver f =
      if f.kind = kindKey then (readKey f.payload).map (s.mouthKey c) else none)) ∧
  ∀ (s : State) (c id : Nat) (k : Task) (p : Profile) (bay count : Nat) (tallies : List Tally) (key : Key), s.bounded → c < 8 →
    ((s.car c).state ≠ .presenting ∨ (s.car c).inService = none → s.mouthRead c tallies = s ∧ s.mouthKey c key = s) ∧
    ((s.car c).inService = some .step → s.mouthKey c key = s) ∧
    (k.bay.carousel = c → s.position k.bay < (s.baysOf c).length → (s.car c).profile = some p →
      (s.car c).state = .presenting → (s.car c).inService = some (.task id) → s.task id = some k → k.state = .presenting →
      (s.bal c).fault = false → s.waits c = false → s.outbox.fifo.length ≤ 30 →
      let b := s.bay k.bay
      let left := k.quantity - k.taken
      let tag := s.outbox.tagCounter
      let shown := fun (action : Byte) (quantity width : Nat) => s.outbox.fifo ++ [OutFrame.mk p.reader kindIndicate tag
        [byte k.bay.bay, action, byte quantity, byte width] .part none]
      let wrong := { s with outbox := { s.outbox with tagCounter := tag + 1, fifo := shown 2 0 0 } }
      let load := fun (v : State) (d : Int) => (v.bal c).total = (s.bal c).total + d ∧
        (v.bal c).loads = (s.bal c).loads.modify k.bay.carrier (· + d)
      let ended := fun v t : State => t = v.settle.presentationEnd c ∧ v.task id = none ∧ v.orderUnit.retry = .all ∧
        (t.car c).state = (if (s.car c).faultPending then .driveFault else .ready) ∧ (t.car c).inService = none ∧
        (t.car c).presentationTimer = none ∧ v.articles = s.articles
      (k.kind = .put → k.taken = 0 → ∀ y, k.tyre = some y →
        (∃ v, ended v (s.mouthRead c [{ bay, article := y.article, batch := y.batch, count }]) ∧
          v.bay k.bay = { b with tyre := some y, count := b.count + 1, incoming := b.incoming - 1 } ∧
          load v (s.weight y.article) ∧ v.link = s.link ∧ v.outbox = s.outbox ∧ v.consolidation.transit = s.consolidation.transit) ∧
        ((∀ x, tallies = [x] → x.article ≠ y.article ∨ x.batch ≠ y.batch) → s.mouthRead c tallies = wrong) ∧
        (∃ v t, ended v t ∧ s.mouthKey c .damaged = t.notify (.putRefused .damaged (some y)) ∧
          v.bay k.bay = { b with incoming := b.incoming - 1, tyre := if b.count + (b.incoming - 1) = 0 then none else b.tyre } ∧
          v.balances = s.balances ∧ v.link = s.link ∧ v.outbox = s.outbox) ∧
        s.mouthKey c .skip = s.park c id ∧ s.mouthKey c .short = s) ∧
      (k.kind = .pick → k.withdrawn = false → k.transit = left → 0 < left → ∀ o g y, s.order k.order = some o →
        o.state ≠ .withdrawn → s.group k.ref = some g → b.tyre = some y →
        let w : Int := s.weight y.article
        let after := { b with
          count := b.count - 1, reserved := b.reserved - 1, tyre := if b.count - 1 + b.incoming = 0 then none else b.tyre }
        (left = 1 → s.consolidation.transit.length < 64 →
          ∃ v e, ended v (s.mouthRead c [{ bay, article := y.article, batch := y.batch, count }]) ∧ v.bay k.bay = after ∧
            load v (-w) ∧ v.group k.ref = some { g with picked := g.picked + 1, tasks := g.tasks.filter (· != id) } ∧
            v.consolidation.transit = s.consolidation.transit ++ [e] ∧ e.group = k.ref ∧ e.tyre = y ∧
            e.lane = s.laneOf k.order ∧ e.source = .mouth c ∧ e.deadline = s.now + s.transitMs ∧ e.unrouted = false ∧
            v.consolidation.reserved = s.consolidation.reserved - 1 ∧ v.link = s.link ∧
            v.outbox.fifo = s.outbox.fifo ++ [OutFrame.mk s.diverter kindRoute tag
              (routePayload (.mouth c) (.lane (s.laneOf k.order)) y) .part (some e.serial)]) ∧
        (2 ≤ left → let t := s.mouthKey c .damaged
          t.bay k.bay = after ∧ load t (-w) ∧ t.task id = some { k with quantity := k.quantity - 1, transit := k.transit - 1 } ∧
          t.group k.ref = some { g with need := g.need + 1 } ∧ k.ref ∈ t.orderUnit.pending ∧
          t.consolidation.reserved = s.consolidation.reserved - 1 ∧ t.agenda.freed = true ∧
          t.consolidation.transit = s.consolidation.transit ∧ t.link = s.link ∧
          t.outbox.fifo = shown 0 (left - 1) (if b.count - 1 + b.incoming = 0 then 0 else s.widthClass y.article) ∧
          (t.car c).state = .presenting ∧ (t.car c).inService = some (.task id) ∧
          (t.car c).presentationTimer = (s.car c).presentationTimer) ∧
        (left = 1 → ∃ v, ended v (s.mouthKey c .damaged) ∧ v.bay k.bay = after ∧ load v (-w) ∧
          v.group k.ref = some { g with need := g.need + 1, tasks := g.tasks.filter (· != id) } ∧
          k.ref ∈ v.orderUnit.pending ∧ v.consolidation.reserved = s.consolidation.reserved - 1 ∧
          v.consolidation.transit = s.consolidation.transit ∧ v.link = s.link ∧ v.outbox = s.outbox) ∧
        (∃ v, ended v (s.mouthKey c .short) ∧
          v.bay k.bay = { b with
            count := 0, reserved := 0, holds := b.holds.put .audit true, tyre := if b.incoming = 0 then none else b.tyre } ∧
          load v (-(b.count * w)) ∧ k.ref ∈ v.orderUnit.pending ∧
          (b.holds.any = false → ∀ j m, j ≠ id → s.task j = some m → m.kind = .pick → m.bay = k.bay →
            m.withdrawable = true → v.task j = none) ∧
          ((∀ j m, s.task j = some m → m.kind = .pick → m.bay = k.bay → j = id) → v.group k.ref =
            some { g with need := g.need + left, tasks := g.tasks.filter (· != id) }) ∧
          (s.audit.list.length < 32 → ∃ n, v.audit.list = s.audit.list ++
            [Discrepancy.mk n c (s.position k.bay) .shortPick b.tyre b.count b.incoming [] 0 none true]) ∧
          v.consolidation.transit = s.consolidation.transit ∧ v.outbox = s.outbox) ∧
        ∃ v, ended v (s.mouthKey c .skip) ∧ v.bay k.bay = { b with reserved := b.reserved - left } ∧
          v.balances = s.balances ∧ v.group k.ref = some { g with
            need := g.need + left, tasks := g.tasks.filter (· != id) } ∧ k.ref ∈ v.orderUnit.pending ∧
          v.consolidation.reserved = s.consolidation.reserved - left ∧ v.consolidation.transit = s.consolidation.transit ∧
          v.link = s.link ∧ v.outbox = s.outbox ∧ v.audit = s.audit))

/-- A TAG-READ from a lane's reader. Matched, the oldest entry of the lane for the tyre goes and the arrived count rises, and
at the expected count the order is STAGED, a FILLING lane COMPLETE, with ORDER-STAGED. Unmatched it is a mis-sort: FILLING
and COMPLETE lanes enter EXCEPTION with the order's flag, and MIS-SORT is sent; at other lanes nothing but MIS-SORT. Matched
for a WITHDRAWN order, the count rises, no completion test is made, and with the order's last entry the lane enters RETURN. -/
def Obligations.LaneArrival : Prop :=
  ∀ (s : State) (n : Nat) (l : Lane) (x : Tally), s.lane n = some l →
    let y : Tyre := { article := x.article, batch := x.batch }
    (∀ a e b number o, l.state = .filling ∨ l.state = .complete ∨ l.state = .exception →
      s.consolidation.transit = a ++ e :: b → e.lane = n → e.tyre = y → (∀ z ∈ a, ¬(z.lane = n ∧ z.tyre = y)) →
      (∀ z ∈ a ++ b, z.serial ≠ e.serial) → l.order = some number → s.order number = some o → o.state ≠ .withdrawn →
      let t := s.arrival n [x]
      t.consolidation.transit = a ++ b ∧ t.agenda.freed = true ∧ t.orderUnit.pool = s.orderUnit.pool ∧
        t.bays = s.bays ∧ t.carousels = s.carousels ∧ t.outbox = s.outbox ∧
        (l.arrived + 1 ≠ l.expected → t.lane n = some { l with arrived := l.arrived + 1 } ∧ t.orderUnit = s.orderUnit ∧
          t.link = s.link) ∧
        (l.arrived + 1 = l.expected →
          t.lane n = some { l with
            arrived := l.arrived + 1, state := if l.state = .filling then .complete else l.state } ∧
          (t.order number).map Order.state = some .staged ∧
          t.link = (s.notify (.orderStaged number n (l.arrived + 1) o.exception)).link)) ∧
    (∀ a e b number o, l.state = .filling ∨ l.state = .complete ∨ l.state = .exception →
      s.consolidation.transit = a ++ e :: b → e.lane = n → e.tyre = y → (∀ z ∈ a, ¬(z.lane = n ∧ z.tyre = y)) →
      (∀ z ∈ a ++ b, z.serial ≠ e.serial) → l.order = some number → s.order number = some o → o.state = .withdrawn →
      o.lane = some n →
      let t := s.arrival n [x]
      t.consolidation.transit = a ++ b ∧ t.agenda.freed = true ∧ t.orderUnit = s.orderUnit ∧ t.link = s.link ∧
        t.bays = s.bays ∧ t.carousels = s.carousels ∧ t.outbox = s.outbox ∧ (∀ m, m ≠ n → t.lane m = s.lane m) ∧
        ((∀ z ∈ a ++ b, z.group.order ≠ number) → t.lane n = some { l with arrived := l.arrived + 1, state := .returning }) ∧
        ((∃ z ∈ a ++ b, z.group.order = number) → t.lane n = some { l with arrived := l.arrived + 1 })) ∧
    ∀ tallies, (l.state = .free ∨ l.state = .returning ∨
        ∀ z, tallies = [z] → ∀ e ∈ s.consolidation.transit,
          ¬(e.lane = n ∧ e.tyre = { article := z.article, batch := z.batch })) →
      let t := s.arrival n tallies
      let shown := singleTally tallies
      t.consolidation.transit = s.consolidation.transit ∧ t.orderUnit.pool = s.orderUnit.pool ∧ t.bays = s.bays ∧
      t.carousels = s.carousels ∧
      (l.state = .filling ∨ l.state = .complete →
        t.lane n = some { l with state := .exception } ∧
        t.link = (s.notify (.misSort n l.order .exception shown)).link ∧
        (∀ number o, l.order = some number → s.order number = some o →
          t.order number = some { o with exception := true })) ∧
      (l.state = .free ∨ l.state = .exception ∨ l.state = .returning →
        t = s.notify (.misSort n l.order l.state shown))

/-- An infeed read that the first group able to take it on the pending list takes: the entry, the group's need, picked count
and window, the pending list and the ROUTE to the order's lane. A ROUTE that finds the FIFO full is dropped with FULL, and
its entry is UNROUTED (R132, R164). The model's own: the lost ROUTE uses its tag up (log 41); the deadline runs from the
time the read was delivered (log 15); which free place the entry takes is left free (log 7). -/
def Obligations.InfeedCrossDocks : Prop :=
  ∀ (s : State) (r : InfeedRead) (rest : List InfeedRead) (x : Tally) (art : Article) (a b : List GroupRef)
    (ref : GroupRef) (g : Group) (o : Order) (lane : Nat),
    s.bounded → s.quiet → s.putAway.reads = r :: rest → r.tallies = [x] → x.count = 1 →
    s.article x.article = some art → s.consolidation.transit.length + s.consolidation.reserved < 64 →
    s.orderUnit.pending = a ++ ref :: b → s.group ref = some g → s.order ref.order = some o → o.lane = some lane →
    let y : Tyre := { article := x.article, batch := x.batch }
    let canTake : GroupRef → Prop := fun q => ∃ h w, s.group q = some h ∧ s.order q.order = some w ∧
      s.groupArticle q = x.article ∧ 1 ≤ h.need ∧ w.lane ≠ none ∧ w.state ≠ .laneWait ∧ w.state ≠ .withdrawn ∧
      (∀ v, h.window = some v → max v.high x.batch - min v.low x.batch ≤ art.tolerance)
    canTake ref → (∀ q ∈ a, ¬canTake q) →
    ∃ t e lost, exec .infeedRead s = .next t ∧ t.putAway = { s.putAway with reads := rest } ∧
      t.consolidation = { s.consolidation with
        transit := s.consolidation.transit.map (fun x =>
          if lost = true ∧ x.serial = e.serial then { x with unrouted := true } else x) ++ [e]
        nextSerial := s.consolidation.nextSerial + 1 } ∧
      e.place < 64 ∧ (∀ z ∈ s.consolidation.transit, z.place ≠ e.place) ∧ e.group = ref ∧ e.tyre = y ∧ e.lane = lane ∧
      e.source = .infeed ∧ e.deadline = r.time + s.transitMs ∧ e.unrouted = lost ∧
      t.group ref = some { g with
        need := g.need - 1
        picked := g.picked + 1
        window := some (match g.window with
          | none => { low := x.batch, high := x.batch }
          | some v => { low := min v.low x.batch, high := max v.high x.batch }) } ∧
      (g.need = 1 → ref ∉ t.orderUnit.pending) ∧ (g.need ≠ 1 → t.orderUnit.pending = s.orderUnit.pending) ∧
      (∃ fifo, FifoTakes s.outbox.fifo {
          dest := s.diverter, kind := kindRoute, tag := s.outbox.tagCounter
          payload := [0, 0, 0, byte lane] ++ beBytes 4 x.article ++ beBytes 2 x.batch, entry := some e.serial } fifo lost ∧
        t.outbox = { s.outbox with tagCounter := s.outbox.tagCounter + 1, fifo }) ∧
      t.line = { s.line with errors := { s.line.errors with full := s.line.errors.full || lost } } ∧
      t.bays = s.bays ∧ t.balances = s.balances ∧ t.carousels = s.carousels ∧ t.link = s.link ∧
      t.orderUnit.pool = s.orderUnit.pool

/-- An infeed read that no group takes and for which a bay is chosen, with a free record: the bay's incoming rises, the lowest
free record becomes the PUT task, and the tyre is routed to the mouth. With no bay or no record, and for a read with no or
several tallies or of an unknown article, the tyre goes to overflow with PUT-REFUSED. -/
def Obligations.InfeedPlacesTyre : Prop :=
  ∀ (s : State) (r : InfeedRead) (rest : List InfeedRead), s.bounded → s.outbox.fifo.length ≤ 30 →
    s.putAway.reads = r :: rest →
    (∀ x art id record free, r.tallies = [x] → x.count = 1 → s.article x.article = some art →
      let y : Tyre := { article := x.article, batch := x.batch }
      (∀ q ∈ s.orderUnit.pending, s.canTake y q = false) → s.choosePlace art y [] = some id →
      s.position id < (s.baysOf id.carousel).length → s.freeTasks = record :: free →
      ∃ t k, exec .infeedRead s = .next t ∧ t.putAway = { s.putAway with reads := rest } ∧
        (t.bay id).incoming = (s.bay id).incoming + 1 ∧ (t.bay id).tyre = some y ∧ (t.bay id).count = (s.bay id).count ∧
        t.task record = some k ∧ k.kind = .put ∧ k.level = 1 ∧ k.bay = id ∧ k.quantity = 1 ∧ k.taken = 0 ∧
        k.tyre = some y ∧ k.withdrawn = false ∧ k.age = .running (s.now + s.putAgeMs) ∧
        (∃ h ∈ t.outbox.fifo, h.kind = kindRoute ∧ h.dest = s.diverter ∧
          h.payload = [0, 0, 1, byte id.carousel] ++ beBytes 4 x.article ++ beBytes 2 x.batch) ∧
        t.balances = s.balances ∧ t.articles = s.articles ∧ t.link = s.link ∧
        t.consolidation.transit = s.consolidation.transit ∧ t.pending = s.pending) ∧
    (∀ x art, r.tallies = [x] → x.count = 1 → s.article x.article = some art →
      let y : Tyre := { article := x.article, batch := x.batch }
      (∀ q ∈ s.orderUnit.pending, s.canTake y q = false) → (s.choosePlace art y [] = none ∨ s.freeTasks = []) →
      ∃ t, exec .infeedRead s = .next t ∧
        t.link = (s.notify (.putRefused (if s.choosePlace art y [] = none then .noRoom else .noTask) (some y))).link ∧
        (∃ h ∈ t.outbox.fifo, h.kind = kindRoute ∧ h.dest = s.diverter ∧
          h.payload = [0, 0, 2, s.overflowCode] ++ beBytes 4 x.article ++ beBytes 2 x.batch) ∧
        t.bays.map (List.map Bay.shelf) = s.bays.map (List.map Bay.shelf) ∧ t.balances = s.balances ∧
        t.consolidation.transit = s.consolidation.transit ∧ t.pending = s.pending) ∧
    (s.quiet → (∀ x, r.tallies = [x] → x.count ≠ 1) → ∃ t h, exec .infeedRead s = .next t ∧
      t.outbox.fifo = s.outbox.fifo ++ [h] ∧ h.kind = kindRoute ∧ h.dest = s.diverter ∧
      h.payload.take 4 = [0, 0, 2, s.overflowCode] ∧ t.link = (s.notify (.putRefused .badRead none)).link ∧
      t.bays = s.bays ∧ t.orderUnit = s.orderUnit ∧ t.consolidation = s.consolidation) ∧
    (∀ x, s.quiet → r.tallies = [x] → x.count = 1 → s.article x.article = none →
      ∃ t h, exec .infeedRead s = .next t ∧ t.outbox.fifo = s.outbox.fifo ++ [h] ∧ h.kind = kindRoute ∧
        h.payload = [0, 0, 2, s.overflowCode] ++ beBytes 4 x.article ++ beBytes 2 x.batch ∧
        t.link = (s.notify (.putRefused .unknownItem (some { article := x.article, batch := x.batch }))).link ∧
        t.bays = s.bays ∧ t.orderUnit = s.orderUnit ∧ t.consolidation = s.consolidation)

/-- The chosen bay is a candidate (R79), by the carrier ceiling and the last enabled grade on the prospective loads with the
tyre added (R27), and no candidate comes before it by the four keys of R80 in turn: W' (never below 0 where the loads are
those of R23), a bay of the article and batch first, fewer tasks on the level queues, lowest C.K.B. None is chosen only
where no bay is a candidate. -/
def Obligations.ChosenPlaceIsFirst : Prop :=
  ∀ (s : State) (art : Article) (y : Tyre),
    let loads := fun id : BayId =>
      (s.prospectiveLoads id.carousel).modify id.carrier (· + (s.weight y.article : Int))
    let worst := fun id => (stateOf (loads id)).1
    let serving := fun c => ((s.car c).state = .ready ∨ (s.car c).state = .moving ∨ (s.car c).state = .presenting) ∧
      (s.bal c).fault = false
    let candidate := fun id : BayId => ∃ p, (s.car id.carousel).profile = some p ∧ id.carousel < 8 ∧
      art.zone.getLsbD id.carousel = true ∧ serving id.carousel ∧ id.carrier < p.carriers ∧ id.bay < p.bays ∧
      (s.bay id).holds.any = false ∧
      ((s.bay id).state = .empty ∨
        ((s.bay id).tyre = some y ∧ (s.bay id).count + (s.bay id).incoming < s.stackLimit y.article)) ∧
      (loads id).getD id.carrier 0 ≤ p.ceiling ∧
      ∃ g, (s.bal id.carousel).enabledGrades.getLast? = some g ∧ worst id ≤ g.imbalance ∧
        (stateOf (loads id)).2 ≤ g.total
    let same := fun id => (s.bay id).tyre = some y
    let queued := fun c => ((s.car c).queue3 ++ (s.car c).queue2 ++ (s.car c).queue1).length
    let before := fun a b : BayId => (worst a).toNat < (worst b).toNat ∨ ((worst a).toNat = (worst b).toNat ∧
      ((same a ∧ ¬same b) ∨ ((same a ↔ same b) ∧ (queued a.carousel < queued b.carousel ∨
        (queued a.carousel = queued b.carousel ∧ (a.carousel < b.carousel ∨ (a.carousel = b.carousel ∧
          (a.carrier < b.carrier ∨ (a.carrier = b.carrier ∧ a.bay < b.bay)))))))))
    (∀ c j, j < (s.bal c).loads.length → (s.prospectiveLoads c).getD j 0 = (s.bal c).loads.getD j 0 +
      ((List.range (s.baysPerCarrier c)).map fun b => match (s.bay { carousel := c, carrier := j, bay := b }).tyre with
        | some t => (((s.bay { carousel := c, carrier := j, bay := b }).incoming * s.weight t.article : Nat) : Int)
        | none => 0).sum) ∧
    (∀ id, s.choosePlace art y [] = some id → candidate id ∧ ∀ other, candidate other → ¬before other id) ∧
    (s.choosePlace art y [] = none → ∀ other, ¬candidate other)

/-! ## The arithmetic of the balance unit -/

/-- R23 for loads that agree with their sums: the halves add to T, opposite indices have opposite imbalances, and W is the
largest of them, never negative. -/
def Obligations.HalfLoopLaws : Prop :=
  ∀ b : Balance, b.agrees →
    let n := b.loads.length
    (∀ r < n, b.halfSums.getD r 0 = ((List.range (n / 2)).map fun j => b.loads.getD ((r + j) % n) 0).sum) ∧
    (∀ r < n, b.imbalanceAt r = 2 * b.halfSums.getD r 0 - b.total) ∧
    (∀ r < n, b.halfSums.getD r 0 + b.halfSums.getD ((r + n / 2) % n) 0 = b.total) ∧
    (∀ r < n, b.imbalanceAt ((r + n / 2) % n) = -b.imbalanceAt r) ∧
    (∃ r < n, b.worst = b.imbalanceAt r) ∧ (∀ r < n, |b.imbalanceAt r| ≤ b.worst) ∧ 0 ≤ b.worst

/-- A grade admits by both ceilings; along grades in order a state admitted by one is admitted by each later one; the
carousel admits exactly where its last enabled grade does (R26). The floor is the largest of balance limit, duty limit and
cap, clamped to the last enabled grade (R33); the grade of a move start is the first from the floor onward whose draw fits
E − C, and it admits the committed state (R34). -/
def Obligations.AdmissionIsMonotone : Prop :=
  (∀ (g : Grade) (w t : Int), g.admits w t = true ↔ w ≤ g.imbalance ∧ t ≤ g.total) ∧
  (∀ (gs : List Grade) (w t : Int) (i j : Nat) (g h : Grade), gradesOrdered gs = true → i ≤ j → gs[i]? = some g →
    gs[j]? = some h → g.admits w t = true → h.admits w t = true) ∧
  (∀ (b : Balance) (w t : Int),
    (b.admits w t = true ↔ ∃ g, b.enabledGrades.getLast? = some g ∧ w ≤ g.imbalance ∧ t ≤ g.total) ∧
    (gradesOrdered b.enabledGrades = true → (∃ g ∈ b.enabledGrades, g.admits w t = true) → b.admits w t = true)) ∧
  ∀ (s : State) (c : Nat) (p : Profile), (s.car c).profile = some p →
    let b := s.bal c
    let fits := fun g : Grade => g.power ≤ s.power.budget - (s.power.claims.map Claim.draw).sum
    (∀ f, s.floor c = some f ↔ ∃ limit g, b.enabledGrades[limit]? = some g ∧ b.worst ≤ g.imbalance ∧ b.total ≤ g.total ∧
      (∀ j < limit, ∀ h, b.enabledGrades[j]? = some h → ¬(b.worst ≤ h.imbalance ∧ b.total ≤ h.total)) ∧
      f = min (max limit (max (if p.warm ≤ b.duty then p.warmGrade else 0) b.cap)) (b.enabledGrades.length - 1)) ∧
    (s.floor c = none → s.resolveGrade c = none) ∧
    ∀ f, s.floor c = some f →
      (∀ g, s.resolveGrade c = some g ↔ ∃ e, f ≤ e ∧ b.enabledGrades[e]? = some g ∧ fits g ∧
        ∀ j, f ≤ j → j < e → ∀ h, b.enabledGrades[j]? = some h → ¬fits h) ∧
      ∀ g, gradesOrdered b.enabledGrades = true → s.resolveGrade c = some g → b.worst ≤ g.imbalance ∧ b.total ≤ g.total

/-- A load change of δ on carrier i leaves what forming the changed loads anew gives: L[i], T, the sums of R24's indices
i − N/2 + 1 to i and no others, and W. A changed tare does the same for a change of every load (R22). What a load change of a
carousel does besides (R25): a set balance-fault flag clears where the last enabled grade admits the new state; a clear one
is set, with BALANCE-FAULT, where the claim checks it and the state is not admitted (R42, R43); each BALANCE-WAIT task of the
level queues that now passes its release test is QUEUED in its place (R59); work in POWER-WAIT that fails it leaves the wait
list, gives its transit entries back and is BALANCE-WAIT at its queue's head, with nothing in service (R30); an offer pass
follows where the flag was cleared or the carousel still waits for power, and a service point of the carousel. -/
def Obligations.LoadChangeKeepsSums : Prop :=
  (∀ (s : State) (c i : Nat) (δ : Int) (check : Bool), s.bounded → c < 8 →
    let b := (s.bal c).applyChange i δ
    let admits := fun (e : Balance) (w t : Int) => ∃ g, e.enabledGrades.getLast? = some g ∧ w ≤ g.imbalance ∧ t ≤ g.total
    let changed := fun x : Balance => { s with balances := s.balances.set c x }
    let passes := fun (v : State) (k : Task) =>
      let change : Int :=
        if k.kind = .pick then match (v.bay k.bay).tyre with
          | some y => -(((k.quantity - k.taken) * v.weight y.article : Nat) : Int)
          | none => 0
        else match k.tyre with
          | some y => (v.weight y.article : Int)
          | none => 0
      let z := stateOf ((v.bal k.bay.carousel).loads.modify k.bay.carrier (· + change))
      admits (v.bal k.bay.carousel) z.1 z.2
    let admitted := admits b b.worst b.total
    let walk := (s.car c).queue3 ++ (s.car c).queue2 ++ (s.car c).queue1
    ∃ v w x : State,
      ((s.bal c).fault = true → admitted → v = changed { b with fault := false }) ∧
      ((s.bal c).fault = true → ¬admitted → v = changed b) ∧
      ((s.bal c).fault = false → check = true → b.enabledGrades ≠ [] → ¬admitted →
        v = (changed { b with fault := true }).notify (.balanceFault c b.worst b.total)) ∧
      ((s.bal c).fault = false → check = false ∨ b.enabledGrades = [] ∨ admitted → v = changed b) ∧
      w = { v with orderUnit := { v.orderUnit with pool := w.orderUnit.pool } } ∧
      (∀ id k, v.task id = some k → id ∈ walk → k.state = .balanceWait → passes v k →
        w.task id = some { k with state := .queued }) ∧
      (∀ id, id ∉ walk ∨ (∀ k, v.task id = some k → k.state ≠ .balanceWait ∨ ¬passes v k) → w.task id = v.task id) ∧
      (∀ id k, (s.car c).inService = some (.task id) → w.task id = some k → k.state = .powerWait → ¬passes v k →
        k.bay.carousel = c →
        x = { w with
          power := { w.power with waitList := w.power.waitList.filter fun e => e.carousel != c }
          consolidation := { w.consolidation with reserved := w.consolidation.reserved - k.transit }
          carousels := w.carousels.set c (({ s.car c with inService := none } : Carousel).modQueue k.level (id :: ·))
          orderUnit := { w.orderUnit with pool := x.orderUnit.pool }
          agenda := x.agenda } ∧
        x.task id = some { k with state := .balanceWait, transit := 0 } ∧ (∀ j, j ≠ id → x.task j = w.task j) ∧
        c ∈ x.agenda.points ∧ (k.transit ≠ 0 → x.agenda.freed = true)) ∧
      ((∀ id k, (s.car c).inService = some (.task id) → w.task id = some k → k.state ≠ .powerWait ∨ passes v k) →
        x = w) ∧
      s.loadChange c i δ check = (if ((s.bal c).fault = true ∧ admitted) ∨ x.waits c = true then x.offerPass
        else x).notePoint c) ∧
  ∀ (b : Balance) (i : Nat) (δ : Int), b.agrees → i < b.loads.length →
    let n := b.loads.length
    b.applyChange i δ = b.formLoads (b.loads.modify i (· + δ)) ∧
    (∀ j < n / 2, (b.applyChange i δ).halfSums.getD ((i + n - j) % n) 0 = b.halfSums.getD ((i + n - j) % n) 0 + δ) ∧
    (∀ j, n / 2 ≤ j → j < n → (b.applyChange i δ).halfSums.getD ((i + n - j) % n) 0 = b.halfSums.getD ((i + n - j) % n) 0) ∧
    (b.applyChange i δ).total = b.total + δ ∧
    b.changeTare δ = b.formLoads (b.loads.map (· + δ)) ∧ (b.changeTare δ).worst = b.worst

/-! ## Requests: profiles, ports and resets -/

/-- LINK-PROFILE: with every field in its range the profile is replaced whole, the port is ACTIVE and the notices' host is
the request's source; else BAD-VALUE and nothing changed. Its RESULT carries the number it was addressed to.
LINE-PROFILE: omitted fields take 20 ms and 3 repeats; every field in its range and a station number no CAROUSEL profile
and no site record names; else BAD-VALUE and nothing changed. The stop pair drive is left as it stands. -/
def Obligations.ProfilesLoad : Prop :=
  (∀ (s : State) (f : Frame) (station maxPayload enable : Nat), s.asked f (.linkProfile station maxPayload enable) →
    s.quiet →
    (∀ (t : State) (r : Reply), (resultFrame t f r).src = f.dest) ∧
    exec .linkProfile s = .next (
      if station ≤ 254 ∧ 64 ≤ maxPayload ∧ maxPayload ≤ 496 ∧ enable < 262144 then
        ({ s with link := { s.link with
          rx := s.link.rx.drop 1
          profile := some { station := byte station, maxPayload, enable := BitVec.ofNat 32 enable, host := f.src } } }).answer
          f (.done [])
      else ({ s with link := { s.link with rx := s.link.rx.drop 1 } }).answer f (.refused .badValue))) ∧
  ∀ (s : State) (f : Frame) (station : Nat) (window limit : Option Nat) (maxPayload : Nat) (rule : GlobalRule),
    s.asked f (.lineProfile station window limit maxPayload rule) → s.quiet →
    let ok := station ≤ 254 ∧ 5 ≤ window.getD 20 ∧ window.getD 20 ≤ 100 ∧ limit.getD 3 ≤ 7 ∧ 64 ≤ maxPayload ∧
      maxPayload ≤ 496 ∧
      (∀ c < 8, ∀ p, (s.car c).profile = some p →
        byte station ≠ p.drive ∧ byte station ≠ p.reader ∧ byte station ≠ p.keypad) ∧
      (∀ x, s.putAway.site = some x →
        byte station ≠ x.infeed ∧ byte station ≠ x.diverter ∧ byte station ∉ x.laneReaders)
    (ok → exec .lineProfile s = .next (({ s.takeRequest with line := { s.line with
      profile := some { station := byte station, replyWindow := window.getD 20, repeatLimit := limit.getD 3,
                        maxPayload, rule } } }).answer f (.done []))) ∧
    (¬ok → exec .lineProfile s = .next (s.takeRequest.answer f (.refused .badValue)))

/-- PORT-RESET LINE: its RESULT first (the model's order, log 35); then the drive is asserted, the receive queue, FIFO, slots
and error set are emptied, the transmitter stops, the profile goes, every transit entry whose ROUTE was in the FIFO or with
the transmitter is UNROUTED, and each carousel with a MOVE in its slot, or reached by the hold, ends its move in UNHOMED
with its claim released; the follow-ups come last (log 8). A reset that ends a withdrawn task lowers its bay's reserved
(log 38). -/
def Obligations.LinePortResets : Prop :=
  ∀ (s : State) (f : Frame), s.bounded → s.asked f (.portReset .line) →
    let u := (s.takeRequest.answer f (.done [])).resetLine
    let lost := s.outbox.fifo.map OutFrame.entry ++ (s.outbox.tx.held.map fun x => x.frame.entry).toList
    exec .portResetLine s = .next u.settle ∧
      (s.takeRequest.answer f (.done [])).link.tx <+: u.link.tx ∧
      u.line = { rate := s.line.rate, profile := none, errors := {}, rx := [], receiver := .hunting false false,
                 drive := true, outsideHold := s.line.outsideHold } ∧
      u.outbox.fifo = [] ∧ (∀ c < 8, u.slot c = none) ∧ u.outbox.tx = .idle ∧
      u.consolidation.transit =
        s.consolidation.transit.map (fun e => if some e.serial ∈ lost then { e with unrouted := true } else e) ∧
      (∀ c < 8, s.lineHeld = false ∨ (s.slot c).isSome = true → u.heldCar c (s.car c)) ∧
      u.articles = s.articles ∧ u.balances = s.balances ∧ u.filter = s.filter ∧ u.putAway = s.putAway ∧
      u.consolidation.lanes = s.consolidation.lanes ∧ u.power.target = s.power.target ∧ u.audit.list = s.audit.list ∧
      (∀ id, (u.bay id).count = (s.bay id).count ∧ (u.bay id).holds = (s.bay id).holds) ∧ u.pending = s.pending

/-- PORT-RESET LINK queues its RESULT and holds the management unit until it is sent (LinkFrameSent then resets the port);
PORT-CLEAR carries the port's error set as it stood, in the byte of log 11 (the model's choice), and empties it. -/
def Obligations.LinkPortResetAndClear : Prop :=
  ∀ (s : State) (f : Frame),
    (s.asked f (.portReset .link) →
      exec .portResetLink s = .next (s.takeRequest.answer f (.done []) true) ∧
      (s.takeRequest.answer f (.done []) true).link.unitFree = false ∧
      (s.link.tx.length < 16 → (s.takeRequest.answer f (.done []) true).link.tx =
        s.link.tx ++ [{ frame := resultFrame s f (.done []), resets := true }])) ∧
    (s.quiet → s.asked f (.portClear .link) →
      exec .portClear s = .next (({ s with link := { s.link with rx := s.link.rx.drop 1, errors := {} } }).answer f
        (.done [s.link.errors.toByte]))) ∧
    (s.quiet → s.asked f (.portClear .line) →
      exec .portClear s = .next (({ s.takeRequest with line := { s.line with errors := {} } }).answer f
        (.done [s.line.errors.toByte])))

/-- STORE-RESET: what every block keeps and gives up (Table 10-5). That the waiting infeed reads are kept is the model's
choice (log 15). -/
def Obligations.StoreResets : Prop :=
  ∀ (s : State) (f : Frame), s.bounded → s.asked f .storeReset →
    ∃ v : State, exec .storeReset s = .next (v.answer f (.done [])) ∧
      v.articles = s.articles ∧ v.filter = s.filter ∧ v.putAway = s.putAway ∧
      v.bays = s.bays.map (List.map fun b => { b with
        reserved := 0, incoming := 0, tyre := if b.count = 0 then none else b.tyre }) ∧
      v.balances = s.balances.map (fun b => { b with deviation := 0 }) ∧
      v.power = { s.power with budget := s.power.target, claims := [], waitList := [] } ∧
      (∀ c < 8, v.car c = { s.car c with
        state := (match (s.car c).state with
          | .moving => .unhomed
          | .presenting => if (s.car c).faultPending then .driveFault else .ready
          | x => x)
        index := if (s.car c).state = .moving ∨ (s.car c).state = .unhomed then none else (s.car c).index
        faultPending := false, queue3 := [], queue2 := [], queue1 := [], queue0 := [], parked := []
        inService := none, sweep := none, move := none, moveTimer := none, presentationTimer := none }) ∧
      v.orderUnit.orders = [] ∧ v.orderUnit.pool = List.replicate 128 none ∧ v.orderUnit.pending = [] ∧
      v.orderUnit.laneWait = [] ∧ (∀ l ∈ v.consolidation.lanes, l = {}) ∧
      v.consolidation.lanes.length = s.consolidation.lanes.length ∧ v.consolidation.transit = [] ∧
      v.consolidation.reserved = 0 ∧
      v.audit = { s.audit with sweeps := s.audit.sweeps.map fun r => { r with
        stopMark := false, readAttempt := 0, readTimer := none } } ∧
      v.line = { s.line with drive := true } ∧ v.outbox.fifo = s.outbox.fifo ∧ v.outbox.tx = s.outbox.tx ∧
      (∀ c, v.slot c = match s.slot c with
        | some m => if m.chosen then some m else none
        | none => none) ∧
      v.link = (if s.lineHeld then s.takeRequest else s.takeRequest.notify (.lineHeld true)).link ∧
      v.pending = s.pending

/-! ## Requests: tables -/

/-- A TABLE-LOAD applies its entries in turn, each to the state the ones before it left, and stops at the first refused: a
refusal at the first entry is REFUSED with its reason, at a later one PARTIAL with the count applied and the reason, none
is DONE with the count. `load` is any table's entry rule. Each row of TABLE-LOAD completes so, with the entry rule of its
table, from every state in which its request is at the head; that of GRADE adds to DONE and PARTIAL the set of grades its
feed rating disables for each entry applied (the layout is log 12's), and the follow-ups of the step come before the RESULT
(log 8). -/
def Obligations.LoadStopsAtFirstRefusal : Prop :=
  (∀ (load : State → Nat → List Byte → Except Reason State) (s : State) (start : Nat) (entries : List (List Byte)),
    let l := loadAll load start entries { state := s }
    l.applied ≤ entries.length ∧
    (l.refusal = none → l.applied = entries.length ∧ s.tableLoad load start entries =
      (l.state, .done [countByte entries.length])) ∧
    (∀ r, l.refusal = some r → l.applied < entries.length ∧
      load l.state (start + l.applied) (entries.getD l.applied []) = .error r ∧
      (loadAll load start (entries.take l.applied) { state := s }).state = l.state ∧
      (loadAll load start (entries.take l.applied) { state := s }).refusal = none ∧
      s.tableLoad load start entries = (l.state,
        if l.applied = 0 then .refused r else .partly [countByte l.applied, reasonCode r])) ∧
    ∀ bs t, load s start bs = .ok t →
      (loadAll load start (bs :: entries) { state := s }).state =
        (loadAll load (start + 1) entries { state := t.settle }).state) ∧
  ∀ (s : State) (f : Frame) (start : Nat) (entries : List (List Byte)),
    let row := fun (table : TableName) (command : Instr) (load : State → Nat → List Byte → Except Reason State) =>
      s.asked f (.tableLoad table start entries) →
        let r := s.takeRequest.tableLoad load start entries
        exec command s = .next (r.1.settle.answer f r.2)
    row .article .tableLoadArticle State.loadArticle ∧ row .carousel .tableLoadCarousel State.loadCarousel ∧
    row .stock .tableLoadStock State.loadStock ∧ row .filter .tableLoadFilter State.loadFilter ∧
    row .site .tableLoadSite State.loadSite ∧
    (s.asked f (.tableLoad .grade start entries) →
      let l := loadAll State.loadGrade start entries { state := s.takeRequest }
      let sets := (List.range l.applied).map fun k => setByte (feedDisabled (l.state.bal (start + k)).grades)
      (l.refusal = none → l.applied = entries.length ∧
        exec .tableLoadGrade s = .next (l.state.settle.answer f (.done (countByte entries.length :: sets)))) ∧
      ∀ r, l.refusal = some r → l.applied < entries.length ∧
        State.loadGrade l.state (start + l.applied) (entries.getD l.applied []) = .error r ∧
        exec .tableLoadGrade s = .next (l.state.settle.answer f (if l.applied = 0 then .refused r
          else .partly (countByte l.applied :: reasonCode r :: sets))))

/-- One ARTICLE entry: insertion, replacement and deletion under the checks of R4 and R5. An accepted entry is what the
table then gives for its code, and for no other; the table stays in ascending order. -/
def Obligations.ArticleEntryLoads : Prop :=
  ∀ (s : State) (f : Frame) (start : Nat) (bs : List Byte) (a : Article), s.keyed → s.quiet →
    s.asked f (.tableLoad .article start [bs]) → readArticle bs = some a →
    let refused := fun r => exec .tableLoadArticle s = .next (s.takeRequest.answer f (.refused r))
    let recorded := ∃ l ∈ s.bays, ∃ b ∈ l, b.tyre.map Tyre.article = some a.code ∧ 0 < b.count + b.incoming
    let ordered := ∃ o ∈ s.orderUnit.orders, ∃ l ∈ o.lines, l.article = a.code
    let travels := ∃ e ∈ s.consolidation.transit, e.tyre.article = a.code
    let ranges := 1 ≤ a.code ∧ a.code ≤ 4294967294 ∧ 10 ≤ a.weight ∧ a.weight ≤ 1000 ∧ 1 ≤ a.stackLimit ∧
      a.stackLimit ≤ 4 ∧ a.tolerance ≤ 26 ∧ a.width ≤ 3
    let deletion := a.weight = 0 ∧ a.stackLimit = 0 ∧ a.tolerance = 0 ∧ a.zone = 0 ∧ a.width = 0
    let blocked := fun old : Article =>
      ((a.weight ≠ old.weight ∨ a.stackLimit ≠ old.stackLimit) ∧ recorded) ∨ (a.tolerance < old.tolerance ∧ ordered)
    (¬ranges → ¬deletion → refused .badValue) ∧
    (ranges → s.article a.code = none → 512 ≤ s.articles.length → refused .noSpace) ∧
    (∀ old, ranges → s.article a.code = some old → blocked old → refused .inUse) ∧
    (ranges → (s.article a.code = none → s.articles.length < 512) → (∀ old, s.article a.code = some old → ¬blocked old) →
      ∃ table, exec .tableLoadArticle s = .next (({ s.takeRequest with articles := table }).answer f (.done [1])) ∧
        (table.Pairwise fun x y => x.code < y.code) ∧
        ∀ code, table.find? (fun x => x.code == code) = if code = a.code then some a else s.article code) ∧
    (deletion → 1 ≤ a.code → a.code ≤ 4294967294 → s.article a.code = none → refused .unknownItem) ∧
    (∀ old, deletion → 1 ≤ a.code → a.code ≤ 4294967294 → s.article a.code = some old →
      recorded ∨ ordered ∨ travels → refused .inUse) ∧
    ∀ old, deletion → 1 ≤ a.code → a.code ≤ 4294967294 → s.article a.code = some old →
      ¬recorded → ¬ordered → ¬travels →
      exec .tableLoadArticle s = .next (({ s.takeRequest with
        articles := s.articles.filter fun x => x.code != a.code }).answer f (.done [1]))

/-- One CAROUSEL entry: the profile of an OFFLINE carousel. Its bays and loads are formed anew, or kept with a changed tare;
the grades are derived anew and both condition flags re-evaluated; deviation counter, move number and cap are kept. -/
def Obligations.CarouselEntryLoads : Prop :=
  ∀ (s : State) (f : Frame) (c : Nat) (bs : List Byte), s.bounded → s.quiet →
    s.asked f (.tableLoad .carousel c [bs]) →
    let refused := fun r => exec .tableLoadCarousel s = .next (s.takeRequest.answer f (.refused r))
    (8 ≤ c → refused .badValue) ∧
    (c < 8 → (s.car c).state ≠ .offline → refused .wrongState) ∧
    (c < 8 → (s.car c).state = .offline → readProfile bs = none → refused .badValue) ∧
    ∀ p, c < 8 → (s.car c).state = .offline → readProfile bs = some p →
      (p.inRange = false → refused .badValue) ∧
      let others := s.carouselStations (· != c) ++ s.ownLine
      let distinct := (∀ x ∈ [p.drive, p.reader, p.keypad], x ≠ 255 ∧ x ∉ others) ∧ [p.drive, p.reader, p.keypad].Nodup
      let kept := ∃ q, (s.car c).profile = some q ∧ q.carriers = p.carriers ∧ q.bays = p.bays
      (p.inRange = true → ¬distinct → refused .badValue) ∧
      (p.inRange = true → distinct → 1920 < s.bayTotal c p → refused .noSpace) ∧
      (p.inRange = true → distinct → s.bayTotal c p ≤ 1920 → ¬kept →
        (∃ b ∈ s.baysOf c, b.state ≠ .empty ∨ b.holds.any = true) → refused .inUse) ∧
      (p.inRange = true → distinct → s.bayTotal c p ≤ 1920 → s.waits c = false →
        (kept ∨ ∀ b ∈ s.baysOf c, b.state = .empty ∧ b.holds.any = false) →
        ∃ v : State, exec .tableLoadCarousel s = .next (v.answer f (.done [1])) ∧
          v.car c = { s.car c with profile := some p } ∧ (∀ d, d ≠ c → (v.car d).profile = (s.car d).profile) ∧
          v.articles = s.articles ∧ v.orderUnit.orders.map Order.fixed = s.orderUnit.orders.map Order.fixed ∧
          v.power.target = s.power.target ∧
          (v.bal c).cap = (s.bal c).cap ∧ (v.bal c).duty = (s.bal c).duty ∧ (v.bal c).deviation = (s.bal c).deviation ∧
          (v.bal c).grades = (s.bal c).grades.map (fun g => { g with enabled := g.loaded && decide (g.power ≤ p.feed) }) ∧
          (v.bal c).cooling = (if p.hot ≤ (s.bal c).duty then true
            else if (s.bal c).duty ≤ p.warm then false else (s.bal c).cooling) ∧
          (v.bal c).fault = (v.bal c).unadmitted ∧ (∀ d, d ≠ c → v.bal d = s.bal d) ∧
          (¬kept → v.baysOf c = List.replicate (p.carriers * p.bays) {} ∧
            (v.bal c).loads = List.replicate p.carriers (p.tare : Int) ∧
            (v.bal c).total = p.carriers * (p.tare : Int) ∧ (v.bal c).worst = 0) ∧
          (∀ q, (s.car c).profile = some q → q.carriers = p.carriers → q.bays = p.bays →
            (v.baysOf c).map Bay.shelf = (s.baysOf c).map Bay.shelf ∧
            (v.bal c).loads = (s.bal c).loads.map (fun l => l + (p.tare - q.tare : Int)) ∧
            (v.bal c).worst = (s.bal c).worst))

/-- One GRADE entry: the whole grade table of an OFFLINE carousel with a profile; the enabled marks follow from the feed
rating, the fault flag is re-evaluated, and the RESULT reports the records the
feed rating disables, one set byte after the count (log 12's layout). -/
def Obligations.GradeEntryLoads : Prop :=
  ∀ (s : State) (f : Frame) (c : Nat) (bs : List Byte), s.bounded → s.quiet → s.asked f (.tableLoad .grade c [bs]) →
    let refused := fun r => exec .tableLoadGrade s = .next (s.takeRequest.answer f (.refused r))
    (8 ≤ c → refused .badValue) ∧
    (c < 8 → (s.car c).profile = none ∨ (s.car c).state ≠ .offline → refused .wrongState) ∧
    (c < 8 → (s.car c).profile ≠ none → (s.car c).state = .offline → readGrades bs = none → refused .badValue) ∧
    ∀ p gs, c < 8 → (s.car c).profile = some p → (s.car c).state = .offline → readGrades bs = some gs →
      let ranges := ∀ g ∈ gs, g.imbalance ≤ 2000000 ∧ g.total ≤ 2000000 ∧ 1 ≤ g.power ∧ g.power ≤ 6000 ∧ 1 ≤ g.speed ∧
        g.speed ≤ 255
      let ordered := (gs.filter Grade.loaded).Pairwise fun a b =>
        a.imbalance ≤ b.imbalance ∧ a.total ≤ b.total ∧ b.power ≤ a.power
      (¬(ranges ∧ ordered) → refused .badValue) ∧
      (ranges → ordered → s.waits c = false →
        ∃ v : State, exec .tableLoadGrade s = .next (v.answer f (.done [1, setByte ((List.range 8).filter fun i =>
            (gs.getD i {}).loaded && decide (p.feed < (gs.getD i {}).power))])) ∧
          (v.bal c).grades = gs.map (fun g => { g with enabled := g.loaded && decide (g.power ≤ p.feed) }) ∧
          (v.bal c).fault = (v.bal c).unadmitted ∧ (v.bal c).loads = (s.bal c).loads ∧
          (v.bal c).worst = (s.bal c).worst ∧ (v.bal c).cap = (s.bal c).cap ∧ (v.bal c).duty = (s.bal c).duty ∧
          (∀ d, d ≠ c → v.bal d = s.bal d) ∧ v.car c = s.car c ∧ v.articles = s.articles ∧
          v.bays.map (List.map Bay.shelf) = s.bays.map (List.map Bay.shelf))

/-- One STOCK entry: the tests of R19 in order, and the record written whole with its load change; the last sweep is kept,
AUDIT is cleared only where a hold set is carried and no discrepancy entry names the bay. The order of
the tests inside test 4 of R19, an unknown article before a bad hold set among them, is the model's choice (log 9). -/
def Obligations.StockEntryLoads : Prop :=
  ∀ (s : State) (f : Frame) (start : Nat) (bs : List Byte) (e : StockEntry), s.bounded → s.quiet →
    s.asked f (.tableLoad .stock start [bs]) → readStock bs = some e →
    let refused := fun r => exec .tableLoadStock s = .next (s.takeRequest.answer f (.refused r))
    let c := e.bay.carousel
    let b := s.bay e.bay
    let open_ := (s.car c).state = .offline ∨ (s.car c).state = .manual ∨ ((s.bal c).fault = true ∧ s.hasClaim c = false ∧
      ¬((s.car c).state = .presenting ∧ ∃ id, (s.car c).inService = some (.task id)))
    let room := (∃ p, (s.car c).profile = some p ∧ e.bay.carrier < p.carriers ∧ e.bay.bay < p.bays)
    (¬room → refused .badValue) ∧ (room → ¬open_ → refused .wrongState) ∧
    (room → open_ → b.reserved ≠ 0 ∨ b.incoming ≠ 0 → refused .wrongState) ∧
    (room → open_ → b.reserved = 0 → b.incoming = 0 →
      (4 < e.count → refused .badValue) ∧
      (e.count = 0 → e.article ≠ 0 ∨ e.batch ≠ 0 → refused .badValue) ∧
      (0 < e.count → e.count ≤ 4 → s.article e.article = none → refused .unknownItem) ∧
      (0 < e.count → e.count ≤ 4 → s.article e.article ≠ none → s.stackLimit e.article < e.count → refused .badValue) ∧
      ((e.count = 0 ∧ e.article = 0 ∧ e.batch = 0) ∨
          (e.count ≤ 4 ∧ 0 < e.count ∧ (s.article e.article).isSome = true ∧ e.count ≤ s.stackLimit e.article) →
        (∀ h, e.holds = some h → 8 ≤ h ∨ h % 2 = 1 → refused .badValue) ∧
        ((∀ h, e.holds = some h → h < 8 ∧ h % 2 = 0) → c < 8 → s.position e.bay < (s.baysOf c).length →
          ∃ v : State, exec .tableLoadStock s = .next (v.answer f (.done [1])) ∧
            (v.bay e.bay).shelf = {
              tyre := if e.count = 0 then none else some { article := e.article, batch := e.batch }
              count := e.count, incoming := 0, reserved := 0, lastSweep := b.lastSweep
              holds := match e.holds with
                | none => b.holds
                | some h => { audit := b.holds.audit && s.audit.list.any fun d => d.carousel == c &&
                                d.position == s.position e.bay
                              mgmt := h.testBit 1, service := h.testBit 2 } } ∧
            (∀ id, (id.carousel, s.position id) ≠ (e.bay.carousel, s.position e.bay) → (v.bay id).shelf = (s.bay id).shelf) ∧
            (v.bal c).total = (s.bal c).total - s.bayLoad b + e.count * s.weight e.article ∧
            (∀ d, d ≠ c → v.bal d = s.bal d) ∧ v.articles = s.articles ∧ v.audit.list = s.audit.list ∧
            v.consolidation.transit = s.consolidation.transit ∧ v.power.target = s.power.target)))

/-- One FILTER entry: it replaces its element whole; an index above 31, a byte outside Table 9-2 and a RANGE with A above B
are BAD-VALUE and leave the element as it was. -/
def Obligations.FilterEntryLoads : Prop :=
  ∀ (s : State) (f : Frame) (index : Nat) (bs : List Byte), s.quiet → s.asked f (.tableLoad .filter index [bs]) →
    let refused := exec .tableLoadFilter s = .next (s.takeRequest.answer f (.refused .badValue))
    (32 ≤ index → refused) ∧ (readFilter bs = none → refused) ∧
    ∀ e, readFilter bs = some e →
      (e.matchType = .range → e.b < e.a → refused) ∧
      (index < 32 → (e.matchType = .range → e.a ≤ e.b) →
        exec .tableLoadFilter s = .next (({ s.takeRequest with filter := s.filter.set index e }).answer f (.done [1])))

/-- One SITE entry: the record replaced whole, lanes added FREE at the end or removed there; a lane that is not FREE is never
removed; a waiting order, the only one, takes the first lane added. -/
def Obligations.SiteEntryLoads : Prop :=
  ∀ (s : State) (f : Frame) (start : Nat) (bs : List Byte), s.bounded → s.keyed → s.quiet →
    s.asked f (.tableLoad .site start [bs]) →
    let refused := fun r => exec .tableLoadSite s = .next (s.takeRequest.answer f (.refused r))
    (start ≠ 0 → refused .badValue) ∧
    ∀ x, start = 0 → readSite bs = some x →
      let stations := x.infeed :: x.diverter :: x.laneReaders
      let others := s.carouselStations (fun _ => true) ++ s.ownLine
      let ok := 1 ≤ x.laneReaders.length ∧ x.laneReaders.length ≤ 16 ∧ 30 ≤ x.putAge ∧ x.putAge ≤ 900 ∧
        10 ≤ x.presentation ∧ x.presentation ≤ 600 ∧ 5 ≤ x.transit ∧ x.transit ≤ 300 ∧ 1 ≤ x.carrierRead ∧
        x.carrierRead ≤ 30 ∧ stations.Nodup ∧ ∀ z ∈ stations, z ≠ 255 ∧ z ∉ others
      let used := ∃ n l, x.laneReaders.length ≤ n ∧ s.lane n = some l ∧ l.state ≠ .free
      (¬ok → refused .badValue) ∧ (ok → used → refused .inUse) ∧
      (ok → ¬used →
        (s.orderUnit.laneWait = [] → exec .tableLoadSite s = .next (({ s.takeRequest with
          putAway := { s.putAway with site := some x }
          consolidation := { s.consolidation with
            lanes := s.consolidation.lanes.take x.laneReaders.length ++
              List.replicate (x.laneReaders.length - s.consolidation.lanes.length) ({} : Lane) } }).answer f (.done [1]))) ∧
        ∀ number o, s.orderUnit.laneWait = [number] → s.order number = some o →
          s.consolidation.lanes.length < x.laneReaders.length →
          ∃ v : State, exec .tableLoadSite s = .next (v.answer f (.done [1])) ∧ v.putAway.site = some x ∧
            v.orderUnit.laneWait = [] ∧ v.lane s.consolidation.lanes.length =
              some { state := .filling, order := some number, expected := o.total, arrived := 0 } ∧
            (v.order number).map Order.lane = some (some s.consolidation.lanes.length) ∧
            (v.order number).map Order.state = some .picking ∧ v.articles = s.articles ∧ v.balances = s.balances)

/-- TABLE-FETCH and STATUS-FETCH change nothing; their RESULT never exceeds the maximum payload in force. A TABLE-FETCH
returns the entries from its start onward in the table's own order, `entries` here, each with the start that names it:
DONE with all those wanted, PARTIAL with as many whole ones as fit and the start of the next, NO-SPACE where not even one
fits, BAD-VALUE for a start beyond the table or none wanted (a request wants at most 255). An entry's bytes are those of
Table 11-8. A STATUS-FETCH is DONE with the contents of its section (Table 10-4) where they fit and NO-SPACE where they do
not; a carousel outside 0-7 is BAD-VALUE. The model's choices: the flag and error bytes (log 11), the layout of the RESULT
fields and sections and of an absent record (log 12), the floor with no grade that admits, here any value (log 14), the order
of the claims (log 44), article and batch of an ASSIGNED bay (log 45). -/
def Obligations.FetchesChangeNothing : Prop :=
  ∀ (s : State) (f : Frame), s.quiet → 64 ≤ s.linkMax →
    (∀ table start wanted, s.asked f (.tableFetch table start wanted) →
      let c := start / 2 ^ 24
      let position := start % 2 ^ 16
      let marked := fun (n : Nat) (x : Option (List Byte)) => match x with
        | none => 0 :: List.replicate n 0
        | some bs => 1 :: bs
      let article := fun a : Article => beBytes 4 a.code ++ beBytes 2 a.weight ++
        [byte a.stackLimit, byte a.tolerance, a.zone, byte a.width]
      let profile := fun p : Profile => [byte p.carriers, byte p.bays] ++ beBytes 2 p.tare ++ beBytes 2 p.ceiling ++
        beBytes 2 p.feed ++ [p.drive, p.reader, p.keypad] ++ beBytes 4 p.moveFixed ++ beBytes 4 p.movePerCarrier ++
        beBytes 2 p.warm ++ beBytes 2 p.hot ++ [byte p.warmGrade] ++ beBytes 2 p.tolerance ++
        [match p.policy with | .correct => (0 : Byte) | .report => 1]
      let grades := fun gs : List Grade => (List.range 8).flatMap fun i => match gs[i]? with
        | some g => [flagByte g.loaded] ++ beBytes 4 g.imbalance ++ beBytes 4 g.total ++ beBytes 2 g.power ++
            [byte g.speed, flagByte g.enabled,
              if g.enabled then byte ((gs.take i).filter Grade.enabled).length else 0xFF]
        | none => []
      let stock := fun d : Nat => (List.range (s.baysOf d).length).map fun p =>
        let id := s.bayAt d p
        let b := s.bay id
        (d * 2 ^ 24 + p, [byte id.carousel, byte id.carrier, byte id.bay] ++
          beBytes 4 ((b.tyre.map Tyre.article).getD 0) ++ beBytes 2 ((b.tyre.map Tyre.batch).getD 0) ++
          [byte b.count, b.holds.toByte, if b.count ≠ 0 then 2 else if b.incoming = 0 then 0 else 1, byte b.incoming,
            byte b.reserved] ++ (match b.lastSweep with | none => [0, 0, 0] | some n => 1 :: beBytes 2 n))
      let element := fun e : FilterElement => [flagByte e.valid,
        match e.matchType with | .exact => (0 : Byte) | .range => 1 | .mask => 2, e.a, e.b, e.kind.getD 0xFF,
        match e.action with | .deliver => (0 : Byte) | .forward => 1 | .copy => 2 | .discard => 3, flagByte e.urgent]
      let site := match s.putAway.site with
        | some x => [1, x.infeed, x.diverter, x.overflow, byte x.laneReaders.length] ++ x.laneReaders ++
            beBytes 4 x.putAge ++ beBytes 4 x.presentation ++ beBytes 4 x.transit ++ beBytes 4 x.carrierRead
        | none => [0, 0, 0, 0, 0] ++ beBytes 4 120 ++ beBytes 4 90 ++ beBytes 4 60 ++ beBytes 4 5
      let entries : List (Nat × List Byte) := match table with
        | .article => (s.articles.filter fun a => decide (start ≤ a.code)).map fun a => (a.code, article a)
        | .carousel => ((List.range 8).drop start).map fun d => (d, marked 27 ((s.car d).profile.map profile))
        | .grade => ((List.range 8).drop start).map fun d =>
            (d, marked 112 ((s.car d).profile.map fun _ => grades (s.bal d).grades))
        | .stock => (if (s.car c).profile = none then [] else (stock c).drop position) ++
            ((List.range 8).drop (c + 1)).flatMap stock
        | .filter => ((List.range 32).drop start).map fun i => (i, element (s.filter.getD i {}))
        | .site => [(0, site)]
      let beyond : Prop := match table with
        | .article => False
        | .carousel | .grade => 8 ≤ start
        | .stock => 8 ≤ c ∨ ((s.car c).profile ≠ none ∧ (s.baysOf c).length ≤ position)
        | .filter => 32 ≤ start
        | .site => start ≠ 0
      let sent := fun n : Nat => (entries.take n).flatMap Prod.snd
      let whole := min wanted entries.length
      ∃ r, exec .tableFetch s = .next (s.takeRequest.answer f r) ∧ 3 + r.fields.length ≤ s.linkMax ∧
        (wanted = 0 ∨ beyond → r = .refused .badValue) ∧
        (0 < wanted → wanted ≤ 255 → ¬beyond → s.filter.length = 32 →
          (8 + (sent whole).length ≤ s.linkMax → r = .done ([byte whole, 0, 0, 0, 0] ++ sent whole)) ∧
          (∀ n e, 0 < n → n < whole → 8 + (sent n).length ≤ s.linkMax → s.linkMax < 8 + (sent (n + 1)).length →
            entries[n]? = some e → r = .partly (byte n :: beBytes 4 e.1 ++ sent n)) ∧
          (0 < whole → s.linkMax < 8 + (sent 1).length → r = .refused .noSpace))) ∧
    ∀ x, s.asked f (.statusFetch x) →
      let marked := fun (n : Nat) (y : Option (List Byte)) => match y with
        | none => 0 :: List.replicate n 0
        | some bs => 1 :: bs
      let items := fun l : List (List Byte) => countByte l.length :: l.flatten
      let ports :=
        [flagByte s.link.profile.isSome] ++
        marked 7 (s.link.profile.map fun p => [p.station] ++ beBytes 2 p.maxPayload ++ beBytes 4 p.enable.toNat) ++
        [s.link.errors.toByte, flagByte s.line.profile.isSome] ++
        marked 9 (s.line.profile.map fun p => [p.station] ++ beBytes 4 p.replyWindow ++ [byte p.repeatLimit] ++
          beBytes 2 p.maxPayload ++ [match p.rule with | .forward => (0 : Byte) | .discard => 1]) ++
        [s.line.errors.toByte, countByte s.line.rx.length, flagByte s.line.drive,
          flagByte (s.line.drive || s.line.outsideHold), countByte s.outbox.fifo.length,
          setByte ((List.range 8).filter fun c => (s.slot c).isSome)]
      let power := beBytes 2 s.power.target ++ beBytes 2 s.power.budget ++
        beBytes 2 (s.power.claims.map Claim.draw).sum ++
        items (s.power.claims.map fun y => byte y.carousel :: beBytes 2 y.draw) ++
        items (s.power.waitList.map fun y => [byte y.carousel, byte y.level])
      let carousel := fun (c free : Nat) =>
        let k := s.car c
        let b := s.bal c
        let floor := if k.profile = none ∨ b.enabledGrades = [] then none else some ((s.floor c).getD free)
        [carouselStateCode k.state, flagByte b.cooling, flagByte b.fault, flagByte k.faultPending] ++
        marked 1 (k.index.map (beBytes 1)) ++ beBytes 4 b.worst.toNat ++ beBytes 4 b.total.toNat ++ beBytes 2 b.duty ++
        marked 1 (floor.map (beBytes 1)) ++ [byte b.cap, countByte k.queue3.length, countByte k.queue2.length,
          countByte k.queue1.length, countByte k.queue0.length] ++ items (k.parked.map fun id => [byte id]) ++
        (match k.inService with | none => [0, 0] | some (.task id) => [1, byte id] | some .step => [2, 0] : List Byte) ++
        match k.sweep with
          | none => List.replicate 9 (0 : Byte)
          | some w => [if k.inService = some .step then (1 : Byte) else 2] ++ beBytes 2 w.number ++
              [match (s.sweepRecord c).origin with | .request => (0 : Byte) | .automatic => 1, byte w.next, byte w.last,
                countByte w.done, countByte w.mismatches, match w.policy with | .correct => (0 : Byte) | .report => 1]
      let store := [countByte s.orderUnit.orders.length, countByte s.orderUnit.pending.length,
          countByte s.orderUnit.laneWait.length,
          countByte (128 - ((List.range 128).filter fun id => decide (s.orderUnit.pool[id]? = some none)).length),
          countByte s.consolidation.transit.length, countByte s.consolidation.reserved,
          countByte (s.consolidation.transit.filter TransitEntry.unrouted).length] ++
        items (s.consolidation.lanes.map fun l =>
          [laneStateCode l.state] ++ marked 4 (l.order.map (beBytes 4)) ++ [byte l.expected, byte l.arrived]) ++
        [countByte s.audit.list.length, countByte s.audit.overflow, flagByte s.audit.listFull]
      ∃ (r : Reply) (free : Nat), exec .statusFetch s = .next (s.takeRequest.answer f r) ∧
        3 + r.fields.length ≤ s.linkMax ∧ (x = .ports → r.outcome = .done) ∧
        (∀ c, 8 ≤ c → x = .carousel c → r = .refused .badValue) ∧
        ((∀ c, x = .carousel c → c < 8) →
          let contents := match x with
            | .ports => ports
            | .power => power
            | .carousel c => carousel c free
            | .store => store
          (3 + contents.length ≤ s.linkMax → r = .done contents) ∧
          (s.linkMax < 3 + contents.length → r = .refused .noSpace))

/-! ## Requests: modes, caps and power -/

/-- CAROUSEL-MODE ONLINE: the tests of R50 in order out of OFFLINE, MANUAL and DRIVE-FAULT, then UNHOMED with its index
unknown and a STATUS-QUERY; a further query in UNHOMED; nothing in READY, MOVING or PRESENTING. A query lost at a full FIFO
uses its tag up (the model's choice, log 41). -/
def Obligations.OnlineIsTested : Prop :=
  ∀ (s : State) (f : Frame) (c : Nat), s.quiet → s.bounded → s.asked f (.carouselMode c .online) →
    let refused := fun r => exec .carouselModeOnline s = .next (s.takeRequest.answer f (.refused r))
    let away := (s.car c).state = .offline ∨ (s.car c).state = .manual ∨ (s.car c).state = .driveFault
    let b := s.bal c
    let asks := fun (u : State) (drive : Byte) => ∃ t : State,
      exec .carouselModeOnline s = .next (t.answer f (.done [])) ∧ u.Builds drive kindStatusQuery [] t
    (8 ≤ c → refused .badValue) ∧
    (c < 8 → away → (s.car c).profile = none → refused .wrongState) ∧
    (c < 8 → away → (s.car c).profile ≠ none → b.enabledGrades = [] → refused .wrongState) ∧
    (c < 8 → away → (s.car c).profile ≠ none → b.enabledGrades ≠ [] →
      b.fault = true ∨ b.admits b.worst b.total = false → refused .balance) ∧
    (c < 8 → away → (s.car c).profile ≠ none → b.enabledGrades ≠ [] → b.fault = false →
      b.admits b.worst b.total = true → s.hasClaim c = true → refused .inUse) ∧
    (∀ p, c < 8 → away → (s.car c).profile = some p → b.enabledGrades ≠ [] → b.fault = false →
      b.admits b.worst b.total = true → s.hasClaim c = false →
      asks { s.takeRequest with
        carousels := s.carousels.set c { s.car c with state := .unhomed, index := none } } p.drive) ∧
    (∀ p, c < 8 → (s.car c).state = .unhomed → (s.car c).profile = some p → asks s.takeRequest p.drive) ∧
    (c < 8 → (s.car c).state = .ready ∨ (s.car c).state = .moving ∨ (s.car c).state = .presenting →
      exec .carouselModeOnline s = .next (s.takeRequest.answer f (.done [])))

/-- CAROUSEL-MODE OFFLINE and MANUAL: IN-USE while a task targets the carousel, a step is in service or a claim is kept; the
mode it is in already changes nothing; else a sweep ends with AUDIT-DONE and cause MODE, the state changes, OFFLINE loses
the index, MANUAL keeps it, and the pending mark is cleared. -/
def Obligations.ModesTakeOutOfService : Prop :=
  ∀ (s : State) (f : Frame) (c : Nat) (mode : Mode) (state : CarouselState) (i : Instr), s.quiet → s.bounded →
    (mode = .offline ∧ state = .offline ∧ i = .carouselModeOffline) ∨
      (mode = .manual ∧ state = .manual ∧ i = .carouselModeManual) →
    s.asked f (.carouselMode c mode) →
    let inUse := (∃ id t, s.task id = some t ∧ t.bay.carousel = c) ∨ (s.car c).inService = some .step ∨ s.hasClaim c = true
    let index := if mode = .manual then (s.car c).index else none
    (8 ≤ c → exec i s = .next (s.takeRequest.answer f (.refused .badValue))) ∧
    (c < 8 → inUse → exec i s = .next (s.takeRequest.answer f (.refused .inUse))) ∧
    (c < 8 → ¬inUse → (s.car c).state = state → exec i s = .next (s.takeRequest.answer f (.done []))) ∧
    (c < 8 → ¬inUse → (s.car c).state ≠ state → (s.car c).sweep = none →
      exec i s = .next (({ s.takeRequest with carousels := s.carousels.set c { s.car c with
        state, index, faultPending := false } }).answer f (.done []))) ∧
    ∀ w, c < 8 → ¬inUse → (s.car c).state ≠ state → (s.car c).sweep = some w →
      let u := s.takeRequest.notify (.auditDone c w.number (s.sweepRecord c).origin .mode w.done w.mismatches)
      exec i s = .next (({ u with
        carousels := s.carousels.set c { s.car c with state, index, faultPending := false, sweep := none }
        audit := { s.audit with sweeps := s.audit.sweeps.set c { s.sweepRecord c with
          stopMark := false, readAttempt := 0, readTimer := none } } }).answer f (.done []))

/-- GRADE-CAP: the index is stored as the carousel's management cap, in every state and with or without a profile, and an
offer pass follows (`State.offerPass`; ServicePointServes says what one offer does); a number outside 0-7 is BAD-VALUE.
POWER-BUDGET: the target is stored, E becomes the larger of target and C, an offer pass follows, and the RESULT carries E and
C as they then stand; no claim granted is taken back. The offer pass leaves all but what it serves. That the follow-ups run
before the step ends (log 8), and that C is read after them (log 20), is the model's choice. -/
def Obligations.CapAndBudgetMakeOfferPass : Prop :=
  (∀ (s : State) (f : Frame) (c index : Nat), s.quiet → s.bounded → s.asked f (.gradeCap c index) →
    (8 ≤ c ∨ 8 ≤ index → exec .gradeCap s = .next (s.takeRequest.answer f (.refused .badValue))) ∧
    (c < 8 → index < 8 →
      let u := { s.takeRequest with balances := s.balances.set c { s.bal c with cap := index } }
      exec .gradeCap s = .next (u.offerPass.settle.answer f (.done [])) ∧ u.Serves u.offerPass.settle ∧
        (s.power.waitList = [] → u.offerPass.settle = u))) ∧
  ∀ (s : State) (f : Frame) (target : Nat), s.quiet → s.asked f (.powerBudget target) →
    let u := { s.takeRequest with power := { s.power with target, budget := max target s.power.claimed } }
    let v := u.offerPass.settle
    exec .powerBudget s = .next (v.answer f (.done (beBytes 2 (max target s.power.claimed) ++ beBytes 2 v.power.claimed))) ∧
      u.Serves v ∧ (s.power.waitList = [] → v = u)

/-- A service point walks levels 3, 2, 1: a task it passes over keeps its place; the first eligible one fails the release
test (BALANCE-WAIT, and the walk goes on) or is released; with none released the sweep's next step begins (R55, R57 to
R60). Work begun is presented at its carrier, else its move starts with the grade found (R61, R34), else it enters
POWER-WAIT (R36). A task presented starts the presentation timer and is shown at the mouth: PLACE with quantity 1 and the
width class of its own article (R84), or PICK with the quantity still to take and the width class of the bay's article
(R112); a step starts its first read attempt with a SCAN-CARRIER (R66, R143). An offer pass offers each waiting move a start, in
list order (R36). An INDICATE or SCAN-CARRIER lost at a full FIFO uses its tag up (the model's choice, log 41). -/
def Obligations.ServicePointServes : Prop :=
  ∀ (s : State) (c : Nat), s.bounded → c < 8 →
    let start : State → Nat → Nat → Nat → Option State := fun v c level target =>
      match v.resolveGrade c, (v.car c).profile, (v.car c).index with
      | some g, some p, some i =>
        let up := (target + p.carriers - i) % p.carriers
        let down := (i + p.carriers - target) % p.carriers
        let number := ((v.car c).moveNumber + 1) % 256
        let x : State := { v with power := { v.power with claims := v.power.claims ++ [Claim.mk c g.power] } }
        let y := (x.placeMove c level p.drive [byte target, if up ≤ down then 0 else 1, byte g.speed, byte number]).modCar c
          fun k => { k with
            state := .moving
            moveNumber := number
            move := some { target, start := i, ascending := decide (up ≤ down), distance := min up down, draw := g.power } }
        some (match (v.car c).inService with
          | some (.task id) => y.modTask id fun k => { k with state := .moving }
          | _ => y)
      | _, _, _ => none
    let begun : State → Work → Nat → Nat → State → Prop := fun v w level target t =>
      let x := v.modCar c fun k => { k with inService := some w }
      if (v.car c).index = some target then t = x.present c
      else match start x c level target with
        | some y => t = y
        | none => ∃ pre post, let e : WaitEntry := { carousel := c, level, sequence := v.power.nextSequence }
            v.power.waitList.filter (fun y => y.carousel != c) = pre ++ post ∧ (∀ y ∈ pre, level ≤ y.level) ∧
            (∀ y, post.head? = some y → y.level < level) ∧
            let z := { x with power := { v.power with waitList := pre ++ e :: post, nextSequence := v.power.nextSequence + 1 } }
            t = match w with
              | .task id => z.modTask id fun k => { k with state := .powerWait }
              | .step => z
    let moves := (s.bal c).cooling = false ∧ (s.bal c).fault = false ∧ s.lineHeld = false
    let eligible := fun k : Task => k.state = .queued ∧ ((s.car c).index = some k.bay.carrier ∨ moves)
    let entries := fun k : Task => if k.kind = .pick then k.quantity - k.taken else 0
    let room := fun k : Task => k.kind = .pick → s.consolidation.transit.length + s.consolidation.reserved + entries k ≤ 64
    let passes := fun k : Task =>
      let change : Int :=
        if k.kind = .pick then match (s.bay k.bay).tyre with
          | some y => -(((k.quantity - k.taken) * s.weight y.article : Nat) : Int)
          | none => 0
        else match k.tyre with
          | some y => (s.weight y.article : Int)
          | none => 0
      let z := stateOf ((s.bal k.bay.carousel).loads.modify k.bay.carrier (· + change))
      ∃ e, (s.bal k.bay.carousel).enabledGrades.getLast? = some e ∧ z.1 ≤ e.imbalance ∧ z.2 ≤ e.total
    let passed := fun j : Nat => ∀ k, s.task j = some k → ¬eligible k ∨ (passes k ∧ ¬room k)
    let walk := (s.car c).queue3 ++ (s.car c).queue2 ++ (s.car c).queue1
    let idle := (s.car c).state = .ready ∧ (s.car c).inService = none
    (¬idle → s.servicePoint c = s) ∧
    (idle → ∀ (pre : List Nat) (id : Nat) (post : List Nat) (k : Task), walk = pre ++ id :: post →
        (∀ j ∈ pre, passed j) → s.task id = some k → eligible k →
      (¬passes k → s.servicePoint c = (s.modTask id fun x => { x with state := .balanceWait }).servicePoint c) ∧
      (passes k → room k →
        let v := (State.modTask { s
            with consolidation := { s.consolidation with reserved := s.consolidation.reserved + entries k } } id
          fun x => { x with transit := if k.kind = .pick then entries k else x.transit }).modCar c fun x => x.unqueue id
        begun v (.task id) k.level k.bay.carrier (s.servicePoint c))) ∧
    (idle → (∀ j ∈ walk, passed j) →
      ((s.car c).sweep = none → s.servicePoint c = s) ∧
      ∀ w, (s.car c).sweep = some w →
        ((s.car c).index = some w.next ∨ moves → begun s .step 0 w.next (s.servicePoint c)) ∧
        (¬((s.car c).index = some w.next ∨ moves) → s.servicePoint c = s)) ∧
    (∀ id k p, (s.car c).inService = some (.task id) → s.task id = some k → (s.car c).profile = some p →
      let article := match k.kind with
        | .put => k.tyre.map Tyre.article
        | .pick => (s.bay k.bay).tyre.map Tyre.article
      let width := (article.map s.widthClass).getD 0
      State.Builds ((s.modTask id fun x => { x with state := .presenting }).modCar c fun x => { x with
        state := .presenting, presentationTimer := some (s.now + s.presentationMs) }) p.reader kindIndicate
        (match k.kind with
          | .put => [byte k.bay.bay, 1, 1, byte width]
          | .pick => [byte k.bay.bay, 0, byte (k.quantity - k.taken), byte width]) (s.present c)) ∧
    (∀ w p, (s.car c).inService = some .step → (s.car c).sweep = some w → (s.car c).profile = some p →
      State.Builds { s with
        carousels := s.carousels.set c { s.car c with state := .presenting }
        audit := { s.audit with sweeps := s.audit.sweeps.set c { s.sweepRecord c with
          readAttempt := 1, readTimer := some (s.now + s.carrierReadMs) } } }
        p.reader kindScanCarrier [byte w.next, byte p.bays] (s.present c)) ∧
    (∀ level dest payload, (s.placeMove c level dest payload).slot c =
      some { frame := { dest, kind := kindMove, tag := s.outbox.tagCounter, payload }, level }) ∧
    s.offerPass = s.power.waitList.foldl (fun v e =>
      if (v.bal e.carousel).cooling = true ∨ (v.bal e.carousel).fault = true ∨ v.lineHeld = true then v
      else match v.targetCarrier e.carousel with
        | some target => match start v e.carousel e.level target with
          | some y => { y with power := { y.power with waitList := y.power.waitList.filter fun x => x.carousel != e.carousel } }
          | none => v
        | none => v) s

/-! ## Requests: orders, allocation and lanes -/

/-- ORDER-PLACE: the tests of R93 in order; an order that passes joins the order table with its lines and groups, holds the
lowest FREE lane or waits for one, and under PARTIAL keeps only groups that are allocated whole. The steps of R94: the order
seated, on the lane wait list after every order that is not of lower priority (R95); every group allocated in turn by line and
group number (AllocationDraws says what one attempt does); under WAIT the short groups join the pending list by its four keys
(R105) with ORDER-SHORT (R102); under PARTIAL they leave their lines, the lane expects the new total, ORDER-SHORT is sent, and
an order of total 0 is removed, its lane freed and offered (R96) or its place on the lane wait list left (R103); then the
RESULT with number, lane, total, groups allocated and groups short. That the follow-ups come before the RESULT enters the
queue is log 8's choice. -/
def Obligations.OrderPlaceIsTested : Prop :=
  ∀ (s : State) (f : Frame) (number : Nat) (priority : Priority) (policy : ShortPolicy) (lines : List LineRequest),
    s.quiet → s.asked f (.orderPlace number priority policy lines) →
    let refused := fun r => exec .orderPlace s = .next (s.takeRequest.answer f (.refused r))
    let shape := number ≠ 0 ∧ 1 ≤ lines.length ∧ lines.length ≤ 8 ∧
      (∀ l ∈ lines, 1 ≤ l.quantity ∧ l.quantity ≤ 16 ∧ (l.setSize = 1 ∨ l.setSize = 2 ∨ l.setSize = 4) ∧
        l.quantity % l.setSize = 0) ∧ (lines.map LineRequest.quantity).sum ≤ 16
    let known := ∀ l ∈ lines, s.article l.article ≠ none
    (¬shape → refused .badValue) ∧ (shape → ¬known → refused .unknownItem) ∧
    (shape → known → s.order number ≠ none → refused .inUse) ∧
    (shape → known → s.order number = none → 64 ≤ s.orderUnit.orders.length → refused .noSpace) ∧
    (shape → known → s.order number = none → s.orderUnit.orders.length < 64 →
      ∃ (v : State) (fields : List Byte), exec .orderPlace s = .next (v.answer f (.done fields)) ∧
        fields.take 4 = beBytes 4 number ∧ v.articles = s.articles ∧ v.balances = s.balances ∧
        v.bays.map (List.map Bay.shelf) = s.bays.map (List.map Bay.shelf) ∧
        v.consolidation.transit = s.consolidation.transit ∧ v.power.target = s.power.target ∧
        (policy = .wait →
          v.orderUnit.orders.map Order.fixed = s.orderUnit.orders.map Order.fixed ++
            [{ number, priority, policy
               lane := s.freeLane
               state := if s.freeLane = none then .laneWait else .picking
               lines := lines.map fun l => { article := l.article, quantity := l.quantity, setSize := l.setSize
                                             groups := (List.range (l.quantity / l.setSize)).map fun n =>
                                               { number := n, need := 0 } } }] ∧
          (∀ lane, s.freeLane = some lane → v.lane lane = some { state := .filling, order := some number,
                                                                  expected := (lines.map LineRequest.quantity).sum }) ∧
          (s.freeLane = none → number ∈ v.orderUnit.laneWait)) ∧
        (policy = .part → ∀ o, v.order number = some o →
          ∀ l ∈ o.lines, l.quantity = l.setSize * l.groups.length ∧ ∀ g ∈ l.groups, g.need = 0)) ∧
    (s.bounded → shape → known → s.order number = none → s.orderUnit.orders.length < 64 →
      let total := (lines.map LineRequest.quantity).sum
      let record : Order := { number, priority, policy
                              lane := s.freeLane
                              state := if s.freeLane = none then .laneWait else .picking
                              lines := lines.map fun l => { article := l.article, quantity := l.quantity, setSize := l.setSize
                                                            groups := (List.range (l.quantity / l.setSize)).map fun n =>
                                                              { number := n, need := l.setSize } } }
      let refs := lines.zipIdx.flatMap fun x =>
        (List.range (x.1.quantity / x.1.setSize)).map fun n => GroupRef.mk number x.2 n
      ∃ before after : List Nat, s.orderUnit.laneWait = before ++ after ∧
        (∀ m ∈ before, m ≠ number → priority = .rush → (s.order m).map Order.priority = some .rush) ∧
        (∀ m o, after.head? = some m → s.order m = some o → priority = .rush ∧ o.priority = .normal) ∧
        let seated : State := { s.takeRequest with
          orderUnit := { s.orderUnit with
            orders := s.orderUnit.orders ++ [record]
            laneWait := if s.freeLane = none then before ++ number :: after else s.orderUnit.laneWait }
          consolidation := { s.consolidation with lanes := match s.freeLane with
            | some n => s.consolidation.lanes.modify n fun _ => { state := .filling, order := some number, expected := total }
            | none => s.consolidation.lanes } }
        let done := refs.foldl (fun (a : State × List GroupRef) ref =>
          if (a.1.allocateGroup ref).2 = true then ((a.1.allocateGroup ref).1, a.2)
          else ((a.1.allocateGroup ref).1, a.2 ++ [ref])) (seated, [])
        let y := done.1
        let short := done.2
        ∃ z : State,
          exec .orderPlace s = .next (z.settle.answer f (.done (beBytes 4 number ++
            optBytes 1 ((z.order number).bind Order.lane) ++
            [countByte (((z.order number).map fun o => (o.lines.map OrderLine.quantity).sum).getD 0),
              countByte (refs.length - short.length), countByte short.length]))) ∧
          (short = [] → z = y) ∧
          (short ≠ [] → policy = .wait → ∃ joined,
            z = State.notify { y with orderUnit := { y.orderUnit with pending := joined } }
              (.orderShort number .wait short.length total) ∧
            (∀ g, g ∈ joined ↔ g ∈ y.orderUnit.pending ∨ g ∈ short) ∧
            (y.orderUnit.pending.Pairwise (fun a b => keyBefore (y.pendingKey b) (y.pendingKey a) = false) →
              joined.Pairwise fun a b => keyBefore (y.pendingKey b) (y.pendingKey a) = false)) ∧
          (short ≠ [] → policy = .part → ∃ o, y.order number = some o ∧
            let left := o.lines.mapIdx fun i l => { l with
              quantity := l.quantity - l.setSize * (short.filter fun g => g.line == i).length
              groups := l.groups.filter fun g => decide (GroupRef.mk number i g.number ∉ short) }
            let rest := (left.map OrderLine.quantity).sum
            let noticed := State.notify { y with
              orderUnit := { y.orderUnit with
                orders := y.orderUnit.orders.map fun q => if q.number = number then { q with lines := left } else q }
              consolidation := { y.consolidation with lanes := match o.lane with
                | some n => y.consolidation.lanes.modify n fun l => { l with expected := rest }
                | none => y.consolidation.lanes } } (.orderShort number .part short.length rest)
            let gone := { noticed with orderUnit := { noticed.orderUnit with
              orders := noticed.orderUnit.orders.filter fun q => q.number != number } }
            (rest ≠ 0 → z = noticed) ∧
            (rest = 0 → ∀ n, o.lane = some n → State.Offers { gone with consolidation := { gone.consolidation with
              lanes := gone.consolidation.lanes.modify n fun _ => {} } } n z) ∧
            (rest = 0 → o.lane = none → z = { gone with orderUnit := { gone.orderUnit with
              laneWait := gone.orderUnit.laneWait.filter fun m => m != number } })))

/-- One allocation attempt: the candidates (R98); no anchor, or too few free records, changes nothing (R99, R97); else the
draws run over the anchor's span in R100's order, each bay whole but the last, each draw raises its bay's reserved and
becomes a QUEUED task, the group's need is 0 with its window widened, and each task joins its level queue's tail or, in
LANE-WAIT, the held list (R101). -/
def Obligations.AllocationDraws : Prop :=
  ∀ (s : State) (ref : GroupRef) (o : Order) (g : Group), s.bounded → s.order ref.order = some o →
    s.group ref = some g → 0 < g.need →
    let article := s.groupArticle ref
    let t := s.tolerance article
    let cands := s.candidates article g.need g.window []
    let span := fun x => cands.filter fun c => decide (x ≤ c.batch) && decide (c.batch ≤ x + t)
    let total := fun l : List Candidate => (l.map Candidate.available).sum
    let before := fun a b : Candidate => a.batch < b.batch ∨ (a.batch = b.batch ∧ (b.available < a.available ∨
      (a.available = b.available ∧ (a.bay.carousel < b.bay.carousel ∨ (a.bay.carousel = b.bay.carousel ∧
        (a.bay.carrier < b.bay.carrier ∨ (a.bay.carrier = b.bay.carrier ∧ a.bay.bay < b.bay.bay)))))))
    let place := fun (v : State) (id : Nat) =>
      if o.state = .laneWait then v.modOrder o.number fun x => { x with held := x.held ++ [id] }
      else match v.task id with
        | some k => (v.modCar k.bay.carousel fun x => x.modQueue k.level (· ++ [id])).servicePoint k.bay.carousel
        | none => v
    (∀ x : Candidate, x ∈ cands ↔ ∃ c p, c < 8 ∧ p < (s.baysOf c).length ∧ x.bay = s.bayAt c p ∧
      ((s.car c).state = .ready ∨ (s.car c).state = .moving ∨ (s.car c).state = .presenting) ∧ (s.bal c).fault = false ∧
      (s.bay x.bay).tyre = some { article, batch := x.batch } ∧ (s.bay x.bay).holds.any = false ∧
      x.available = (s.bay x.bay).count - (s.bay x.bay).reserved ∧ 0 < x.available ∧
      (∀ w, g.window = some w → max w.high x.batch - min w.low x.batch ≤ t) ∧
      let z := stateOf ((s.bal c).loads.modify x.bay.carrier
        (· - ((min x.available g.need * s.weight article : Nat) : Int)))
      ∃ e, (s.bal c).enabledGrades.getLast? = some e ∧ z.1 ≤ e.imbalance ∧ z.2 ≤ e.total) ∧
    ((∀ x ∈ cands, total (span x.batch) < g.need) → s.allocateGroup ref = (s, false)) ∧
    ∀ x ∈ cands, g.need ≤ total (span x.batch) → (∀ y ∈ cands, y.batch < x.batch → total (span y.batch) < g.need) →
      ∃ (full : List Candidate) (last : Candidate), (full ++ [last]).Pairwise before ∧
        (∀ c ∈ full ++ [last], c ∈ span x.batch) ∧ (∀ c ∈ span x.batch, c ∈ full ++ [last] ∨ before last c) ∧
        total full < g.need ∧ g.need ≤ total full + last.available ∧
        let plan := full.map (fun c => Draw.mk c.bay c.batch c.available) ++ [Draw.mk last.bay last.batch (g.need - total full)]
        let free := (List.range 128).filter fun id => (s.task id).isNone
        (free.length < plan.length → s.allocateGroup ref = (s, false)) ∧
        (plan.length ≤ free.length → ∃ (u : State) (w : Window),
          s.allocateGroup ref = ((free.take plan.length).foldl place u, true) ∧
          u = { s with
            bays := u.bays
            orderUnit := { s.orderUnit with
              pool := u.orderUnit.pool
              orders := (s.modGroup ref fun y => { y with
                need := 0
                tasks := y.tasks ++ free.take plan.length
                window := plan.foldl (fun w d => widen w d.batch) y.window }).orderUnit.orders
              pending := s.orderUnit.pending.filter (· != ref) } } ∧
          u.group ref = some { g with need := 0, tasks := g.tasks ++ free.take plan.length, window := some w } ∧
          (∀ d ∈ plan, w.low ≤ d.batch ∧ d.batch ≤ w.high) ∧
          (∀ v, g.window = some v → w.low ≤ v.low ∧ v.high ≤ w.high) ∧
          ((∃ d ∈ plan, d.batch = w.low) ∨ ∃ v, g.window = some v ∧ v.low = w.low) ∧
          ((∃ d ∈ plan, d.batch = w.high) ∨ ∃ v, g.window = some v ∧ v.high = w.high) ∧
          (∀ (i id : Nat) (d : Draw), free[i]? = some id → plan[i]? = some d → u.task id = some {
            kind := .pick, level := if o.priority = .rush then 3 else 2, bay := d.bay, quantity := d.quantity, taken := 0
            order := ref.order, line := ref.line, group := ref.group
            state := .queued, withdrawn := false, transit := 0 }) ∧
          (∀ id, id ∉ free.take plan.length → u.task id = s.task id) ∧
          (∀ d ∈ plan, u.bay d.bay = { s.bay d.bay with reserved := (s.bay d.bay).reserved + d.quantity }) ∧
          ∀ c p, s.bayAt c p ∉ plan.map Draw.bay → u.bay (s.bayAt c p) = s.bay (s.bayAt c p))

/-- ORDER-WITHDRAW: UNKNOWN-ITEM and WRONG-STATE as R107 gives them; else the order leaves both lists, each of its tasks is
ended or marked, an order without a lane leaves the table and one with a lane is WITHDRAWN, its lane tested for RETURN. The
tasks are taken one after the other, in an order left free (log 6). Table 5-12 for one task: QUEUED or BALANCE-WAIT it leaves
its queue or the order's held list; in POWER-WAIT the wait list, the carousel with nothing in service and a service point
to come; STALLED the parked set; in MOVING with its MOVE unsent the MOVE is removed and the claim released, the carousel READY
(R67); PRESENTING the mouth is shown CANCELLED and the presentation ends (R125); each of these ends: its record is freed, its
bay's reserved falls by what was not taken, its transit entries are given back, a retry is asked for and its group takes no
need. In MOVING with the MOVE sent it is only marked. The model's own: a CANCELLED indication lost at a full FIFO uses its tag
up (log 41); the task lists of the order's groups stand as they are (log 28). -/
def Obligations.OrderWithdraws : Prop :=
  (∀ (s : State) (number : Nat) (o : Order), s.order number = some o →
    let u : State := { s with orderUnit := { s.orderUnit with
      pending := s.orderUnit.pending.filter fun r => r.order != number
      laneWait := s.orderUnit.laneWait.filter fun n => n != number
      orders := s.orderUnit.orders.map fun p => if p.number = number then { p with state := .withdrawn } else p } }
    ∃ (order : List Nat) (choices : Nat), order.Nodup ∧
      (∀ id, id ∈ order ↔ id < 128 ∧ ∃ t, s.task id = some t ∧ t.kind = .pick ∧ t.order = number ∧ t.withdrawn = false) ∧
      let w := order.foldl Withdrawal.task { state := { u with choices } }
      s.withdrawOrder number = { w with state := match o.lane with
        | none => { w.state with orderUnit := { w.state.orderUnit with
            orders := w.state.orderUnit.orders.filter fun p => p.number != number } }
        | some _ => w.state.drainTest number }) ∧
  (∀ (w : Withdrawal) (id : Nat) (t : Task), w.state.bounded → w.state.task id = some t → t.kind = .pick →
    t.withdrawn = false → t.bay.carousel < 8 → w.state.position t.bay < (w.state.baysOf t.bay.carousel).length →
    (w.state.order t.order).map Order.state = some .withdrawn →
    let s := w.state
    let c := t.bay.carousel
    let k := s.car c
    let ended := fun v : State =>
      w.task id = { state := v, ended := w.ended + 1, marked := w.marked } ∧ v.task id = none ∧
      v.bay t.bay = { s.bay t.bay with reserved := (s.bay t.bay).reserved - (t.quantity - t.taken) } ∧
      v.consolidation = { s.consolidation with reserved := s.consolidation.reserved - t.transit } ∧
      (t.transit ≠ 0 → v.agenda.freed = true) ∧ v.orderUnit.retry = .all ∧
      v.orderUnit.pending = s.orderUnit.pending ∧ v.balances = s.balances ∧
      (t.state ≠ .queued → t.state ≠ .balanceWait → v.orderUnit.orders = s.orderUnit.orders)
    (t.state = .ended → w.task id = w) ∧
    (t.state = .queued ∨ t.state = .balanceWait → ∃ v, ended v ∧ v.power = s.power ∧ v.car c = { k with
        queue3 := k.queue3.filter (· != id), queue2 := k.queue2.filter (· != id), queue1 := k.queue1.filter (· != id)
        queue0 := k.queue0.filter (· != id) } ∧
      v.orderUnit.orders = s.orderUnit.orders.map fun o =>
        if o.number = t.order then { o with held := o.held.filter (· != id) } else o) ∧
    (t.state = .powerWait → ∃ v, ended v ∧
      v.power = { s.power with waitList := s.power.waitList.filter fun e => e.carousel != c } ∧
      v.car c = { k with inService := none } ∧ c ∈ v.agenda.points) ∧
    (t.state = .stalled → ∃ v, ended v ∧ v.power = s.power ∧ v.car c = { k with parked := k.parked.filter (· != id) }) ∧
    (∀ m, t.state = .moving → s.slot c = some m → m.chosen = false → s.waits c = false → ∃ v, ended v ∧
      v.slot c = none ∧ v.hasClaim c = false ∧
      v.car c = { k with state := .ready, inService := none, move := none, moveTimer := none } ∧ c ∈ v.agenda.points) ∧
    (t.state = .moving → (∀ m, s.slot c = some m → m.chosen = true) → w.task id = { w with
      state := s.modTask id fun x => { x with withdrawn := true }, marked := w.marked + 1 }) ∧
    (∀ p, t.state = .presenting → k.profile = some p → ∃ v shown, ended v ∧
      s.Builds p.reader kindIndicate [byte t.bay.bay, 3, 0, 0] shown ∧ v.outbox = shown.outbox ∧ v.line = shown.line ∧
      v.power = s.power ∧ v.car c = { k with
        state := if k.faultPending then .driveFault else .ready
        inService := none, presentationTimer := none, faultPending := false } ∧
      (k.faultPending = false → c ∈ v.agenda.points ∧ v.link = s.link) ∧
      (k.faultPending = true → v.link = (s.notify (.carouselFault c .drive k.index)).link))) ∧
  ∀ (s : State) (f : Frame) (number : Nat), s.bounded → s.keyed → s.quiet → s.asked f (.orderWithdraw number) →
    (s.order number = none → exec .orderWithdraw s = .next (s.takeRequest.answer f (.refused .unknownItem))) ∧
    ∀ o, s.order number = some o →
      (o.state = .withdrawn → exec .orderWithdraw s = .next (s.takeRequest.answer f (.refused .wrongState))) ∧
      (o.state ≠ .withdrawn → (∀ id t, s.task id = some t → t.state ≠ .ended) →
        ∃ (v : State) (ended marked : Nat), exec .orderWithdraw s = .next (v.answer f (.done
            ([countByte ended, countByte marked] ++ optBytes 1 o.lane ++
              [countByte (s.consolidation.transit.filter fun e => e.group.order == number).length]))) ∧
          ended + marked = (s.tasksOf number).length ∧
          (∀ id t, v.task id = some t → t.kind = .pick → t.order = number → t.withdrawn = true) ∧
          (∀ r ∈ v.orderUnit.pending, r.order ≠ number) ∧ number ∉ v.orderUnit.laneWait ∧
          (o.lane = none → v.order number = none) ∧
          (∀ lane, o.lane = some lane → (v.order number).map Order.state = some .withdrawn ∧
            ∀ l, s.lane lane = some l → ∃ l', v.lane lane = some l' ∧ l'.expected = l.expected ∧ l'.arrived = l.arrived ∧
              (l'.state = .returning ↔ l.state = .returning ∨ (l.state ≠ .free ∧
                ∀ e ∈ s.consolidation.transit, e.group.order ≠ number))) ∧
          v.articles = s.articles ∧ v.balances = s.balances ∧ v.consolidation.transit = s.consolidation.transit ∧
          (∀ id, (v.bay id).count = (s.bay id).count ∧ (v.bay id).holds = (s.bay id).holds) ∧
          v.power.target = s.power.target)

/-- LANE-RELEASE: no such lane is BAD-VALUE; a FREE lane, and a FILLING one but for a withdrawn order with nothing in transit,
is WRONG-STATE; else, step by step (R138): an order not WITHDRAWN is withdrawn, its tasks ended or marked as OrderWithdraws
says; its transit entries go; what these report is taken (the model's order, log 8); the order goes, the lane is FREE, and is
offered to the lane wait list (R96); with no one waiting it stays FREE. -/
def Obligations.LaneReleases : Prop :=
  ∀ (s : State) (f : Frame) (n : Nat), s.bounded → s.keyed → s.quiet → s.asked f (.laneRelease n) →
    (s.lane n = none → exec .laneRelease s = .next (s.takeRequest.answer f (.refused .badValue))) ∧
    ∀ l, s.lane n = some l →
      (l.state = .free → exec .laneRelease s = .next (s.takeRequest.answer f (.refused .wrongState))) ∧
      ∀ number o, l.order = some number → s.order number = some o → o.lane = some n →
        let drained := o.state = .withdrawn ∧ ∀ e ∈ s.consolidation.transit, e.group.order ≠ number
        (l.state = .filling → ¬drained → exec .laneRelease s = .next (s.takeRequest.answer f (.refused .wrongState))) ∧
        (l.state = .complete ∨ l.state = .exception ∨ l.state = .returning ∨ (l.state = .filling ∧ drained) →
          let w : Withdrawal := if o.state = .withdrawn then { state := s.takeRequest } else s.takeRequest.withdrawOrder number
          let ours := fun e : TransitEntry => e.group.order == number
          let emptied : State := { w.state with
            consolidation := { w.state.consolidation with transit := w.state.consolidation.transit.filter fun e => !ours e }
            agenda := { w.state.agenda with freed := w.state.agenda.freed || w.state.consolidation.transit.any ours } }
          let y := emptied.settle
          ∃ x : State, exec .laneRelease s = .next (x.settle.answer f (.done (beBytes 4 number ++ [byte l.expected,
              byte l.arrived, countByte (w.state.consolidation.transit.filter ours).length, countByte w.ended,
              countByte w.marked]))) ∧
            State.Offers { y with
              orderUnit := { y.orderUnit with orders := y.orderUnit.orders.filter fun q => q.number != number }
              consolidation := { y.consolidation with lanes := y.consolidation.lanes.modify n fun _ => {} } } n x) ∧
        (l.state = .complete ∨ l.state = .exception ∨ l.state = .returning ∨ (l.state = .filling ∧ drained) →
          s.orderUnit.laneWait = [] →
          ∃ (v : State) (left ended marked : Byte), exec .laneRelease s = .next (v.answer f (.done
              (beBytes 4 number ++ [byte l.expected, byte l.arrived, left, ended, marked]))) ∧
            left = countByte (s.consolidation.transit.filter fun e => e.group.order == number).length ∧
            (o.state = .withdrawn → ended = 0 ∧ marked = 0) ∧
            v.lane n = some ({} : Lane) ∧ v.order number = none ∧
            v.consolidation.transit = (s.consolidation.transit.filter fun e => e.group.order != number) ∧
            (∀ m, m ≠ n → v.lane m = s.lane m) ∧ v.articles = s.articles ∧ v.balances = s.balances ∧
            (∀ id, (v.bay id).count = (s.bay id).count ∧ (v.bay id).holds = (s.bay id).holds))

/-! ## Requests: holds, audits and tasks -/

/-- HOLD-RANGE over the positions from the first to the smaller of first + count − 1 and the last: SET and CLEAR change MGMT
there and nowhere else; a SET that meets the bay of the task in service stops there with PARTIAL. A CLEAR that leaves at
least one bay of the range with an empty hold set asks for one retry over all groups, else for none (R16); that the pass comes
before the RESULT is the model's order (log 8). A carousel number above 7 is BAD-VALUE (the model's choice, log 27). An operation that is neither SET nor CLEAR is BAD-VALUE after the profile is
tested (R16; that such a code is read and not BAD-FORMAT is log 9). -/
def Obligations.HoldRangeCoversRange : Prop :=
  (∀ (s : State) (f : Frame) (c : Nat) (i : Instr), s.quiet → i = .holdRangeSet ∨ i = .holdRangeClear →
    s.asked f (.holdRangeOther c) →
    (c < 8 → (s.car c).profile = none → exec i s = .next (s.takeRequest.answer f (.refused .wrongState))) ∧
    (8 ≤ c ∨ (s.car c).profile ≠ none → exec i s = .next (s.takeRequest.answer f (.refused .badValue)))) ∧
  ∀ (s : State) (f : Frame) (c first count : Nat) (on : Bool) (i : Instr), s.bounded → s.quiet →
    (on = true ∧ i = .holdRangeSet) ∨ (on = false ∧ i = .holdRangeClear) → s.asked f (.holdRange c first count on) →
    let last := (s.baysOf c).length
    let refused := fun r => exec i s = .next (s.takeRequest.answer f (.refused r))
    let covers := fun (v : State) (stop : Nat) =>
      (∀ p < last, ((v.baysOf c).getD p {}).holds = if first ≤ p ∧ p < stop
        then { ((s.baysOf c).getD p {}).holds with mgmt := on } else ((s.baysOf c).getD p {}).holds) ∧
      (∀ d p, ((v.baysOf d).getD p {}).count = ((s.baysOf d).getD p {}).count) ∧
      (∀ d p, d ≠ c → ((v.baysOf d).getD p {}).holds = ((s.baysOf d).getD p {}).holds) ∧
      v.articles = s.articles ∧ v.balances = s.balances ∧ v.consolidation.transit = s.consolidation.transit ∧
      v.audit.list = s.audit.list ∧ v.power.target = s.power.target
    (8 ≤ c → refused .badValue) ∧ (c < 8 → (s.car c).profile = none → refused .wrongState) ∧
    (c < 8 → (s.car c).profile ≠ none → count < 1 ∨ 240 < count ∨ last ≤ first → refused .badValue) ∧
    (c < 8 → (s.car c).profile ≠ none → 1 ≤ count → count ≤ 240 → first < last →
      (on = false ∨ (∀ p, first ≤ p → p < first + count → s.inServiceBay c ≠ some (s.bayAt c p)) →
        ∃ v : State, exec i s = .next (v.answer f (.done [byte (min count (last - first))])) ∧ covers v (first + count)) ∧
      (on = false →
        let u : State := { s.takeRequest with bays := s.bays.modify c fun l => l.mapIdx fun p b =>
          if first ≤ p ∧ p < first + count then { b with holds := { b.holds with mgmt := false } } else b }
        let answered := fun v : State => exec i s = .next (v.answer f (.done [byte (min count (last - first))]))
        ((∃ p, first ≤ p ∧ p < first + count ∧ p < last ∧ ((u.baysOf c).getD p {}).holds = {}) →
          answered (u.noteRetry .all).settle) ∧
        ((∀ p, first ≤ p → p < first + count → p < last → ((u.baysOf c).getD p {}).holds ≠ {}) → answered u)) ∧
      ∀ q, on = true → first ≤ q → q < first + count → q < last → s.inServiceBay c = some (s.bayAt c q) →
        (∀ id t, s.task id = some t → t.state = .powerWait → t.bay.carousel ≠ c) →
        ∃ v : State, exec i s = .next (v.answer f (.partly (byte (q - first) :: beBytes 2 q))) ∧ covers v q)

/-- R17 and R18. A bay that does not exist, past the last of its carousel or of a carousel without a profile, is BAD-VALUE in
both. BAY-SEIZE of the bay of the task in service is WRONG-STATE; else it reports SERVICE, count and reserved as
they stood (reserved 0 where SERVICE was set) and sets SERVICE, the bay's first reason withdrawing the tasks that draw on
it. BAY-UNSEIZE reports and clears SERVICE; a hold set that becomes empty is a retry event (R14, R106). The flag's byte is
log 11's choice, and that the retry comes before the RESULT is log 8's. -/
def Obligations.SeizeAndUnseize : Prop :=
  ∀ (s : State) (f : Frame) (id : BayId), s.bounded → s.quiet →
    let exists_ := id.carousel < 8 ∧ ∃ p, (s.car id.carousel).profile = some p ∧ id.carrier < p.carriers ∧ id.bay < p.bays
    (¬exists_ →
      (s.asked f (.baySeize id) → exec .baySeize s = .next (s.takeRequest.answer f (.refused .badValue))) ∧
      (s.asked f (.bayUnseize id) → exec .bayUnseize s = .next (s.takeRequest.answer f (.refused .badValue)))) ∧
    (s.position id < (s.baysOf id.carousel).length →
    let b := s.bay id
    (s.asked f (.baySeize id) →
      (s.bayExists id = false → exec .baySeize s = .next (s.takeRequest.answer f (.refused .badValue))) ∧
      (s.bayExists id = true → s.inServiceBay id.carousel = some id →
        exec .baySeize s = .next (s.takeRequest.answer f (.refused .wrongState))) ∧
      (s.bayExists id = true → s.inServiceBay id.carousel ≠ some id →
        ∃ v : State, exec .baySeize s = .next (v.answer f (.done
            [flagByte b.holds.service, byte b.count, if b.holds.service then 0 else byte b.reserved])) ∧
          (v.bay id).holds = { b.holds with service := true } ∧ (b.holds.service = true → v = s.takeRequest) ∧
          (b.holds.any = false → ∀ k t, v.task k = some t → t.kind = .pick → t.bay = id →
            t.state = .moving ∨ t.state = .presenting ∨ t.state = .ended) ∧
          (∀ j, (v.bay j).count = (s.bay j).count) ∧
          (∀ j, (j.carousel, s.position j) ≠ (id.carousel, s.position id) → (v.bay j).holds = (s.bay j).holds) ∧
          v.balances = s.balances ∧ v.articles = s.articles ∧ v.consolidation.transit = s.consolidation.transit)) ∧
    (s.asked f (.bayUnseize id) →
      (s.bayExists id = false → exec .bayUnseize s = .next (s.takeRequest.answer f (.refused .badValue))) ∧
      (s.bayExists id = true →
        let u := s.takeRequest.modBay id fun x => { x with holds := { x.holds with service := false } }
        let free := b.holds.service = true ∧ b.holds.audit = false ∧ b.holds.mgmt = false
        exec .bayUnseize s = .next ((if free then (u.noteRetry .all).settle else u).answer f
          (.done [flagByte b.holds.service])))))

/-- AUDIT-START tests in order and writes the save area under the next sweep number, SUSPENDED; AUDIT-STOP ends a sweep with
no step moving or presented at once with AUDIT-DONE, and marks the step that moves or is presented. The RESULT's byte that
says which of the two is log 11's choice. -/
def Obligations.AuditsStartAndStop : Prop :=
  ∀ (s : State) (f : Frame) (c : Nat), s.bounded → s.quiet →
    (∀ first last policy, s.asked f (.auditStart c first last policy) →
      let refused := fun r => exec .auditStart s = .next (s.takeRequest.answer f (.refused r))
      let n := s.carriersOf c
      let serving := (s.car c).state = .ready ∨ (s.car c).state = .moving ∨ (s.car c).state = .presenting
      let number := (s.audit.sweepCounter + 1) % 65536
      (8 ≤ c → refused .badValue) ∧ (c < 8 → (s.car c).sweep ≠ none → refused .inUse) ∧
      (c < 8 → (s.car c).sweep = none → ¬serving → refused .wrongState) ∧
      (c < 8 → (s.car c).sweep = none → serving → n ≤ first ∨ n ≤ last → refused .badValue) ∧
      (c < 8 → (s.car c).sweep = none → serving → first < n → last < n →
        ∃ v : State, exec .auditStart s = .next (v.answer f (.done
            (beBytes 2 number ++ [countByte ((if first ≤ last then last - first else n + last - first) + 1)]))) ∧
          State.Follows { s.takeRequest with
            carousels := s.carousels.set c { s.car c with
              sweep := some { next := first, last, done := 0, mismatches := 0, policy, number } }
            audit := { s.audit with
              sweepCounter := number
              sweeps := s.audit.sweeps.set c { s.sweepRecord c with
                origin := .request, stopMark := false, readAttempt := 0 } } } v)) ∧
    (s.asked f (.auditStop c) →
      (8 ≤ c → exec .auditStop s = .next (s.takeRequest.answer f (.refused .badValue))) ∧
      (c < 8 → (s.car c).sweep = none → exec .auditStop s = .next (s.takeRequest.answer f (.refused .wrongState))) ∧
      ∀ w, c < 8 → (s.car c).sweep = some w →
        let runs := (s.car c).inService = some .step ∧ ((s.car c).state = .moving ∨ (s.car c).state = .presenting)
        (runs → exec .auditStop s = .next (({ s.takeRequest with audit := { s.audit with
          sweeps := s.audit.sweeps.set c { s.sweepRecord c with stopMark := true } } }).answer f
            (.done (beBytes 2 w.number ++ [0])))) ∧
        (¬runs → ∃ v : State, exec .auditStop s = .next (v.answer f (.done (beBytes 2 w.number ++ [1]))) ∧
          State.Follows { s.takeRequest.notify (.auditDone c w.number (s.sweepRecord c).origin .stopped w.done w.mismatches)
              with
            carousels := s.carousels.set c { s.car c with
              sweep := none
              inService := if (s.car c).inService = some .step then none else (s.car c).inService }
            audit := { s.audit with sweeps := s.audit.sweeps.set c { s.sweepRecord c with
              stopMark := false, readAttempt := 0, readTimer := none } } } v))

/-- DISCREPANCY-RESOLVE: the tests of R153 in order; then KEEP-RECORDED leaves the record as it stands, and ACCEPT-FOUND and
SET write the found or explicit state and its load change, or are refused with BAD-VALUE above the stack limit and IN-USE
where tyres are incoming that the state does not fit (R13). The entry goes, the list-full mark of a full list is cleared,
and AUDIT is cleared where no other entry names the bay. The flag's byte (log 11) and the presence bytes of article and batch
(log 12) in the RESULT are the model's choice. -/
def Obligations.ResolveRemovesEntry : Prop :=
  (∀ (s : State) (f : Frame) (number a b n : Nat), s.quiet → s.asked f (.resolve number (.set a b n)) →
    4 < n ∨ (n = 0 ∧ (a ≠ 0 ∨ b ≠ 0)) →
    exec .discrepancyResolveSet s = .next (s.takeRequest.answer f (.refused .badValue))) ∧
  ∀ (s : State) (f : Frame) (number : Nat) (action : ResolveAction) (i : Instr) (e : Discrepancy), s.bounded → s.keyed →
    s.quiet → s.asked f (.resolve number action) →
    (i = .discrepancyResolveKeepRecorded ∧ action = .keepRecorded) ∨
      (i = .discrepancyResolveAcceptFound ∧ action = .acceptFound) ∨
      (i = .discrepancyResolveSet ∧ ∃ a b n, action = .set a b n ∧ n ≤ 4 ∧ (n = 0 → a = 0 ∧ b = 0)) →
    ((∀ x ∈ s.audit.list, x.number ≠ number) →
      exec i s = .next (s.takeRequest.answer f (.refused .unknownItem))) ∧
    (e ∈ s.audit.list → e.number = number →
      let id := s.bayAt e.carousel e.position
      let b := s.bay id
      let k := s.car e.carousel
      let blocked := k.state = .moving ∨ s.hasClaim e.carousel = true ∨ (k.state = .presenting ∧
        ((∃ t, k.inService = some (.task t)) ∨ (k.inService = some .step ∧ k.sweep.map SweepContext.next = some id.carrier)))
      (s.bayExists id = false → exec i s = .next (s.takeRequest.answer f (.refused .badValue))) ∧
      (s.bayExists id = true → blocked → exec i s = .next (s.takeRequest.answer f (.refused .wrongState))) ∧
      (s.bayExists id = true → ¬blocked → action = .acceptFound → e.kind = .unread ∨ 2 ≤ e.found.length ∨
          (∃ z ∈ e.found, s.article z.tyre.article = none) →
        exec i s = .next (s.takeRequest.answer f (.refused .badValue))) ∧
      (∀ x y n, s.bayExists id = true → ¬blocked → action = .set x y n → 0 < n → s.article x = none →
        exec i s = .next (s.takeRequest.answer f (.refused .unknownItem))) ∧
      ∀ found : Option (Option Found), s.bayExists id = true → ¬blocked → e.position < (s.baysOf e.carousel).length →
        (action = .keepRecorded ∧ found = none) ∨
          (action = .acceptFound ∧ e.kind ≠ .unread ∧ e.found.length ≤ 1 ∧ found = some e.found.head?) ∨
          (∃ x y n, action = .set x y n ∧
            found = some (if n = 0 then none else some { tyre := { article := x, batch := y }, count := n })) →
        (∀ z, found = some (some z) → 0 < z.count ∧ (s.article z.tyre.article).isSome = true) →
        (∀ z, found = some (some z) → s.stackLimit z.tyre.article < z.count →
          exec i s = .next (s.takeRequest.answer f (.refused .badValue))) ∧
        (∀ z, found = some (some z) → z.count ≤ s.stackLimit z.tyre.article → 0 < b.incoming →
          b.tyre ≠ some z.tyre ∨ s.stackLimit z.tyre.article < z.count + b.incoming →
          exec i s = .next (s.takeRequest.answer f (.refused .inUse))) ∧
        ((∀ z, found = some (some z) → z.count + b.incoming ≤ s.stackLimit z.tyre.article ∧
          (0 < b.incoming → b.tyre = some z.tyre)) →
        let written : Bay := match found with
          | none => b
          | some none => { b with tyre := if b.incoming = 0 then none else b.tyre, count := 0 }
          | some (some z) => { b with tyre := some z.tyre, count := z.count }
        let rest := s.audit.list.filter fun x => x.number != number
        let named := ∃ x ∈ rest, x.carousel = e.carousel ∧ x.position = e.position
        ∃ v : State, exec i s = .next (v.answer f (.done ([byte number, resolveCode action,
            flagByte (decide (¬named) && b.holds.audit), byte written.count] ++ tyreOptBytes written.tyre))) ∧
          v.audit.list = rest ∧ v.audit.listFull = (s.audit.listFull && decide (s.audit.list.length < 32)) ∧
          (named → (v.bay id).shelf = written.shelf) ∧
          (¬named → (v.bay id).shelf = { written.shelf with holds := { b.holds with audit := false } }) ∧
          (v.bal e.carousel).total = (s.bal e.carousel).total + s.bayLoad written - s.bayLoad b ∧
          (∀ d, d ≠ e.carousel → v.bal d = s.bal d) ∧ v.articles = s.articles ∧
          v.consolidation.transit = s.consolidation.transit))

/-- A presentation timer expiry parks the task (R66, R87, R121): STALLED, its transit entries given back, TASK-STALLED, and
the presentation ends in READY, or in DRIVE-FAULT where a drive fault is pending. TASK-REPRESENT returns a parked task to the
head of the queue of its level; TASK-ABANDON ends it, its remainder leaving the bay and going back to its group. What the
parking reports is taken before the carousel is idle, the rest at the step's end (the model's order, log 8). -/
def Obligations.TasksStallAndAreSettled : Prop :=
  (∀ (s : State) (c id : Nat) (k : Task), s.bounded → c < 8 →
    (s.quiet → (s.car c).presentationTimer = none → exec (.presentationTimerExpiry c) s = .next s) ∧
    ((s.car c).state = .presenting → (s.car c).presentationTimer ≠ none → (s.car c).inService = some (.task id) →
      s.task id = some k →
      let v := ((((s.taskState id .stalled).giveBackTask id).modCar c fun x => { x with
        parked := x.parked ++ [id], inService := none }).notify (.taskStalled id k.kind k.bay k.quantity k.taken))
      let u := v.settle.presentationEnd c
      exec (.presentationTimerExpiry c) s = .next u.settle ∧
        u.task id = some { k with state := .stalled, transit := 0 } ∧
        v.consolidation.reserved = s.consolidation.reserved - k.transit ∧
        u.car c = { s.car c with
          state := if (s.car c).faultPending then .driveFault else .ready
          parked := (s.car c).parked ++ [id]
          inService := none, presentationTimer := none, faultPending := false
          queue3 := (u.car c).queue3, queue2 := (u.car c).queue2, queue1 := (u.car c).queue1
          queue0 := (u.car c).queue0 } ∧
        (s.notify (.taskStalled id k.kind k.bay k.quantity k.taken)).link.tx <+: u.link.tx ∧
        u.balances = s.balances ∧ u.articles = s.articles ∧ u.audit.list = s.audit.list ∧
        u.bays.map (List.map Bay.shelf) = s.bays.map (List.map Bay.shelf) ∧ u.pending = s.pending)) ∧
  ∀ (s : State) (f : Frame) (id : Nat), s.bounded → s.quiet →
    (∀ i, (i = .taskRepresent ∧ s.asked f (.taskRepresent id)) ∨ (i = .taskAbandon ∧ s.asked f (.taskAbandon id)) →
      (128 ≤ id → exec i s = .next (s.takeRequest.answer f (.refused .badValue))) ∧
      (id < 128 → (∀ k, s.task id = some k → k.state ≠ .stalled) →
        exec i s = .next (s.takeRequest.answer f (.refused .tooLate)))) ∧
    ∀ k, s.task id = some k → k.state = .stalled → k.bay.carousel < 8 →
      let c := k.bay.carousel
      (s.asked f (.taskRepresent id) →
        let u := (s.takeRequest.represent id).1
        exec .taskRepresent s = .next (u.settle.answer f (.done [])) ∧
          u.task id = some { k with state := .queued } ∧ u.car c = ({ s.car c with
            parked := (s.car c).parked.filter (· != id) } : Carousel).modQueue k.level (id :: ·) ∧
          (u.car c).queue k.level = id :: (s.car c).queue k.level ∧ c ∈ u.agenda.points ∧
          u.bays = s.bays ∧ u.balances = s.balances ∧ u.articles = s.articles ∧ u.consolidation = s.consolidation ∧
          (∀ j, j ≠ id → u.task j = s.task j) ∧ ∀ d, d ≠ c → u.car d = s.car d) ∧
      (s.asked f (.taskAbandon id) → s.position k.bay < (s.baysOf c).length →
        let u := (s.takeRequest.abandon id).1
        exec .taskAbandon s = .next (u.settle.answer f (.done [])) ∧
          u.task id = none ∧ u.car c = { s.car c with parked := (s.car c).parked.filter (· != id) } ∧
          (k.kind = .pick → (u.bay k.bay).reserved = (s.bay k.bay).reserved - (k.quantity - k.taken) ∧
            (u.bay k.bay).incoming = (s.bay k.bay).incoming) ∧
          (k.kind = .put → k.taken = 0 → (u.bay k.bay).incoming = (s.bay k.bay).incoming - 1 ∧
            (u.bay k.bay).reserved = (s.bay k.bay).reserved) ∧
          (k.kind = .pick → k.withdrawn = false → ∀ o g, s.order k.order = some o → o.state ≠ .withdrawn →
            s.group k.ref = some g → u.group k.ref = some { g with
              need := g.need + (k.quantity - k.taken), tasks := g.tasks.filter (· != id) } ∧
            (k.taken < k.quantity → k.ref ∈ u.orderUnit.pending)) ∧
          u.orderUnit.retry = .all ∧
          (u.bay k.bay).count = (s.bay k.bay).count ∧ u.balances = s.balances ∧ u.articles = s.articles ∧
          u.consolidation.reserved = s.consolidation.reserved - k.transit ∧
          (∀ j, j ≠ id → u.task j = s.task j) ∧ ∀ d, d ≠ c → u.car d = s.car d)

/-- BAD_FORMAT_REQUEST: a request that cannot be read is answered REFUSED with BAD-FORMAT, to its source with its tag and its
kind byte; the RESULT joins the transmit queue, or waits for a place. A request whose code lies outside a list that the rule
of its kind tests itself is answered REFUSED with BAD-VALUE and changes nothing (which kinds these are is log 9's reading). -/
def Obligations.BadFormatAnswered : Prop :=
  (∀ (s : State) (r : Received) (rest : List Received), s.link.unitFree = true → s.link.rx = r :: rest →
    r.request = true → readRequest r.frame = none →
    let out : Outgoing := { frame := {
      dest := r.frame.src
      src := if r.frame.kind = kindLinkProfile then r.frame.dest else s.ownLink
      kind := 0x30, tag := r.frame.tag, payload := [2, 2, r.frame.kind] } }
    exec .badFormatRequest s = .next (
      if s.link.tx.length < 16 then { s with link := { s.link with rx := rest, tx := s.link.tx ++ [out] } }
      else { s with link := { s.link with rx := rest, waiting := some out } })) ∧
  ∀ (s : State) (f : Frame) (kind : Byte) (command : Instr), s.quiet → s.asked f (.outsideList kind) →
    (kind, command) ∈ [(kindLineProfile, Instr.lineProfile), (kindPortClear, .portClear), (kindPortReset, .portResetLine),
      (kindPortReset, .portResetLink), (kindStatusFetch, .statusFetch), (kindCarouselMode, .carouselModeOnline),
      (kindCarouselMode, .carouselModeOffline), (kindCarouselMode, .carouselModeManual), (kindOrderPlace, .orderPlace),
      (kindAuditStart, .auditStart), (kindDiscrepancyResolve, .discrepancyResolveAcceptFound),
      (kindDiscrepancyResolve, .discrepancyResolveKeepRecorded), (kindDiscrepancyResolve, .discrepancyResolveSet)] →
    exec command s = .next (s.takeRequest.answer f (.refused .badValue))
end

