-- ==== Sys2Proof/Laws/State.lean ====
section
/-! SUPPORT. One lemma per field of State for each record update the model makes: what the update writes, and every field it
leaves. -/

namespace Sys2Proof.Machine

variable (s : State)

/-! ### modCar -/

@[simp] theorem State.modCar_now (c : Nat) (f : Carousel → Carousel) : (s.modCar c f).now = s.now := rfl
@[simp] theorem State.modCar_link (c : Nat) (f : Carousel → Carousel) : (s.modCar c f).link = s.link := rfl
@[simp] theorem State.modCar_line (c : Nat) (f : Carousel → Carousel) : (s.modCar c f).line = s.line := rfl
@[simp] theorem State.modCar_filter (c : Nat) (f : Carousel → Carousel) : (s.modCar c f).filter = s.filter := rfl
@[simp] theorem State.modCar_outbox (c : Nat) (f : Carousel → Carousel) : (s.modCar c f).outbox = s.outbox := rfl
@[simp] theorem State.modCar_articles (c : Nat) (f : Carousel → Carousel) :
    (s.modCar c f).articles = s.articles := rfl
@[simp] theorem State.modCar_bays (c : Nat) (f : Carousel → Carousel) : (s.modCar c f).bays = s.bays := rfl
@[simp] theorem State.modCar_balances (c : Nat) (f : Carousel → Carousel) :
    (s.modCar c f).balances = s.balances := rfl
@[simp] theorem State.modCar_power (c : Nat) (f : Carousel → Carousel) : (s.modCar c f).power = s.power := rfl
@[simp] theorem State.modCar_carousels (c : Nat) (f : Carousel → Carousel) :
    (s.modCar c f).carousels = s.carousels.modify c f := rfl
@[simp] theorem State.modCar_putAway (c : Nat) (f : Carousel → Carousel) : (s.modCar c f).putAway = s.putAway := rfl
@[simp] theorem State.modCar_orderUnit (c : Nat) (f : Carousel → Carousel) :
    (s.modCar c f).orderUnit = s.orderUnit := rfl
@[simp] theorem State.modCar_consolidation (c : Nat) (f : Carousel → Carousel) :
    (s.modCar c f).consolidation = s.consolidation := rfl
@[simp] theorem State.modCar_audit (c : Nat) (f : Carousel → Carousel) : (s.modCar c f).audit = s.audit := rfl
@[simp] theorem State.modCar_agenda (c : Nat) (f : Carousel → Carousel) : (s.modCar c f).agenda = s.agenda := rfl
@[simp] theorem State.modCar_choices (c : Nat) (f : Carousel → Carousel) : (s.modCar c f).choices = s.choices := rfl
@[simp] theorem State.modCar_pending (c : Nat) (f : Carousel → Carousel) : (s.modCar c f).pending = s.pending := rfl

/-! ### modBal -/

@[simp] theorem State.modBal_now (c : Nat) (f : Balance → Balance) : (s.modBal c f).now = s.now := rfl
@[simp] theorem State.modBal_link (c : Nat) (f : Balance → Balance) : (s.modBal c f).link = s.link := rfl
@[simp] theorem State.modBal_line (c : Nat) (f : Balance → Balance) : (s.modBal c f).line = s.line := rfl
@[simp] theorem State.modBal_filter (c : Nat) (f : Balance → Balance) : (s.modBal c f).filter = s.filter := rfl
@[simp] theorem State.modBal_outbox (c : Nat) (f : Balance → Balance) : (s.modBal c f).outbox = s.outbox := rfl
@[simp] theorem State.modBal_articles (c : Nat) (f : Balance → Balance) : (s.modBal c f).articles = s.articles := rfl
@[simp] theorem State.modBal_bays (c : Nat) (f : Balance → Balance) : (s.modBal c f).bays = s.bays := rfl
@[simp] theorem State.modBal_balances (c : Nat) (f : Balance → Balance) :
    (s.modBal c f).balances = s.balances.modify c f := rfl
@[simp] theorem State.modBal_power (c : Nat) (f : Balance → Balance) : (s.modBal c f).power = s.power := rfl
@[simp] theorem State.modBal_carousels (c : Nat) (f : Balance → Balance) :
    (s.modBal c f).carousels = s.carousels := rfl
@[simp] theorem State.modBal_putAway (c : Nat) (f : Balance → Balance) : (s.modBal c f).putAway = s.putAway := rfl
@[simp] theorem State.modBal_orderUnit (c : Nat) (f : Balance → Balance) :
    (s.modBal c f).orderUnit = s.orderUnit := rfl
@[simp] theorem State.modBal_consolidation (c : Nat) (f : Balance → Balance) :
    (s.modBal c f).consolidation = s.consolidation := rfl
@[simp] theorem State.modBal_audit (c : Nat) (f : Balance → Balance) : (s.modBal c f).audit = s.audit := rfl
@[simp] theorem State.modBal_agenda (c : Nat) (f : Balance → Balance) : (s.modBal c f).agenda = s.agenda := rfl
@[simp] theorem State.modBal_choices (c : Nat) (f : Balance → Balance) : (s.modBal c f).choices = s.choices := rfl
@[simp] theorem State.modBal_pending (c : Nat) (f : Balance → Balance) : (s.modBal c f).pending = s.pending := rfl

/-! ### modBay -/

@[simp] theorem State.modBay_now (id : BayId) (f : Bay → Bay) : (s.modBay id f).now = s.now := rfl
@[simp] theorem State.modBay_link (id : BayId) (f : Bay → Bay) : (s.modBay id f).link = s.link := rfl
@[simp] theorem State.modBay_line (id : BayId) (f : Bay → Bay) : (s.modBay id f).line = s.line := rfl
@[simp] theorem State.modBay_filter (id : BayId) (f : Bay → Bay) : (s.modBay id f).filter = s.filter := rfl
@[simp] theorem State.modBay_outbox (id : BayId) (f : Bay → Bay) : (s.modBay id f).outbox = s.outbox := rfl
@[simp] theorem State.modBay_articles (id : BayId) (f : Bay → Bay) : (s.modBay id f).articles = s.articles := rfl
@[simp] theorem State.modBay_bays (id : BayId) (f : Bay → Bay) :
    (s.modBay id f).bays = s.bays.modify id.carousel fun l => l.modify (s.position id) f := rfl
@[simp] theorem State.modBay_balances (id : BayId) (f : Bay → Bay) : (s.modBay id f).balances = s.balances := rfl
@[simp] theorem State.modBay_power (id : BayId) (f : Bay → Bay) : (s.modBay id f).power = s.power := rfl
@[simp] theorem State.modBay_carousels (id : BayId) (f : Bay → Bay) : (s.modBay id f).carousels = s.carousels := rfl
@[simp] theorem State.modBay_putAway (id : BayId) (f : Bay → Bay) : (s.modBay id f).putAway = s.putAway := rfl
@[simp] theorem State.modBay_orderUnit (id : BayId) (f : Bay → Bay) : (s.modBay id f).orderUnit = s.orderUnit := rfl
@[simp] theorem State.modBay_consolidation (id : BayId) (f : Bay → Bay) :
    (s.modBay id f).consolidation = s.consolidation := rfl
@[simp] theorem State.modBay_audit (id : BayId) (f : Bay → Bay) : (s.modBay id f).audit = s.audit := rfl
@[simp] theorem State.modBay_agenda (id : BayId) (f : Bay → Bay) : (s.modBay id f).agenda = s.agenda := rfl
@[simp] theorem State.modBay_choices (id : BayId) (f : Bay → Bay) : (s.modBay id f).choices = s.choices := rfl
@[simp] theorem State.modBay_pending (id : BayId) (f : Bay → Bay) : (s.modBay id f).pending = s.pending := rfl

/-! ### modTask -/

@[simp] theorem State.modTask_now (id : Nat) (f : Task → Task) : (s.modTask id f).now = s.now := rfl
@[simp] theorem State.modTask_link (id : Nat) (f : Task → Task) : (s.modTask id f).link = s.link := rfl
@[simp] theorem State.modTask_line (id : Nat) (f : Task → Task) : (s.modTask id f).line = s.line := rfl
@[simp] theorem State.modTask_filter (id : Nat) (f : Task → Task) : (s.modTask id f).filter = s.filter := rfl
@[simp] theorem State.modTask_outbox (id : Nat) (f : Task → Task) : (s.modTask id f).outbox = s.outbox := rfl
@[simp] theorem State.modTask_articles (id : Nat) (f : Task → Task) : (s.modTask id f).articles = s.articles := rfl
@[simp] theorem State.modTask_bays (id : Nat) (f : Task → Task) : (s.modTask id f).bays = s.bays := rfl
@[simp] theorem State.modTask_balances (id : Nat) (f : Task → Task) : (s.modTask id f).balances = s.balances := rfl
@[simp] theorem State.modTask_power (id : Nat) (f : Task → Task) : (s.modTask id f).power = s.power := rfl
@[simp] theorem State.modTask_carousels (id : Nat) (f : Task → Task) : (s.modTask id f).carousels = s.carousels := rfl
@[simp] theorem State.modTask_putAway (id : Nat) (f : Task → Task) : (s.modTask id f).putAway = s.putAway := rfl
@[simp] theorem State.modTask_orderUnit (id : Nat) (f : Task → Task) :
    (s.modTask id f).orderUnit = { s.orderUnit with pool := s.orderUnit.pool.modify id fun t => t.map f } := rfl
@[simp] theorem State.modTask_consolidation (id : Nat) (f : Task → Task) :
    (s.modTask id f).consolidation = s.consolidation := rfl
@[simp] theorem State.modTask_audit (id : Nat) (f : Task → Task) : (s.modTask id f).audit = s.audit := rfl
@[simp] theorem State.modTask_agenda (id : Nat) (f : Task → Task) : (s.modTask id f).agenda = s.agenda := rfl
@[simp] theorem State.modTask_choices (id : Nat) (f : Task → Task) : (s.modTask id f).choices = s.choices := rfl
@[simp] theorem State.modTask_pending (id : Nat) (f : Task → Task) : (s.modTask id f).pending = s.pending := rfl

/-! ### setTask -/

@[simp] theorem State.setTask_now (id : Nat) (t : Option Task) : (s.setTask id t).now = s.now := rfl
@[simp] theorem State.setTask_link (id : Nat) (t : Option Task) : (s.setTask id t).link = s.link := rfl
@[simp] theorem State.setTask_line (id : Nat) (t : Option Task) : (s.setTask id t).line = s.line := rfl
@[simp] theorem State.setTask_filter (id : Nat) (t : Option Task) : (s.setTask id t).filter = s.filter := rfl
@[simp] theorem State.setTask_outbox (id : Nat) (t : Option Task) : (s.setTask id t).outbox = s.outbox := rfl
@[simp] theorem State.setTask_articles (id : Nat) (t : Option Task) : (s.setTask id t).articles = s.articles := rfl
@[simp] theorem State.setTask_bays (id : Nat) (t : Option Task) : (s.setTask id t).bays = s.bays := rfl
@[simp] theorem State.setTask_balances (id : Nat) (t : Option Task) : (s.setTask id t).balances = s.balances := rfl
@[simp] theorem State.setTask_power (id : Nat) (t : Option Task) : (s.setTask id t).power = s.power := rfl
@[simp] theorem State.setTask_carousels (id : Nat) (t : Option Task) : (s.setTask id t).carousels = s.carousels := rfl
@[simp] theorem State.setTask_putAway (id : Nat) (t : Option Task) : (s.setTask id t).putAway = s.putAway := rfl
@[simp] theorem State.setTask_orderUnit (id : Nat) (t : Option Task) :
    (s.setTask id t).orderUnit = { s.orderUnit with pool := s.orderUnit.pool.modify id fun _ => t } := rfl
@[simp] theorem State.setTask_consolidation (id : Nat) (t : Option Task) :
    (s.setTask id t).consolidation = s.consolidation := rfl
@[simp] theorem State.setTask_audit (id : Nat) (t : Option Task) : (s.setTask id t).audit = s.audit := rfl
@[simp] theorem State.setTask_agenda (id : Nat) (t : Option Task) : (s.setTask id t).agenda = s.agenda := rfl
@[simp] theorem State.setTask_choices (id : Nat) (t : Option Task) : (s.setTask id t).choices = s.choices := rfl
@[simp] theorem State.setTask_pending (id : Nat) (t : Option Task) : (s.setTask id t).pending = s.pending := rfl

/-! ### modOrder -/

@[simp] theorem State.modOrder_now (n : Nat) (f : Order → Order) : (s.modOrder n f).now = s.now := rfl
@[simp] theorem State.modOrder_link (n : Nat) (f : Order → Order) : (s.modOrder n f).link = s.link := rfl
@[simp] theorem State.modOrder_line (n : Nat) (f : Order → Order) : (s.modOrder n f).line = s.line := rfl
@[simp] theorem State.modOrder_filter (n : Nat) (f : Order → Order) : (s.modOrder n f).filter = s.filter := rfl
@[simp] theorem State.modOrder_outbox (n : Nat) (f : Order → Order) : (s.modOrder n f).outbox = s.outbox := rfl
@[simp] theorem State.modOrder_articles (n : Nat) (f : Order → Order) : (s.modOrder n f).articles = s.articles := rfl
@[simp] theorem State.modOrder_bays (n : Nat) (f : Order → Order) : (s.modOrder n f).bays = s.bays := rfl
@[simp] theorem State.modOrder_balances (n : Nat) (f : Order → Order) : (s.modOrder n f).balances = s.balances := rfl
@[simp] theorem State.modOrder_power (n : Nat) (f : Order → Order) : (s.modOrder n f).power = s.power := rfl
@[simp] theorem State.modOrder_carousels (n : Nat) (f : Order → Order) :
    (s.modOrder n f).carousels = s.carousels := rfl
@[simp] theorem State.modOrder_putAway (n : Nat) (f : Order → Order) : (s.modOrder n f).putAway = s.putAway := rfl
@[simp] theorem State.modOrder_orderUnit (n : Nat) (f : Order → Order) :
    (s.modOrder n f).orderUnit = { s.orderUnit with orders := s.orderUnit.orders.map fun o => if o.number = n then f o else o } := rfl
@[simp] theorem State.modOrder_consolidation (n : Nat) (f : Order → Order) :
    (s.modOrder n f).consolidation = s.consolidation := rfl
@[simp] theorem State.modOrder_audit (n : Nat) (f : Order → Order) : (s.modOrder n f).audit = s.audit := rfl
@[simp] theorem State.modOrder_agenda (n : Nat) (f : Order → Order) : (s.modOrder n f).agenda = s.agenda := rfl
@[simp] theorem State.modOrder_choices (n : Nat) (f : Order → Order) : (s.modOrder n f).choices = s.choices := rfl
@[simp] theorem State.modOrder_pending (n : Nat) (f : Order → Order) : (s.modOrder n f).pending = s.pending := rfl

/-! ### removeOrder -/

@[simp] theorem State.removeOrder_now (n : Nat) : (s.removeOrder n).now = s.now := rfl
@[simp] theorem State.removeOrder_link (n : Nat) : (s.removeOrder n).link = s.link := rfl
@[simp] theorem State.removeOrder_line (n : Nat) : (s.removeOrder n).line = s.line := rfl
@[simp] theorem State.removeOrder_filter (n : Nat) : (s.removeOrder n).filter = s.filter := rfl
@[simp] theorem State.removeOrder_outbox (n : Nat) : (s.removeOrder n).outbox = s.outbox := rfl
@[simp] theorem State.removeOrder_articles (n : Nat) : (s.removeOrder n).articles = s.articles := rfl
@[simp] theorem State.removeOrder_bays (n : Nat) : (s.removeOrder n).bays = s.bays := rfl
@[simp] theorem State.removeOrder_balances (n : Nat) : (s.removeOrder n).balances = s.balances := rfl
@[simp] theorem State.removeOrder_power (n : Nat) : (s.removeOrder n).power = s.power := rfl
@[simp] theorem State.removeOrder_carousels (n : Nat) : (s.removeOrder n).carousels = s.carousels := rfl
@[simp] theorem State.removeOrder_putAway (n : Nat) : (s.removeOrder n).putAway = s.putAway := rfl
@[simp] theorem State.removeOrder_orderUnit (n : Nat) :
    (s.removeOrder n).orderUnit = { s.orderUnit with orders := s.orderUnit.orders.filter fun o => o.number != n } := rfl
@[simp] theorem State.removeOrder_consolidation (n : Nat) : (s.removeOrder n).consolidation = s.consolidation := rfl
@[simp] theorem State.removeOrder_audit (n : Nat) : (s.removeOrder n).audit = s.audit := rfl
@[simp] theorem State.removeOrder_agenda (n : Nat) : (s.removeOrder n).agenda = s.agenda := rfl
@[simp] theorem State.removeOrder_choices (n : Nat) : (s.removeOrder n).choices = s.choices := rfl
@[simp] theorem State.removeOrder_pending (n : Nat) : (s.removeOrder n).pending = s.pending := rfl

/-! ### modLane -/

@[simp] theorem State.modLane_now (n : Nat) (f : Lane → Lane) : (s.modLane n f).now = s.now := rfl
@[simp] theorem State.modLane_link (n : Nat) (f : Lane → Lane) : (s.modLane n f).link = s.link := rfl
@[simp] theorem State.modLane_line (n : Nat) (f : Lane → Lane) : (s.modLane n f).line = s.line := rfl
@[simp] theorem State.modLane_filter (n : Nat) (f : Lane → Lane) : (s.modLane n f).filter = s.filter := rfl
@[simp] theorem State.modLane_outbox (n : Nat) (f : Lane → Lane) : (s.modLane n f).outbox = s.outbox := rfl
@[simp] theorem State.modLane_articles (n : Nat) (f : Lane → Lane) : (s.modLane n f).articles = s.articles := rfl
@[simp] theorem State.modLane_bays (n : Nat) (f : Lane → Lane) : (s.modLane n f).bays = s.bays := rfl
@[simp] theorem State.modLane_balances (n : Nat) (f : Lane → Lane) : (s.modLane n f).balances = s.balances := rfl
@[simp] theorem State.modLane_power (n : Nat) (f : Lane → Lane) : (s.modLane n f).power = s.power := rfl
@[simp] theorem State.modLane_carousels (n : Nat) (f : Lane → Lane) : (s.modLane n f).carousels = s.carousels := rfl
@[simp] theorem State.modLane_putAway (n : Nat) (f : Lane → Lane) : (s.modLane n f).putAway = s.putAway := rfl
@[simp] theorem State.modLane_orderUnit (n : Nat) (f : Lane → Lane) : (s.modLane n f).orderUnit = s.orderUnit := rfl
@[simp] theorem State.modLane_consolidation (n : Nat) (f : Lane → Lane) :
    (s.modLane n f).consolidation = { s.consolidation with lanes := s.consolidation.lanes.modify n f } := rfl
@[simp] theorem State.modLane_audit (n : Nat) (f : Lane → Lane) : (s.modLane n f).audit = s.audit := rfl
@[simp] theorem State.modLane_agenda (n : Nat) (f : Lane → Lane) : (s.modLane n f).agenda = s.agenda := rfl
@[simp] theorem State.modLane_choices (n : Nat) (f : Lane → Lane) : (s.modLane n f).choices = s.choices := rfl
@[simp] theorem State.modLane_pending (n : Nat) (f : Lane → Lane) : (s.modLane n f).pending = s.pending := rfl

/-! ### modSweepRecord -/

@[simp] theorem State.modSweepRecord_now (c : Nat) (f : SweepRecord → SweepRecord) :
    (s.modSweepRecord c f).now = s.now := rfl
@[simp] theorem State.modSweepRecord_link (c : Nat) (f : SweepRecord → SweepRecord) :
    (s.modSweepRecord c f).link = s.link := rfl
@[simp] theorem State.modSweepRecord_line (c : Nat) (f : SweepRecord → SweepRecord) :
    (s.modSweepRecord c f).line = s.line := rfl
@[simp] theorem State.modSweepRecord_filter (c : Nat) (f : SweepRecord → SweepRecord) :
    (s.modSweepRecord c f).filter = s.filter := rfl
@[simp] theorem State.modSweepRecord_outbox (c : Nat) (f : SweepRecord → SweepRecord) :
    (s.modSweepRecord c f).outbox = s.outbox := rfl
@[simp] theorem State.modSweepRecord_articles (c : Nat) (f : SweepRecord → SweepRecord) :
    (s.modSweepRecord c f).articles = s.articles := rfl
@[simp] theorem State.modSweepRecord_bays (c : Nat) (f : SweepRecord → SweepRecord) :
    (s.modSweepRecord c f).bays = s.bays := rfl
@[simp] theorem State.modSweepRecord_balances (c : Nat) (f : SweepRecord → SweepRecord) :
    (s.modSweepRecord c f).balances = s.balances := rfl
@[simp] theorem State.modSweepRecord_power (c : Nat) (f : SweepRecord → SweepRecord) :
    (s.modSweepRecord c f).power = s.power := rfl
@[simp] theorem State.modSweepRecord_carousels (c : Nat) (f : SweepRecord → SweepRecord) :
    (s.modSweepRecord c f).carousels = s.carousels := rfl
@[simp] theorem State.modSweepRecord_putAway (c : Nat) (f : SweepRecord → SweepRecord) :
    (s.modSweepRecord c f).putAway = s.putAway := rfl
@[simp] theorem State.modSweepRecord_orderUnit (c : Nat) (f : SweepRecord → SweepRecord) :
    (s.modSweepRecord c f).orderUnit = s.orderUnit := rfl
@[simp] theorem State.modSweepRecord_consolidation (c : Nat) (f : SweepRecord → SweepRecord) :
    (s.modSweepRecord c f).consolidation = s.consolidation := rfl
@[simp] theorem State.modSweepRecord_audit (c : Nat) (f : SweepRecord → SweepRecord) :
    (s.modSweepRecord c f).audit = { s.audit with sweeps := s.audit.sweeps.modify c f } := rfl
@[simp] theorem State.modSweepRecord_agenda (c : Nat) (f : SweepRecord → SweepRecord) :
    (s.modSweepRecord c f).agenda = s.agenda := rfl
@[simp] theorem State.modSweepRecord_choices (c : Nat) (f : SweepRecord → SweepRecord) :
    (s.modSweepRecord c f).choices = s.choices := rfl
@[simp] theorem State.modSweepRecord_pending (c : Nat) (f : SweepRecord → SweepRecord) :
    (s.modSweepRecord c f).pending = s.pending := rfl

/-! ### noteFreed -/

@[simp] theorem State.noteFreed_now : (s.noteFreed).now = s.now := rfl
@[simp] theorem State.noteFreed_link : (s.noteFreed).link = s.link := rfl
@[simp] theorem State.noteFreed_line : (s.noteFreed).line = s.line := rfl
@[simp] theorem State.noteFreed_filter : (s.noteFreed).filter = s.filter := rfl
@[simp] theorem State.noteFreed_outbox : (s.noteFreed).outbox = s.outbox := rfl
@[simp] theorem State.noteFreed_articles : (s.noteFreed).articles = s.articles := rfl
@[simp] theorem State.noteFreed_bays : (s.noteFreed).bays = s.bays := rfl
@[simp] theorem State.noteFreed_balances : (s.noteFreed).balances = s.balances := rfl
@[simp] theorem State.noteFreed_power : (s.noteFreed).power = s.power := rfl
@[simp] theorem State.noteFreed_carousels : (s.noteFreed).carousels = s.carousels := rfl
@[simp] theorem State.noteFreed_putAway : (s.noteFreed).putAway = s.putAway := rfl
@[simp] theorem State.noteFreed_orderUnit : (s.noteFreed).orderUnit = s.orderUnit := rfl
@[simp] theorem State.noteFreed_consolidation : (s.noteFreed).consolidation = s.consolidation := rfl
@[simp] theorem State.noteFreed_audit : (s.noteFreed).audit = s.audit := rfl
@[simp] theorem State.noteFreed_agenda : (s.noteFreed).agenda = { s.agenda with freed := true } := rfl
@[simp] theorem State.noteFreed_choices : (s.noteFreed).choices = s.choices := rfl
@[simp] theorem State.noteFreed_pending : (s.noteFreed).pending = s.pending := rfl

/-! ### noteRetry -/

@[simp] theorem State.noteRetry_now (r : Retry) : (s.noteRetry r).now = s.now := rfl
@[simp] theorem State.noteRetry_link (r : Retry) : (s.noteRetry r).link = s.link := rfl
@[simp] theorem State.noteRetry_line (r : Retry) : (s.noteRetry r).line = s.line := rfl
@[simp] theorem State.noteRetry_filter (r : Retry) : (s.noteRetry r).filter = s.filter := rfl
@[simp] theorem State.noteRetry_outbox (r : Retry) : (s.noteRetry r).outbox = s.outbox := rfl
@[simp] theorem State.noteRetry_articles (r : Retry) : (s.noteRetry r).articles = s.articles := rfl
@[simp] theorem State.noteRetry_bays (r : Retry) : (s.noteRetry r).bays = s.bays := rfl
@[simp] theorem State.noteRetry_balances (r : Retry) : (s.noteRetry r).balances = s.balances := rfl
@[simp] theorem State.noteRetry_power (r : Retry) : (s.noteRetry r).power = s.power := rfl
@[simp] theorem State.noteRetry_carousels (r : Retry) : (s.noteRetry r).carousels = s.carousels := rfl
@[simp] theorem State.noteRetry_putAway (r : Retry) : (s.noteRetry r).putAway = s.putAway := rfl
@[simp] theorem State.noteRetry_orderUnit (r : Retry) :
    (s.noteRetry r).orderUnit = { s.orderUnit with retry := s.orderUnit.retry.join r } := rfl
@[simp] theorem State.noteRetry_consolidation (r : Retry) : (s.noteRetry r).consolidation = s.consolidation := rfl
@[simp] theorem State.noteRetry_audit (r : Retry) : (s.noteRetry r).audit = s.audit := rfl
@[simp] theorem State.noteRetry_agenda (r : Retry) : (s.noteRetry r).agenda = s.agenda := rfl
@[simp] theorem State.noteRetry_choices (r : Retry) : (s.noteRetry r).choices = s.choices := rfl
@[simp] theorem State.noteRetry_pending (r : Retry) : (s.noteRetry r).pending = s.pending := rfl

/-! ### linkError -/

@[simp] theorem State.linkError_now (e : PortError) : (s.linkError e).now = s.now := rfl
@[simp] theorem State.linkError_link (e : PortError) :
    (s.linkError e).link = { s.link with errors := s.link.errors.add e } := rfl
@[simp] theorem State.linkError_line (e : PortError) : (s.linkError e).line = s.line := rfl
@[simp] theorem State.linkError_filter (e : PortError) : (s.linkError e).filter = s.filter := rfl
@[simp] theorem State.linkError_outbox (e : PortError) : (s.linkError e).outbox = s.outbox := rfl
@[simp] theorem State.linkError_articles (e : PortError) : (s.linkError e).articles = s.articles := rfl
@[simp] theorem State.linkError_bays (e : PortError) : (s.linkError e).bays = s.bays := rfl
@[simp] theorem State.linkError_balances (e : PortError) : (s.linkError e).balances = s.balances := rfl
@[simp] theorem State.linkError_power (e : PortError) : (s.linkError e).power = s.power := rfl
@[simp] theorem State.linkError_carousels (e : PortError) : (s.linkError e).carousels = s.carousels := rfl
@[simp] theorem State.linkError_putAway (e : PortError) : (s.linkError e).putAway = s.putAway := rfl
@[simp] theorem State.linkError_orderUnit (e : PortError) : (s.linkError e).orderUnit = s.orderUnit := rfl
@[simp] theorem State.linkError_consolidation (e : PortError) : (s.linkError e).consolidation = s.consolidation := rfl
@[simp] theorem State.linkError_audit (e : PortError) : (s.linkError e).audit = s.audit := rfl
@[simp] theorem State.linkError_agenda (e : PortError) : (s.linkError e).agenda = s.agenda := rfl
@[simp] theorem State.linkError_choices (e : PortError) : (s.linkError e).choices = s.choices := rfl
@[simp] theorem State.linkError_pending (e : PortError) : (s.linkError e).pending = s.pending := rfl

/-! ### lineError -/

@[simp] theorem State.lineError_now (e : PortError) : (s.lineError e).now = s.now := rfl
@[simp] theorem State.lineError_link (e : PortError) : (s.lineError e).link = s.link := rfl
@[simp] theorem State.lineError_line (e : PortError) :
    (s.lineError e).line = { s.line with errors := s.line.errors.add e } := rfl
@[simp] theorem State.lineError_filter (e : PortError) : (s.lineError e).filter = s.filter := rfl
@[simp] theorem State.lineError_outbox (e : PortError) : (s.lineError e).outbox = s.outbox := rfl
@[simp] theorem State.lineError_articles (e : PortError) : (s.lineError e).articles = s.articles := rfl
@[simp] theorem State.lineError_bays (e : PortError) : (s.lineError e).bays = s.bays := rfl
@[simp] theorem State.lineError_balances (e : PortError) : (s.lineError e).balances = s.balances := rfl
@[simp] theorem State.lineError_power (e : PortError) : (s.lineError e).power = s.power := rfl
@[simp] theorem State.lineError_carousels (e : PortError) : (s.lineError e).carousels = s.carousels := rfl
@[simp] theorem State.lineError_putAway (e : PortError) : (s.lineError e).putAway = s.putAway := rfl
@[simp] theorem State.lineError_orderUnit (e : PortError) : (s.lineError e).orderUnit = s.orderUnit := rfl
@[simp] theorem State.lineError_consolidation (e : PortError) : (s.lineError e).consolidation = s.consolidation := rfl
@[simp] theorem State.lineError_audit (e : PortError) : (s.lineError e).audit = s.audit := rfl
@[simp] theorem State.lineError_agenda (e : PortError) : (s.lineError e).agenda = s.agenda := rfl
@[simp] theorem State.lineError_choices (e : PortError) : (s.lineError e).choices = s.choices := rfl
@[simp] theorem State.lineError_pending (e : PortError) : (s.lineError e).pending = s.pending := rfl

/-! ### dropUnsent -/

@[simp] theorem State.dropUnsent_now : (s.dropUnsent).now = s.now := rfl
@[simp] theorem State.dropUnsent_link : (s.dropUnsent).link = s.link := rfl
@[simp] theorem State.dropUnsent_line : (s.dropUnsent).line = s.line := rfl
@[simp] theorem State.dropUnsent_filter : (s.dropUnsent).filter = s.filter := rfl
@[simp] theorem State.dropUnsent_outbox : (s.dropUnsent).outbox = { s.outbox with slots := s.outbox.slots.map unsentRemoved } := rfl
@[simp] theorem State.dropUnsent_articles : (s.dropUnsent).articles = s.articles := rfl
@[simp] theorem State.dropUnsent_bays : (s.dropUnsent).bays = s.bays := rfl
@[simp] theorem State.dropUnsent_balances : (s.dropUnsent).balances = s.balances := rfl
@[simp] theorem State.dropUnsent_power : (s.dropUnsent).power = s.power := rfl
@[simp] theorem State.dropUnsent_carousels : (s.dropUnsent).carousels = s.carousels := rfl
@[simp] theorem State.dropUnsent_putAway : (s.dropUnsent).putAway = s.putAway := rfl
@[simp] theorem State.dropUnsent_orderUnit : (s.dropUnsent).orderUnit = s.orderUnit := rfl
@[simp] theorem State.dropUnsent_consolidation : (s.dropUnsent).consolidation = s.consolidation := rfl
@[simp] theorem State.dropUnsent_audit : (s.dropUnsent).audit = s.audit := rfl
@[simp] theorem State.dropUnsent_agenda : (s.dropUnsent).agenda = s.agenda := rfl
@[simp] theorem State.dropUnsent_choices : (s.dropUnsent).choices = s.choices := rfl
@[simp] theorem State.dropUnsent_pending : (s.dropUnsent).pending = s.pending := rfl

/-! ### setSlot -/

@[simp] theorem State.setSlot_now (c : Nat) (m : Option SlotMove) : (s.setSlot c m).now = s.now := rfl
@[simp] theorem State.setSlot_link (c : Nat) (m : Option SlotMove) : (s.setSlot c m).link = s.link := rfl
@[simp] theorem State.setSlot_line (c : Nat) (m : Option SlotMove) : (s.setSlot c m).line = s.line := rfl
@[simp] theorem State.setSlot_filter (c : Nat) (m : Option SlotMove) : (s.setSlot c m).filter = s.filter := rfl
@[simp] theorem State.setSlot_outbox (c : Nat) (m : Option SlotMove) :
    (s.setSlot c m).outbox = { s.outbox with slots := s.outbox.slots.modify c fun _ => m } := rfl
@[simp] theorem State.setSlot_articles (c : Nat) (m : Option SlotMove) : (s.setSlot c m).articles = s.articles := rfl
@[simp] theorem State.setSlot_bays (c : Nat) (m : Option SlotMove) : (s.setSlot c m).bays = s.bays := rfl
@[simp] theorem State.setSlot_balances (c : Nat) (m : Option SlotMove) : (s.setSlot c m).balances = s.balances := rfl
@[simp] theorem State.setSlot_power (c : Nat) (m : Option SlotMove) : (s.setSlot c m).power = s.power := rfl
@[simp] theorem State.setSlot_carousels (c : Nat) (m : Option SlotMove) :
    (s.setSlot c m).carousels = s.carousels := rfl
@[simp] theorem State.setSlot_putAway (c : Nat) (m : Option SlotMove) : (s.setSlot c m).putAway = s.putAway := rfl
@[simp] theorem State.setSlot_orderUnit (c : Nat) (m : Option SlotMove) :
    (s.setSlot c m).orderUnit = s.orderUnit := rfl
@[simp] theorem State.setSlot_consolidation (c : Nat) (m : Option SlotMove) :
    (s.setSlot c m).consolidation = s.consolidation := rfl
@[simp] theorem State.setSlot_audit (c : Nat) (m : Option SlotMove) : (s.setSlot c m).audit = s.audit := rfl
@[simp] theorem State.setSlot_agenda (c : Nat) (m : Option SlotMove) : (s.setSlot c m).agenda = s.agenda := rfl
@[simp] theorem State.setSlot_choices (c : Nat) (m : Option SlotMove) : (s.setSlot c m).choices = s.choices := rfl
@[simp] theorem State.setSlot_pending (c : Nat) (m : Option SlotMove) : (s.setSlot c m).pending = s.pending := rfl

/-! ### txIdle -/

@[simp] theorem State.txIdle_now : (s.txIdle).now = s.now := rfl
@[simp] theorem State.txIdle_link : (s.txIdle).link = s.link := rfl
@[simp] theorem State.txIdle_line : (s.txIdle).line = s.line := rfl
@[simp] theorem State.txIdle_filter : (s.txIdle).filter = s.filter := rfl
@[simp] theorem State.txIdle_outbox : (s.txIdle).outbox = { s.outbox with tx := .idle } := rfl
@[simp] theorem State.txIdle_articles : (s.txIdle).articles = s.articles := rfl
@[simp] theorem State.txIdle_bays : (s.txIdle).bays = s.bays := rfl
@[simp] theorem State.txIdle_balances : (s.txIdle).balances = s.balances := rfl
@[simp] theorem State.txIdle_power : (s.txIdle).power = s.power := rfl
@[simp] theorem State.txIdle_carousels : (s.txIdle).carousels = s.carousels := rfl
@[simp] theorem State.txIdle_putAway : (s.txIdle).putAway = s.putAway := rfl
@[simp] theorem State.txIdle_orderUnit : (s.txIdle).orderUnit = s.orderUnit := rfl
@[simp] theorem State.txIdle_consolidation : (s.txIdle).consolidation = s.consolidation := rfl
@[simp] theorem State.txIdle_audit : (s.txIdle).audit = s.audit := rfl
@[simp] theorem State.txIdle_agenda : (s.txIdle).agenda = s.agenda := rfl
@[simp] theorem State.txIdle_choices : (s.txIdle).choices = s.choices := rfl
@[simp] theorem State.txIdle_pending : (s.txIdle).pending = s.pending := rfl

/-! ### leaveWait -/

@[simp] theorem State.leaveWait_now (c : Nat) : (s.leaveWait c).now = s.now := rfl
@[simp] theorem State.leaveWait_link (c : Nat) : (s.leaveWait c).link = s.link := rfl
@[simp] theorem State.leaveWait_line (c : Nat) : (s.leaveWait c).line = s.line := rfl
@[simp] theorem State.leaveWait_filter (c : Nat) : (s.leaveWait c).filter = s.filter := rfl
@[simp] theorem State.leaveWait_outbox (c : Nat) : (s.leaveWait c).outbox = s.outbox := rfl
@[simp] theorem State.leaveWait_articles (c : Nat) : (s.leaveWait c).articles = s.articles := rfl
@[simp] theorem State.leaveWait_bays (c : Nat) : (s.leaveWait c).bays = s.bays := rfl
@[simp] theorem State.leaveWait_balances (c : Nat) : (s.leaveWait c).balances = s.balances := rfl
@[simp] theorem State.leaveWait_power (c : Nat) :
    (s.leaveWait c).power = { s.power with waitList := s.power.waitList.filter fun e => e.carousel != c } := rfl
@[simp] theorem State.leaveWait_carousels (c : Nat) : (s.leaveWait c).carousels = s.carousels := rfl
@[simp] theorem State.leaveWait_putAway (c : Nat) : (s.leaveWait c).putAway = s.putAway := rfl
@[simp] theorem State.leaveWait_orderUnit (c : Nat) : (s.leaveWait c).orderUnit = s.orderUnit := rfl
@[simp] theorem State.leaveWait_consolidation (c : Nat) : (s.leaveWait c).consolidation = s.consolidation := rfl
@[simp] theorem State.leaveWait_audit (c : Nat) : (s.leaveWait c).audit = s.audit := rfl
@[simp] theorem State.leaveWait_agenda (c : Nat) : (s.leaveWait c).agenda = s.agenda := rfl
@[simp] theorem State.leaveWait_choices (c : Nat) : (s.leaveWait c).choices = s.choices := rfl
@[simp] theorem State.leaveWait_pending (c : Nat) : (s.leaveWait c).pending = s.pending := rfl

/-! ### takeRequest -/

@[simp] theorem State.takeRequest_now : (s.takeRequest).now = s.now := rfl
@[simp] theorem State.takeRequest_link : (s.takeRequest).link = { s.link with rx := s.link.rx.drop 1 } := rfl
@[simp] theorem State.takeRequest_line : (s.takeRequest).line = s.line := rfl
@[simp] theorem State.takeRequest_filter : (s.takeRequest).filter = s.filter := rfl
@[simp] theorem State.takeRequest_outbox : (s.takeRequest).outbox = s.outbox := rfl
@[simp] theorem State.takeRequest_articles : (s.takeRequest).articles = s.articles := rfl
@[simp] theorem State.takeRequest_bays : (s.takeRequest).bays = s.bays := rfl
@[simp] theorem State.takeRequest_balances : (s.takeRequest).balances = s.balances := rfl
@[simp] theorem State.takeRequest_power : (s.takeRequest).power = s.power := rfl
@[simp] theorem State.takeRequest_carousels : (s.takeRequest).carousels = s.carousels := rfl
@[simp] theorem State.takeRequest_putAway : (s.takeRequest).putAway = s.putAway := rfl
@[simp] theorem State.takeRequest_orderUnit : (s.takeRequest).orderUnit = s.orderUnit := rfl
@[simp] theorem State.takeRequest_consolidation : (s.takeRequest).consolidation = s.consolidation := rfl
@[simp] theorem State.takeRequest_audit : (s.takeRequest).audit = s.audit := rfl
@[simp] theorem State.takeRequest_agenda : (s.takeRequest).agenda = s.agenda := rfl
@[simp] theorem State.takeRequest_choices : (s.takeRequest).choices = s.choices := rfl
@[simp] theorem State.takeRequest_pending : (s.takeRequest).pending = s.pending := rfl

/-! ### resetLink -/

@[simp] theorem State.resetLink_now : (s.resetLink).now = s.now := rfl
@[simp] theorem State.resetLink_link :
    (s.resetLink).link = { s.link with rx := [], tx := [], waiting := none, errors := {}, profile := none } := rfl
@[simp] theorem State.resetLink_line : (s.resetLink).line = s.line := rfl
@[simp] theorem State.resetLink_filter : (s.resetLink).filter = s.filter := rfl
@[simp] theorem State.resetLink_outbox : (s.resetLink).outbox = s.outbox := rfl
@[simp] theorem State.resetLink_articles : (s.resetLink).articles = s.articles := rfl
@[simp] theorem State.resetLink_bays : (s.resetLink).bays = s.bays := rfl
@[simp] theorem State.resetLink_balances : (s.resetLink).balances = s.balances := rfl
@[simp] theorem State.resetLink_power : (s.resetLink).power = s.power := rfl
@[simp] theorem State.resetLink_carousels : (s.resetLink).carousels = s.carousels := rfl
@[simp] theorem State.resetLink_putAway : (s.resetLink).putAway = s.putAway := rfl
@[simp] theorem State.resetLink_orderUnit : (s.resetLink).orderUnit = s.orderUnit := rfl
@[simp] theorem State.resetLink_consolidation : (s.resetLink).consolidation = s.consolidation := rfl
@[simp] theorem State.resetLink_audit : (s.resetLink).audit = s.audit := rfl
@[simp] theorem State.resetLink_agenda : (s.resetLink).agenda = s.agenda := rfl
@[simp] theorem State.resetLink_choices : (s.resetLink).choices = s.choices := rfl
@[simp] theorem State.resetLink_pending : (s.resetLink).pending = s.pending := rfl

/-! ### withPending -/

@[simp] theorem State.withPending_now (q : List Instr) : (s.withPending q).now = s.now := rfl
@[simp] theorem State.withPending_link (q : List Instr) : (s.withPending q).link = s.link := rfl
@[simp] theorem State.withPending_line (q : List Instr) : (s.withPending q).line = s.line := rfl
@[simp] theorem State.withPending_filter (q : List Instr) : (s.withPending q).filter = s.filter := rfl
@[simp] theorem State.withPending_outbox (q : List Instr) : (s.withPending q).outbox = s.outbox := rfl
@[simp] theorem State.withPending_articles (q : List Instr) : (s.withPending q).articles = s.articles := rfl
@[simp] theorem State.withPending_bays (q : List Instr) : (s.withPending q).bays = s.bays := rfl
@[simp] theorem State.withPending_balances (q : List Instr) : (s.withPending q).balances = s.balances := rfl
@[simp] theorem State.withPending_power (q : List Instr) : (s.withPending q).power = s.power := rfl
@[simp] theorem State.withPending_carousels (q : List Instr) : (s.withPending q).carousels = s.carousels := rfl
@[simp] theorem State.withPending_putAway (q : List Instr) : (s.withPending q).putAway = s.putAway := rfl
@[simp] theorem State.withPending_orderUnit (q : List Instr) : (s.withPending q).orderUnit = s.orderUnit := rfl
@[simp] theorem State.withPending_consolidation (q : List Instr) :
    (s.withPending q).consolidation = s.consolidation := rfl
@[simp] theorem State.withPending_audit (q : List Instr) : (s.withPending q).audit = s.audit := rfl
@[simp] theorem State.withPending_agenda (q : List Instr) : (s.withPending q).agenda = s.agenda := rfl
@[simp] theorem State.withPending_choices (q : List Instr) : (s.withPending q).choices = s.choices := rfl
@[simp] theorem State.withPending_pending (q : List Instr) : (s.withPending q).pending = q := rfl

/-! ### idle -/

@[simp] theorem State.idle_now : (s.idle).now = s.now + 1 := rfl
@[simp] theorem State.idle_link : (s.idle).link = s.link := rfl
@[simp] theorem State.idle_line : (s.idle).line = s.line := rfl
@[simp] theorem State.idle_filter : (s.idle).filter = s.filter := rfl
@[simp] theorem State.idle_outbox : (s.idle).outbox = s.outbox := rfl
@[simp] theorem State.idle_articles : (s.idle).articles = s.articles := rfl
@[simp] theorem State.idle_bays : (s.idle).bays = s.bays := rfl
@[simp] theorem State.idle_balances : (s.idle).balances = s.balances := rfl
@[simp] theorem State.idle_power : (s.idle).power = s.power := rfl
@[simp] theorem State.idle_carousels : (s.idle).carousels = s.carousels := rfl
@[simp] theorem State.idle_putAway : (s.idle).putAway = s.putAway := rfl
@[simp] theorem State.idle_orderUnit : (s.idle).orderUnit = s.orderUnit := rfl
@[simp] theorem State.idle_consolidation : (s.idle).consolidation = s.consolidation := rfl
@[simp] theorem State.idle_audit : (s.idle).audit = s.audit := rfl
@[simp] theorem State.idle_agenda : (s.idle).agenda = s.agenda := rfl
@[simp] theorem State.idle_choices : (s.idle).choices = s.choices := rfl
@[simp] theorem State.idle_pending : (s.idle).pending = s.pending := rfl

end Sys2Proof.Machine
end

