-- ==== Sys2Proof/Laws/Follow.lean ====
section
/-! SUPPORT. What the follow-ups of a step leave unchanged, once for each shared operation they are made of, ending in
`State.settle_follows`. -/

namespace Sys2Proof.Machine

/-! ## Lists -/

theorem map_modify_same {α β : Type} (g : α → β) (f : α → α) (h : ∀ a, g (f a) = g a) (l : List α) (i : Nat) :
    (l.modify i f).map g = l.map g := by
  induction l generalizing i with
  | nil => cases i <;> rfl
  | cons a l ih => cases i with
    | zero => simp [h]
    | succ i => simp [ih]

theorem getD_modify {α : Type} (l : List α) (i j : Nat) (f : α → α) (d : α) :
    (l.modify i f).getD j d = if i = j ∧ j < l.length then f (l.getD j d) else l.getD j d := by
  simp only [List.getD_eq_getElem?_getD, List.getElem?_modify]
  by_cases h : j < l.length
  · by_cases e : i = j <;> simp [h, e]
  · simp [h]

theorem fst_zip_sublist {α β : Type} (l : List α) (m : List β) : ((l.zip m).map Prod.fst).Sublist l := by
  induction l generalizing m with
  | nil => simp
  | cons a l ih => cases m with
    | nil => simp
    | cons b m => simpa using ih m

/-! ## Reading after a change -/

theorem State.car_modCar (s : State) (c d : Nat) (f : Carousel → Carousel) :
    (s.modCar c f).car d = if c = d ∧ d < s.carousels.length then f (s.car d) else s.car d :=
  getD_modify _ _ _ _ _

theorem State.task_modTask (s : State) (i j : Nat) (f : Task → Task) :
    (s.modTask i f).task j = if i = j then (s.task j).map f else s.task j := by
  show (s.orderUnit.pool.modify i _).getD j none = _
  rw [getD_modify]
  by_cases h : j < s.orderUnit.pool.length
  · by_cases e : i = j <;> simp [h, e, State.task]
  · have : s.task j = none := by simp [State.task, List.getD_eq_getElem?_getD, List.getElem?_eq_none (Nat.le_of_not_lt h)]
    simp [this, h]

theorem State.task_setTask (s : State) (i j : Nat) (t : Option Task) :
    (s.setTask i t).task j = if i = j ∧ j < s.orderUnit.pool.length then t else s.task j :=
  getD_modify _ _ _ _ _

/-! ## The relation -/

theorem ErrorSet.add_full_twice (e : ErrorSet) : (e.add .full).add .full = e.add .full := rfl

theorem State.Keeps.refl (p : Nat → Prop) (s : State) : s.Keeps p s := by
  constructor
  all_goals first | rfl | exact .inl rfl | exact ⟨rfl, rfl, List.prefix_rfl⟩ | exact fun _ _ => rfl | skip
  exact fun id k h => ⟨k.state, k.transit, h⟩

theorem State.Keeps.trans {p : Nat → Prop} {s t u : State} (a : s.Keeps p t) (b : t.Keeps p u) : s.Keeps p u where
  now := b.now.trans a.now
  link := b.link.trans a.link
  line := by rw [b.line, a.line]
  errors := by
    rcases a.errors with x | x <;> rcases b.errors with y | y <;> simp [y, x, ErrorSet.add_full_twice]
  filter := b.filter.trans a.filter
  articles := b.articles.trans a.articles
  bays := b.bays.trans a.bays
  balances := b.balances.trans a.balances
  power := ⟨b.power.1.trans a.power.1, b.power.2.1.trans a.power.2.1, a.power.2.2.trans b.power.2.2⟩
  carousels := b.carousels.trans a.carousels
  busy := fun c h => (b.busy c h).trans (a.busy c h)
  putAway := b.putAway.trans a.putAway
  orders := b.orders.trans a.orders
  laneWait := b.laneWait.trans a.laneWait
  tasks := fun id k h => by
    obtain ⟨st, n, h1⟩ := a.tasks id k h
    obtain ⟨st2, n2, h2⟩ := b.tasks id _ h1
    exact ⟨st2, n2, h2⟩
  lanes := b.lanes.trans a.lanes
  transit := b.transit.trans a.transit
  audit := b.audit.trans a.audit
  sweeps := b.sweeps.trans a.sweeps
  pending := b.pending.trans a.pending

theorem State.Keeps.weaken {p q : Nat → Prop} {s t : State} (a : s.Keeps q t) (h : ∀ c, p c → q c) : s.Keeps p t :=
  { a with busy := fun c hc => a.busy c (h c hc) }

/-- A still carousel is idle after as before. -/
theorem State.Keeps.idle {p : Nat → Prop} {s t : State} (a : s.Keeps p t) {c : Nat} (h : p c) :
    t.idleReady c = s.idleReady c := by
  have h1 := a.busy c h
  have h4 := congrArg Carousel.state h1
  have h5 := congrArg Carousel.inService h1
  have h2 : (t.car c).state = (s.car c).state := h4
  have h3 : (t.car c).inService = (s.car c).inService := h5
  simp only [State.idleReady, h2, h3]

theorem State.Follows.refl (s : State) : s.Follows s :=
  State.Keeps.refl _ s

theorem State.Follows.trans {s t u : State} (a : s.Follows t) (b : t.Follows u) : s.Follows u :=
  State.Keeps.trans a (State.Keeps.weaken b fun _ h => (State.Keeps.idle a h).trans h)

/-! ## Single changes -/

section Single

variable (p : Nat → Prop) (s : State)

theorem State.keeps_agenda (a : Agenda) : s.Keeps p { s with agenda := a } :=
  { State.Keeps.refl p s with }

theorem State.keeps_choices (n : Nat) : s.Keeps p { s with choices := n } :=
  { State.Keeps.refl p s with }

theorem State.keeps_retry (r : Retry) : s.Keeps p { s with orderUnit := { s.orderUnit with retry := r } } :=
  { State.Keeps.refl p s with }

theorem State.keeps_pendingList (l : List GroupRef) :
    s.Keeps p { s with orderUnit := { s.orderUnit with pending := l } } :=
  { State.Keeps.refl p s with }

theorem State.keeps_outbox (o : Outbox) : s.Keeps p { s with outbox := o } :=
  { State.Keeps.refl p s with }

theorem State.keeps_reserved (n : Nat) :
    s.Keeps p { s with consolidation := { s.consolidation with reserved := n } } :=
  { State.Keeps.refl p s with }

theorem State.keeps_full : s.Keeps p (s.lineError .full) :=
  { State.Keeps.refl p s with
    line := rfl
    errors := .inr rfl }

theorem State.keeps_waits (l : List WaitEntry) (n : Nat) :
    s.Keeps p { s with power := { s.power with waitList := l, nextSequence := n } } :=
  { State.Keeps.refl p s with power := ⟨rfl, rfl, List.prefix_rfl⟩ }

theorem State.keeps_addClaim (c draw : Nat) : s.Keeps p { s with power := s.power.addClaim c draw } :=
  { State.Keeps.refl p s with power := ⟨rfl, rfl, List.prefix_append _ _⟩ }

theorem State.keeps_queues (c : Nat) (f : Carousel → Carousel) (h : ∀ k, (f k).unqueued = k.unqueued) :
    s.Keeps p (s.modCar c f) :=
  { State.Keeps.refl p s with
    carousels := map_modify_same _ _ (fun k => by simp [Carousel.fixed, h]) _ _
    busy := fun d _ => by
      rw [State.car_modCar]
      split
      · exact h _
      · rfl }

theorem State.keeps_modCar (c : Nat) (f : Carousel → Carousel) (i : ¬p c) (h : ∀ k, (f k).fixed = k.fixed) :
    s.Keeps p (s.modCar c f) :=
  { State.Keeps.refl p s with
    carousels := map_modify_same _ _ h _ _
    busy := fun d hd => by
      rw [State.car_modCar]
      split
      · next e => exact absurd hd (e.1 ▸ i)
      · rfl }

theorem State.keeps_modTask (id : Nat) (st : Task → TaskState) (n : Task → Nat) :
    s.Keeps p (s.modTask id fun t => { t with state := st t, transit := n t }) :=
  { State.Keeps.refl p s with
    tasks := fun j k h => by
      rw [State.task_modTask]
      split
      · exact ⟨st k, n k, by rw [h]; rfl⟩
      · exact ⟨k.state, k.transit, h⟩ }

theorem State.keeps_taskState (id : Nat) (st : TaskState) : s.Keeps p (s.taskState id st) :=
  s.keeps_modTask p id (fun _ => st) Task.transit

theorem State.keeps_newTask (id : Nat) (t : Option Task) (h : s.task id = none) : s.Keeps p (s.setTask id t) :=
  { State.Keeps.refl p s with
    tasks := fun j k hj => by
      rw [State.task_setTask]
      split
      · next e => rw [← e.1, h] at hj; cases hj
      · exact ⟨k.state, k.transit, hj⟩ }

theorem State.keeps_sweepRecord (c : Nat) (f : SweepRecord → SweepRecord) (h : ∀ r, (f r).fixed = r.fixed) :
    s.Keeps p (s.modSweepRecord c f) :=
  { State.Keeps.refl p s with
    audit := rfl
    sweeps := map_modify_same _ _ h _ _ }

theorem State.keeps_modBay (id : BayId) (f : Bay → Bay) (h : ∀ b, (f b).shelf = b.shelf) :
    s.Keeps p (s.modBay id f) :=
  { State.Keeps.refl p s with
    bays := map_modify_same _ _ (fun _ => map_modify_same _ _ h _ _) _ _ }

theorem State.keeps_modOrder (n : Nat) (f : Order → Order) (h : ∀ o, (f o).fixed = o.fixed) :
    s.Keeps p (s.modOrder n f) :=
  { State.Keeps.refl p s with
    orders := by
      simp only [State.modOrder_orderUnit, List.map_map]
      refine List.map_congr_left fun o _ => ?_
      simp only [Function.comp_apply]
      split <;> simp [h] }

/-! ## The outbox -/

theorem State.keeps_dropFrame (f : OutFrame) (h : f.entry = none) (o : f.origin = .part) :
    s.Keeps p (s.dropFrame f) := by
  simp only [State.dropFrame, State.reportLost, h, o]
  exact s.keeps_full p

theorem State.keeps_joinFifo (f : OutFrame) (h : f.entry = none) (o : f.origin = .part) :
    s.Keeps p (s.joinFifo f) := by
  unfold State.joinFifo
  split
  · exact s.keeps_outbox p _
  · split
    · split
      · exact s.keeps_outbox p _
      · exact s.keeps_dropFrame p f h o
    · exact s.keeps_dropFrame p f h o

theorem State.keeps_build (dest kind : Byte) (payload : List Byte) : s.Keeps p (s.build dest kind payload) :=
  (s.keeps_outbox p _).trans (State.keeps_joinFifo p _ _ rfl rfl)

theorem State.keeps_indicate (c bay : Nat) (a : Indication) (q w : Nat) : s.Keeps p (s.indicate c bay a q w) := by
  unfold State.indicate
  split
  · exact s.keeps_build p _ _ _
  · exact State.Keeps.refl p s

theorem State.keeps_sendScan (c carrier : Nat) : s.Keeps p (s.sendScan c carrier) := by
  unfold State.sendScan
  split
  · exact s.keeps_build p _ _ _
  · exact State.Keeps.refl p s

theorem State.keeps_placeMove (c level : Nat) (dest : Byte) (payload : List Byte) :
    s.Keeps p (s.placeMove c level dest payload) :=
  ((s.keeps_outbox p _).trans (State.keeps_outbox p _ _)).trans (State.keeps_outbox p _ _)

/-! ## Presentation, moves and releases; `c` is the carousel served -/

theorem State.keeps_indicateTask (c : Nat) (t : Task) : s.Keeps p (s.indicateTask c t) := by
  unfold State.indicateTask
  split <;> exact s.keeps_indicate p _ _ _ _ _

theorem State.keeps_present (c : Nat) (i : ¬p c) : s.Keeps p (s.present c) := by
  unfold State.present
  split
  · next id _ =>
    have h := (s.keeps_taskState p id .presenting).trans
      (State.keeps_modCar p (s.taskState id .presenting) c
        (fun k => { k with state := .presenting, presentationTimer := some (s.now + s.presentationMs) }) i fun _ => rfl)
    dsimp only
    split
    · exact h.trans (State.keeps_indicateTask p _ _ _)
    · exact h
  · split
    · refine State.Keeps.trans (State.Keeps.trans ?_ (State.keeps_sendScan p _ _ _))
        (State.keeps_sweepRecord p _ _ _ fun _ => rfl)
      exact s.keeps_modCar p c _ i fun _ => rfl
    · exact State.Keeps.refl p s
  · exact State.Keeps.refl p s

theorem State.keeps_startMove (c level target : Nat) (i : ¬p c) (t : State) (h : s.startMove c level target = some t) :
    s.Keeps p t := by
  unfold State.startMove at h
  split at h
  · next g q x _ _ _ =>
    have a := ((s.keeps_addClaim p c g.power).trans (State.keeps_placeMove p _ c level q.drive
      (movePayload target (planMove q.carriers x target g.power).ascending g.speed
        (((s.car c).moveNumber + 1) % 256)))).trans
      (State.keeps_modCar p _ c (fun k => { k with
        state := .moving
        move := some (planMove q.carriers x target g.power)
        moveNumber := ((s.car c).moveNumber + 1) % 256 }) i fun _ => rfl)
    dsimp only at h
    split at h
    · cases h
      exact a.trans (State.keeps_taskState p _ _ _)
    · cases h
      exact a
  · cases h

theorem State.keeps_enterWait (c level : Nat) : s.Keeps p (s.enterWait c level) := by
  unfold State.enterWait
  dsimp only
  split
  · exact (s.keeps_waits p _ _).trans (State.keeps_taskState p _ _ _)
  · exact s.keeps_waits p _ _

theorem State.keeps_beginWork (c : Nat) (w : Work) (level target : Nat) (i : ¬p c) :
    s.Keeps p (s.beginWork c w level target) := by
  have h := State.keeps_modCar p s c (fun k => { k with inService := some w }) i fun _ => rfl
  unfold State.beginWork
  dsimp only
  split
  · exact h.trans (State.keeps_present p _ c i)
  · split
    · next e => exact h.trans (State.keeps_startMove p _ c level target i _ e)
    · exact h.trans (State.keeps_enterWait p _ _ _)

theorem State.keeps_grant (n : Nat) (t : State) (h : s.grant n = some t) : s.Keeps p t := by
  unfold State.grant at h
  split at h
  · cases h
    exact s.keeps_reserved p _
  · cases h

theorem State.keeps_releaseTransit (id : Nat) (k : Task) (t : State) (h : s.releaseTransit id k = some t) :
    s.Keeps p t := by
  unfold State.releaseTransit at h
  split at h
  · rw [Option.map_eq_some_iff] at h
    obtain ⟨u, hu, rfl⟩ := h
    exact (s.keeps_grant p _ u hu).trans (State.keeps_modTask p u id Task.state fun t => t.quantity - t.taken)
  · cases h
    exact State.Keeps.refl p s

theorem State.keeps_attemptRelease (c id : Nat) (k : Task) (i : ¬p c) : s.Keeps p (s.attemptRelease c id k).1 := by
  unfold State.attemptRelease
  split
  · split
    · next u hu =>
      exact ((s.keeps_releaseTransit p id k u hu).trans
        (State.keeps_queues p u c (fun x => x.unqueue id) fun _ => rfl)).trans (State.keeps_beginWork p _ c _ _ _ i)
    · exact State.Keeps.refl p s
  · exact s.keeps_taskState p id _

theorem State.keeps_walk (c : Nat) (l : List Nat) (i : ¬p c) : s.Keeps p (State.walk c l s).1 := by
  induction l generalizing s with
  | nil => exact State.Keeps.refl p s
  | cons id rest ih =>
    unfold State.walk
    split
    · exact ih s
    · next k _ =>
      split
      · have h := s.keeps_attemptRelease p c id k i
        split
        · next e => rw [e] at h; exact h
        · next e => rw [e] at h; exact h.trans (ih _)
      · exact ih s

theorem State.keeps_releaseStep (c : Nat) (i : ¬p c) : s.Keeps p (s.releaseStep c) := by
  unfold State.releaseStep
  split
  · split
    · exact s.keeps_beginWork p c _ _ _ i
    · exact State.Keeps.refl p s
  · exact State.Keeps.refl p s

end Single

/-! ## Service points -/

theorem State.follows_servicePoint (s : State) (c : Nat) : s.Follows (s.servicePoint c) := by
  unfold State.servicePoint
  split
  · next h =>
    have i : ¬s.idleReady c = false := by simp [h]
    have w := s.keeps_walk (fun c => s.idleReady c = false) c (s.car c).walkOrder i
    split
    · next e => rw [e] at w; exact w
    · next e => rw [e] at w; exact w.trans (State.keeps_releaseStep _ _ c i)
  · exact State.Follows.refl s

theorem State.follows_foldl {α : Type} (f : State → α → State) (h : ∀ (s : State) a, s.Follows (f s a)) (l : List α) (s : State) :
    s.Follows (l.foldl f s) := by
  induction l generalizing s with
  | nil => exact State.Follows.refl s
  | cons a l ih => exact (h s a).trans (ih _)

theorem State.follows_arrange (s : State) (l : List Nat) : s.Follows (s.arrange l).2 := by
  unfold State.arrange
  split
  · exact State.Follows.refl s
  · exact s.keeps_choices _ _

theorem State.follows_servicePoints (s : State) (l : List Nat) : s.Follows (s.servicePoints l) :=
  (s.follows_arrange _).trans (State.follows_foldl _ State.follows_servicePoint _ _)

theorem State.follows_joinTail (s : State) (id : Nat) : s.Follows (s.joinTail id) := by
  unfold State.joinTail
  split
  · refine State.Follows.trans (State.keeps_queues _ s _ _ ?_) (State.follows_servicePoint _ _)
    intro k
    unfold Carousel.modQueue
    split
    · rfl
    · split
      · rfl
      · split <;> rfl
  · exact State.Follows.refl s

/-! ## Allocation -/

theorem State.keeps_reserve (p : Nat → Prop) (s : State) (id : BayId) (y : Tyre) (n : Nat) (t : State)
    (h : s.reserve id y n = some t) : s.Keeps p t := by
  unfold State.reserve at h
  dsimp only at h
  split at h
  · cases h
    exact s.keeps_modBay p id _ fun _ => rfl
  · cases h

theorem State.keeps_noteRetry (p : Nat → Prop) (s : State) (r : Retry) : s.Keeps p (s.noteRetry r) :=
  s.keeps_retry p _

theorem State.keeps_reserveRelease (p : Nat → Prop) (s : State) (id : BayId) (n : Nat) :
    s.Keeps p (s.reserveRelease id n) := by
  unfold State.reserveRelease
  split
  · exact State.Keeps.refl p s
  · refine State.Keeps.trans ?_ (State.keeps_noteRetry p _ _)
    exact s.keeps_modBay p id _ fun _ => rfl

theorem State.keeps_foldl {α : Type} (p : Nat → Prop) (f : State → α → State) (h : ∀ (s : State) a, s.Keeps p (f s a))
    (l : List α) (s : State) : s.Keeps p (l.foldl f s) := by
  induction l generalizing s with
  | nil => exact State.Keeps.refl p s
  | cons a l ih => exact (h s a).trans (ih _)

theorem State.keeps_reservePlan (p : Nat → Prop) (article : Nat) (plan made : List Draw) (s : State) :
    match s.reservePlan article plan made with
    | .ok t => s.Keeps p t ∧ t.orderUnit = s.orderUnit
    | .error x => s.Keeps p x.2 := by
  induction plan generalizing s made with
  | nil => exact ⟨State.Keeps.refl p s, rfl⟩
  | cons d ds ih =>
    unfold State.reservePlan
    cases h : s.reserve d.bay { article, batch := d.batch } d.quantity with
    | none => exact State.keeps_foldl p _ (fun s (m : Draw) => s.keeps_reserveRelease p m.bay m.quantity) _ _
    | some s1 =>
      have a := s.keeps_reserve p _ _ _ s1 h
      have e : s1.orderUnit = s.orderUnit := by
        unfold State.reserve at h
        dsimp only at h
        split at h
        · cases h; rfl
        · cases h
      have b := ih (made ++ [d]) s1
      dsimp only
      revert b
      cases s1.reservePlan article ds (made ++ [d]) with
      | ok t => exact fun b => ⟨a.trans b.1, b.2.trans e⟩
      | error x => exact fun b => a.trans b

theorem State.keeps_setTasks (p : Nat → Prop) (g : Nat × Draw → Task) (l : List (Nat × Draw)) (s : State)
    (free : ∀ x ∈ l, s.task x.1 = none) (distinct : (l.map Prod.fst).Nodup) :
    s.Keeps p (l.foldl (fun s x => s.setTask x.1 (some (g x))) s) := by
  induction l generalizing s with
  | nil => exact State.Keeps.refl p s
  | cons x l ih =>
    rw [List.map_cons, List.nodup_cons] at distinct
    refine (s.keeps_newTask p x.1 _ (free x (by simp))).trans (ih _ (fun y hy => ?_) distinct.2)
    rw [State.task_setTask, if_neg]
    · exact free y (by simp [hy])
    · intro e
      exact distinct.1 (e.1 ▸ List.mem_map_of_mem hy)

theorem State.freeTasks_free (s : State) (id : Nat) (h : id ∈ s.freeTasks) : s.task id = none := by
  unfold State.freeTasks at h
  rw [List.mem_filter] at h
  have h2 := h.2
  unfold State.task
  rw [List.getD_eq_getElem?_getD]
  split at h2
  · next e => rw [e]; rfl
  · cases h2

theorem State.freeTasks_nodup (s : State) : s.freeTasks.Nodup :=
  List.nodup_range.filter _

theorem Order.fixed_groups (o : Order) (i : Nat) (f : Group → Group) (n : Nat)
    (h : ∀ g, (f g).fixed = g.fixed) :
    ({ o with lines := o.lines.modify i fun l => { l with
        groups := l.groups.map fun g => if g.number = n then f g else g } } : Order).fixed = o.fixed := by
  unfold Order.fixed
  dsimp only
  congr 1
  refine map_modify_same _ _ (fun l => ?_) _ _
  dsimp only
  congr 1
  rw [List.map_map]
  refine List.map_congr_left fun g _ => ?_
  simp only [Function.comp_apply]
  split <;> simp [h]

theorem State.keeps_modGroup (p : Nat → Prop) (s : State) (ref : GroupRef) (f : Group → Group)
    (h : ∀ g, (f g).fixed = g.fixed) : s.Keeps p (s.modGroup ref f) :=
  s.keeps_modOrder p _ _ fun o => o.fixed_groups _ f _ h

theorem State.follows_placeTask (o : Order) (s : State) (id : Nat) : s.Follows (s.placeTask o id) := by
  unfold State.placeTask
  split
  · exact s.keeps_modOrder _ _ _ fun _ => rfl
  · exact s.follows_joinTail id

theorem State.follows_allocated (s : State) (o : Order) (ref : GroupRef) (plan : List Draw) (ids : List Nat)
    (free : ∀ id ∈ ids, s.task id = none) (distinct : ids.Nodup) : s.Follows (s.allocated o ref plan ids) := by
  unfold State.allocated
  refine State.Follows.trans ?_ (State.follows_foldl _ (State.follows_placeTask o) _ _)
  refine State.Keeps.trans ?_ (State.keeps_pendingList _ _ _)
  refine State.Keeps.trans ?_ (State.keeps_modGroup _ _ _ _ fun _ => rfl)
  refine s.keeps_setTasks _ (fun x => pickTask o ref x.2) _ ?_ ?_
  · intro x hx
    exact free _ (List.of_mem_zip hx).1
  · exact distinct.sublist (fst_zip_sublist ids plan)

theorem State.follows_allocate (ref : GroupRef) (fuel : Nat) (out : List BayId) (s : State) :
    s.Follows (State.allocate ref fuel out s).1 := by
  induction fuel generalizing s out with
  | zero => exact State.Follows.refl s
  | succ fuel ih =>
    unfold State.allocate
    split
    · next o g _ _ =>
      dsimp only
      split
      · exact State.Follows.refl s
      · next x _ =>
        split
        · exact State.Follows.refl s
        · have h := State.keeps_reservePlan (fun c => s.idleReady c = false) (s.groupArticle ref)
            (planDraws g.need (drawOrder (s.candidates (s.groupArticle ref) g.need g.window out) x
              (s.tolerance (s.groupArticle ref)))) [] s
          revert h
          cases s.reservePlan (s.groupArticle ref)
            (planDraws g.need (drawOrder (s.candidates (s.groupArticle ref) g.need g.window out) x
              (s.tolerance (s.groupArticle ref)))) [] with
          | ok s1 =>
            intro h
            refine State.Follows.trans h.1 (State.follows_allocated s1 o ref _ _ (fun id hid => ?_) ?_)
            · have f := s.freeTasks_free id (List.mem_of_mem_take hid)
              unfold State.task at f ⊢
              rw [h.2]
              exact f
            · exact s.freeTasks_nodup.sublist (List.take_sublist _ _)
          | error y => exact fun h => State.Follows.trans h (ih _ _)
    · exact State.Follows.refl s

/-! ## The follow-ups -/

theorem State.follows_retryGroup (r : Retry) (s : State) (ref : GroupRef) : s.Follows (s.retryGroup r ref) := by
  unfold State.retryGroup
  split
  · exact State.follows_allocate ref _ _ s
  · exact State.Follows.refl s

theorem State.follows_runRetries (n : Nat) (s : State) : s.Follows (State.runRetries n s) := by
  induction n generalizing s with
  | zero => exact State.Follows.refl s
  | succ n ih =>
    unfold State.runRetries
    split
    · exact State.Follows.refl s
    · exact State.Follows.trans (State.Follows.trans (s.keeps_retry _ _)
        (State.follows_foldl _ (State.follows_retryGroup _) _ _)) (ih _)

theorem State.follows_serveFreed (s : State) : s.Follows s.serveFreed := by
  unfold State.serveFreed
  split
  · exact State.Follows.trans (s.keeps_agenda _ _) (State.follows_servicePoints _ _)
  · exact State.Follows.refl s

/-- The frame of a step's follow-ups (log 8). -/
theorem State.settle_follows (s : State) : s.Follows s.settle := by
  unfold State.settle State.servePoints
  exact ((s.follows_serveFreed).trans (State.follows_runRetries _ _)).trans
    (State.Follows.trans (State.keeps_agenda _ _ _) (State.follows_servicePoints _ _))

end Sys2Proof.Machine
end

