-- ==== Sys2Proof/Laws/Closure.lean ====
section
/-! SUPPORT. Once for all what a step can do to the part: `Closed P` lists the changes the operations are made of, and
`Closed.exec` says that a property kept by each of them is kept by every command. -/

namespace Sys2Proof.Machine

/-- A property of the part that every elementary change keeps, each under the test that guards it in the model. -/
structure Closed (P : State → Prop) : Prop where
  now : ∀ s n, P s → P { s with now := n }
  choices : ∀ s n, P s → P { s with choices := n }
  agenda : ∀ s a, P s → P { s with agenda := a }
  pending : ∀ s q, P s → P { s with pending := q }
  putAway : ∀ s x, P s → P { s with putAway := x }
  consolidation : ∀ s (x : Consolidation),
    (x.lanes.length = s.consolidation.lanes.length ∨ x.lanes.length ≤ 16) → (s.consolidation.lawful → x.lawful) →
    P s → P { s with consolidation := x }
  cars : ∀ s c f, P s → P { s with carousels := s.carousels.modify c f }
  bals : ∀ s c f, P s → P { s with balances := s.balances.modify c f }
  bay : ∀ s id f, ((s.bay id).lawful → (f (s.bay id)).lawful) → P s → P (s.modBay id f)
  formBays : ∀ s c n, P s → P { s with bays := s.bays.modify c fun _ => List.replicate n {} }
  pool : ∀ s i f, P s → P { s with orderUnit := { s.orderUnit with pool := s.orderUnit.pool.modify i f } }
  waiting : ∀ s p l r, P s →
    P { s with orderUnit := { s.orderUnit with pending := p, laneWait := l, retry := r } }
  modOrder : ∀ s n f, (∀ o : Order, (f o).number = o.number) → P s → P (s.modOrder n f)
  removeOrder : ∀ s n, P s → P (s.removeOrder n)
  addOrder : ∀ s (o : Order), s.orderUnit.orders.length < 64 → s.order o.number = none → P s →
    P { s with orderUnit := { s.orderUnit with orders := s.orderUnit.orders ++ [o] } }
  dropWait : ∀ s c, P s → P (s.leaveWait c)
  addWait : ∀ s c l n, c < s.carousels.length → P s → P { s with power := { s.power with
    waitList := insertWait { carousel := c, level := l, sequence := n } (s.power.waitList.filter fun x => x.carousel != c)
    nextSequence := n + 1 } }
  addClaim : ∀ s c d, d ≤ s.power.budget - s.power.claimed → P s → P { s with power := s.power.addClaim c d }
  dropClaim : ∀ s c, P s → P { s with power := s.power.dropClaim c }
  target : ∀ s n, P s → P { s with power := Power.settleBudget { s.power with target := n } }
  link : ∀ s (l : LinkPort), (l.rx.length ≤ s.link.rx.length ∨ l.rx.length ≤ 8) →
    (l.tx.length ≤ s.link.tx.length ∨ l.tx.length ≤ 16) → P s → P { s with link := l }
  line : ∀ s (l : LinePort), (l.rx.length ≤ s.line.rx.length ∨ l.rx.length ≤ 16) →
    (l.drive || l.outsideHold) = s.lineHeld → P s → P { s with line := l }
  clear : ∀ s (l : LinePort), l.rx = s.line.rx → (l.drive || l.outsideHold) = false → P s → P { s with line := l }
  hold : ∀ s (l : LinePort), l.rx = s.line.rx → P s → P ({ s with line := l } : State).dropUnsent
  outbox : ∀ s (o : Outbox), o.slots.length = s.outbox.slots.length →
    (o.fifo.length ≤ s.outbox.fifo.length ∨ o.fifo.length ≤ 32) →
    (s.lineHeld = true → ∀ c m, o.slots.getD c none = some m → m.chosen = true ∨ s.slot c = some m) →
    P s → P { s with outbox := o }
  filter : ∀ s i e, P s → P { s with filter := s.filter.set i e }
  putArticle : ∀ s (a : Article), (s.article a.code = none → s.articles.length < 512) → P s →
    P { s with articles := insertArticle a s.articles }
  dropArticle : ∀ s (q : Article → Bool), P s → P { s with articles := s.articles.filter q }
  audit : ∀ s (x : AuditUnit), x.list = s.audit.list → x.sweeps.length = s.audit.sweeps.length → P s →
    P { s with audit := x }
  log : ∀ s (e : Discrepancy), s.audit.list.length < 32 → P s →
    P { s with audit := { s.audit with
      list := s.audit.list ++ [{ e with number := s.audit.nextNumber }], entryCounter := s.audit.nextNumber } }
  markEntries : ∀ s f, (∀ e : Discrepancy, (f e).number = e.number) → P s →
    P { s with audit := { s.audit with list := s.audit.list.map f } }
  dropEntries : ∀ s (q : Discrepancy → Bool) m, P s →
    P { s with audit := { s.audit with list := s.audit.list.filter q, listFull := m } }
  clearStore : ∀ s, P s → P s.clearStore
  powerOn : ∀ a b c, P (State.powerOn a b c)

namespace Closed

variable {P : State → Prop} (h : Closed P) {s : State} (hs : P s)
include h hs

/-! ## Records -/

theorem modCar (c : Nat) (f : Carousel → Carousel) : P (s.modCar c f) := h.cars _ _ _ hs
theorem modBal (c : Nat) (f : Balance → Balance) : P (s.modBal c f) := h.bals _ _ _ hs
theorem modBay (id : BayId) (f : Bay → Bay) (l : (s.bay id).lawful → (f (s.bay id)).lawful) : P (s.modBay id f) :=
  h.bay _ _ _ l hs
theorem modTask (id : Nat) (f : Task → Task) : P (s.modTask id f) := h.pool _ _ _ hs
theorem setTask (id : Nat) (t : Option Task) : P (s.setTask id t) := h.pool _ _ _ hs
theorem taskState (id : Nat) (t : TaskState) : P (s.taskState id t) := h.pool _ _ _ hs
theorem modGroup (r : GroupRef) (f : Group → Group) : P (s.modGroup r f) := h.modOrder _ _ _ (fun _ => rfl) hs
theorem noteRetry (r : Retry) : P (s.noteRetry r) := h.waiting s _ _ _ hs
theorem pendingList (l : List GroupRef) : P { s with orderUnit := { s.orderUnit with pending := l } } :=
  h.waiting s l _ _ hs
theorem laneWait (l : List Nat) : P { s with orderUnit := { s.orderUnit with laneWait := l } } := h.waiting s _ l _ hs
theorem retry (r : Retry) : P { s with orderUnit := { s.orderUnit with retry := r } } := h.waiting s _ _ r hs
theorem noteFreed : P s.noteFreed := h.agenda _ _ hs

theorem notePoint (c : Nat) : P (s.notePoint c) := by
  unfold State.notePoint
  split
  · exact hs
  · exact h.agenda _ _ hs

theorem modLane (n : Nat) (f : Lane → Lane) : P (s.modLane n f) := h.consolidation _ _ (.inl (by simp)) (fun a => ⟨a.room, a.places, a.range⟩) hs
theorem modSweepRecord (c : Nat) (f : SweepRecord → SweepRecord) : P (s.modSweepRecord c f) :=
  h.audit _ _ rfl (by simp) hs

theorem arrange (l : List Nat) : P (s.arrange l).2 := by
  unfold State.arrange
  split
  · exact hs
  · exact h.choices _ _ hs

omit h hs in
theorem foldl {α : Type} (f : State → α → State) (l : List α) {s : State} (hs : P s)
    (hf : ∀ s a, P s → P (f s a)) : P (l.foldl f s) := by
  induction l generalizing s with
  | nil => exact hs
  | cons a l ih => exact ih (hf _ _ hs)

/-! ## Link -/

theorem linkError (e : PortError) : P (s.linkError e) := h.link _ _ (.inl le_rfl) (.inl le_rfl) hs
theorem lineError (e : PortError) : P (s.lineError e) := h.line _ _ (.inl le_rfl) rfl hs
theorem takeRequest : P s.takeRequest := h.link _ _ (.inl (by simp)) (.inl le_rfl) hs
theorem resetLink : P s.resetLink := h.link _ _ (.inl (by simp)) (.inl (by simp)) hs

theorem queueLink (f : Frame) : P (s.queueLink f) := by
  unfold State.queueLink
  split
  · exact h.linkError hs _
  · split
    · exact h.linkError hs _
    · next n =>
      refine h.link _ _ (.inl le_rfl) (.inr ?_) hs
      simp [LinkPort.txFull] at n
      simp only [List.length_append, List.length_singleton]
      omega

theorem forward (f : Frame) : P (s.forward f) := by
  unfold State.forward
  split
  · exact h.queueLink hs f
  · exact hs

theorem notify (n : Notice) : P (s.notify n) := by
  unfold State.notify
  split
  · exact hs
  · split
    · exact h.queueLink hs _
    · exact hs

theorem answer (f : Frame) (r : Reply) (b : Bool) : P (s.answer f r b) := by
  unfold State.answer
  dsimp only
  split
  · refine h.link _ _ (.inl le_rfl) (.inr ?_) hs
    simp only [List.length_append, List.length_singleton]
    omega
  · exact h.link _ _ (.inl le_rfl) (.inl le_rfl) hs

theorem takeLinkFrame (l : List Byte) : P (s.takeLinkFrame l) := by
  unfold State.takeLinkFrame
  split
  · exact hs
  · split
    · exact h.linkError hs _
    · split
      · exact h.linkError hs _
      · split
        · exact h.linkError hs _
        · refine h.link _ _ (.inr ?_) (.inl le_rfl) hs
          simp only [List.length_append, List.length_singleton]
          omega

theorem takeLineFrame (l : List Byte) : P (s.takeLineFrame l) := by
  unfold State.takeLineFrame
  split
  · exact hs
  · split
    · exact h.lineError hs _
    · split
      · exact h.lineError hs _
      · split
        · exact h.lineError hs _
        · refine h.line _ _ (.inr ?_) rfl hs
          simp only [List.length_append, List.length_singleton]
          omega

theorem linkReceiver (r : Receiver) : P { s with link := { s.link with receiver := r } } :=
  h.link _ _ (.inl le_rfl) (.inl le_rfl) hs

theorem lineReceiver (r : Receiver) : P { s with line := { s.line with receiver := r } } :=
  h.line _ _ (.inl le_rfl) rfl hs

theorem linkByte (b : Byte) : P (s.linkByte b) := by
  unfold State.linkByte
  have a := h.linkReceiver hs (receiveByte s.linkMax s.link.receiver b).receiver
  dsimp only
  split
  · split
    · exact h.takeLinkFrame (h.linkError a _) _
    · exact h.takeLinkFrame a _
  · split
    · exact h.linkError a _
    · exact a

theorem lineByte (b : Byte) : P (s.lineByte b) := by
  unfold State.lineByte
  have a := h.lineReceiver hs (receiveByte s.lineMax s.line.receiver b).receiver
  dsimp only
  split
  · split
    · exact h.takeLineFrame (h.lineError a _) _
    · exact h.takeLineFrame a _
  · split
    · exact h.lineError a _
    · exact a

/-! ## Outbox -/

theorem transit (x : Consolidation) (e : x.lanes = s.consolidation.lanes) (l : s.consolidation.lawful → x.lawful) :
    P { s with consolidation := x } :=
  h.consolidation _ _ (.inl (by rw [e])) l hs

theorem routeLost (n : Nat) : P (s.routeLost n) := by
  refine h.transit hs _ rfl fun a => ⟨by simpa using a.room, ?_, ?_⟩
  · have e : (s.consolidation.transit.map fun e => if e.serial = n then { e with unrouted := true } else e).map
        TransitEntry.place = s.consolidation.transit.map TransitEntry.place := by
      rw [List.map_map]
      exact List.map_congr_left fun x _ => by simp only [Function.comp]; split <;> rfl
    exact e ▸ a.places
  · intro x hx
    obtain ⟨y, hy, rfl⟩ := List.mem_map.1 hx
    have := a.range y hy
    split <;> exact this

theorem reportLost (f : OutFrame) : P (s.reportLost f) := by
  unfold State.reportLost
  split
  · exact h.routeLost hs _
  · exact hs

theorem grant (n : Nat) (t : State) (e : s.grant n = some t) : P t := by
  unfold State.grant at e
  split at e
  · cases e
    exact h.transit hs _ rfl fun a => ⟨by dsimp only; omega, a.places, a.range⟩
  · cases e

theorem giveBack (n : Nat) : P (s.giveBack n) := by
  unfold State.giveBack
  split
  · exact hs
  · exact h.noteFreed (h.transit hs _ rfl fun a => ⟨by have := a.room; dsimp only; omega, a.places, a.range⟩)

theorem fillEntry (r : GroupRef) (y : Tyre) (l : Nat) (c : ConveyorSource) (d : Nat) : P (s.fillEntry r y l c d).1 := by
  unfold State.fillEntry
  dsimp only
  split
  · exact hs
  · next e =>
    have m : s.freePlaces.getD (Config.placeChoice s.choices % s.freePlaces.length) 0 ∈ s.freePlaces := by
      have i := Nat.mod_lt (Config.placeChoice s.choices) (List.length_pos_iff.2 (by simpa using e))
      rw [List.getD_eq_getElem?_getD, List.getElem?_eq_getElem i]
      exact List.getElem_mem i
    generalize s.freePlaces.getD (Config.placeChoice s.choices % s.freePlaces.length) 0 = place at m ⊢
    have free : place < 64 ∧ ∀ x ∈ s.consolidation.transit, x.place ≠ place := by
      simpa [State.freePlaces] using m
    refine h.transit (s := { s with choices := s.choices + 1 }) (h.choices s _ hs) _ rfl fun a => ⟨?_, ?_, ?_⟩
    · have room := a.room
      have full : s.consolidation.transit.length < 64 := by
        have sub : (place :: s.consolidation.transit.map TransitEntry.place) ⊆ List.range 64 := by
          intro x hx
          rcases List.mem_cons.1 hx with rfl | hx
          · exact List.mem_range.2 free.1
          · obtain ⟨y, hy, rfl⟩ := List.mem_map.1 hx
            exact List.mem_range.2 (a.range y hy)
        have nodup : (place :: s.consolidation.transit.map TransitEntry.place).Nodup := by
          refine List.nodup_cons.2 ⟨fun hx => ?_, a.places⟩
          obtain ⟨y, hy, e⟩ := List.mem_map.1 hx
          exact free.2 y hy e
        have := (List.Nodup.subperm nodup sub).length_le
        simpa using this
      simp only [List.length_append, List.length_singleton] at room ⊢
      omega
    · simp only [List.map_append, List.map_cons, List.map_nil]
      refine List.Nodup.append a.places (List.nodup_singleton _) fun x hx hy => ?_
      rw [List.mem_singleton] at hy
      subst hy
      obtain ⟨y, hy, e⟩ := List.mem_map.1 hx
      exact free.2 y hy e
    · intro x hx
      rcases List.mem_append.1 hx with hx | hx
      · exact a.range x hx
      · rw [List.mem_singleton] at hx
        subst hx
        exact free.1

theorem removeEntries (q : TransitEntry → Bool) : P (s.removeEntries q) := by
  unfold State.removeEntries
  split
  · refine h.noteFreed (h.transit hs _ rfl fun a => ⟨?_, ?_, fun x hx => a.range x (List.mem_filter.1 hx).1⟩)
    · have := a.room
      have := List.length_filter_le (fun e => !q e) s.consolidation.transit
      dsimp only
      omega
    · exact a.places.sublist (List.filter_sublist.map _)
  · exact hs

theorem tx (t : Transmitter) : P { s with outbox := { s.outbox with tx := t } } :=
  h.outbox _ _ rfl (.inl le_rfl) (fun _ _ _ e => .inr e) hs
theorem txIdle : P s.txIdle := h.tx hs _

theorem setSlot (c : Nat) (m : Option SlotMove)
    (q : s.lineHeld = true → ∀ x, m = some x → x.chosen = true) : P (s.setSlot c m) := by
  refine h.outbox _ _ (by simp) (.inl le_rfl) (fun l d x e => ?_) hs
  have g : (s.setSlot c m).slot d = some x := e
  by_cases k : c = d
  · subst k
    simp only [State.slot, State.setSlot, List.getD_eq_getElem?_getD, List.getElem?_modify] at g
    cases hk : s.outbox.slots[c]? with
    | none => rw [hk] at g; cases g
    | some y =>
      rw [hk] at g
      exact .inl (q l x (by simpa using g))
  · refine .inr ?_
    simpa [State.slot, State.setSlot, List.getD_eq_getElem?_getD, List.getElem?_modify, k] using g

theorem dropFrame (f : OutFrame) : P (s.dropFrame f) := by
  unfold State.dropFrame
  have a := h.reportLost (h.lineError hs .full) f
  dsimp only
  split
  · exact a
  · exact h.notify a _

omit h hs in
theorem replaceLast_length {α : Type} (p : α → Bool) (x : α) (l m : List α) (e : replaceLast p x l = some m) :
    m.length = l.length := by
  induction l generalizing m with
  | nil => cases e
  | cons y ys ih =>
    unfold replaceLast at e
    split at e
    · next k hk => cases e; simp [ih k hk]
    · split at e <;> cases e
      rfl

theorem joinFifo (f : OutFrame) : P (s.joinFifo f) := by
  unfold State.joinFifo
  split
  · refine h.outbox _ _ rfl (.inr ?_) (fun _ _ _ e => .inr e) hs
    simp only [List.length_append, List.length_singleton]
    omega
  · split
    · split
      · next e => exact h.outbox _ _ rfl (.inl (replaceLast_length _ _ _ _ e).le) (fun _ _ _ e => .inr e) hs
      · exact h.dropFrame hs f
    · exact h.dropFrame hs f

theorem takeTag : P s.takeTag.2 := h.outbox s _ rfl (.inl le_rfl) (fun _ _ _ e => .inr e) hs

theorem build (d k : Byte) (p : List Byte) (e : Option Nat) : P (s.build d k p e) :=
  h.joinFifo (h.takeTag hs) _

theorem indicate (c b : Nat) (a : Indication) (q w : Nat) : P (s.indicate c b a q w) := by
  unfold State.indicate
  split
  · exact h.build hs _ _ _ _
  · exact hs

theorem sendStop (c : Nat) : P (s.sendStop c) := by
  unfold State.sendStop
  split
  · exact h.build hs _ _ _ _
  · exact hs

theorem sendStatusQuery (c : Nat) : P (s.sendStatusQuery c) := by
  unfold State.sendStatusQuery
  split
  · exact h.build hs _ _ _ _
  · exact hs

theorem sendScan (c k : Nat) : P (s.sendScan c k) := by
  unfold State.sendScan
  split
  · exact h.build hs _ _ _ _
  · exact hs

theorem sendRoute (c : ConveyorSource) (d : RouteTo) (y : Tyre) (e : Option Nat) : P (s.sendRoute c d y e) :=
  h.build hs _ _ _ _

theorem placeMove (c l : Nat) (d : Byte) (p : List Byte) (q : s.lineHeld = false) : P (s.placeMove c l d p) :=
  h.setSlot (h.tx (h.takeTag hs) _) _ _ fun e => by
    have l : s.lineHeld = true := e
    rw [q] at l
    cases l

theorem cancelMove (c : Nat) : P (s.cancelMove c).1 := by
  unfold State.cancelMove
  split
  · split
    · exact hs
    · exact h.setSlot hs _ _ fun _ _ e => by cases e
  · exact hs

theorem startTransmission : P s.startTransmission := by
  unfold State.startTransmission
  split
  · split
    · split
      · exact h.tx (h.setSlot hs _ _ fun _ _ e => by cases e; rfl) _
      · exact hs
    · split
      · next e => exact h.outbox _ _ rfl (.inl (by rw [e]; simp)) (fun _ _ _ e => .inr e) hs
      · exact hs
  · exact hs

theorem endTransmission : P s.endTransmission := by
  unfold State.endTransmission
  split
  · split
    · exact h.tx hs _
    · split
      · exact h.tx hs _
      · exact hs
  · exact hs

theorem repeatFrame (x : Sending) : P (s.repeatFrame x) := h.tx hs _

theorem reportExhausted (x : Sending) : P (s.reportExhausted x) := by
  unfold State.reportExhausted
  split
  · exact hs
  · exact hs
  · split
    · split
      · exact h.reportLost hs _
      · exact h.notify hs _
    · exact h.notify hs _

end Closed

end Sys2Proof.Machine
end

