-- ==== Sys2Proof/Laws/ClosureService.lean ====
section
/-! SUPPORT. `Closed` for the sequencers, the claims and the order unit (Sequencer, Claims, Orders, Service). -/

namespace Sys2Proof.Machine.Closed

variable {P : State → Prop} (h : Closed P) {s : State} (hs : P s)
include h hs

/-! ## Sequencer -/

theorem indicateTask (c : Nat) (t : Task) : P (s.indicateTask c t) := by
  unfold State.indicateTask
  split <;> exact h.indicate hs _ _ _ _ _

theorem present (c : Nat) : P (s.present c) := by
  unfold State.present
  split
  · dsimp only
    split
    · exact h.indicateTask (h.modCar (h.taskState hs _ _) _ _) _ _
    · exact h.modCar (h.taskState hs _ _) _ _
  · split
    · exact h.modSweepRecord (h.sendScan (h.modCar hs _ _) _ _) _ _
    · exact hs
  · exact hs

theorem startMove (c l n : Nat) (t : State) (q : s.lineHeld = false) (e : s.startMove c l n = some t) : P t := by
  unfold State.startMove at e
  split at e
  · next g p i hg _ _ =>
    have room : g.power ≤ s.power.budget - s.power.claimed := by
      unfold State.resolveGrade at hg
      split at hg
      · simpa using List.find?_some hg
      · cases hg
    have a := h.addClaim s c g.power room hs
    dsimp only at e
    split at e
    · cases e
      exact h.taskState (h.modCar (h.placeMove a _ _ _ _ q) _ _) _ _
    · cases e
      exact h.modCar (h.placeMove a _ _ _ _ q) _ _
  · cases e

theorem leaveWait (c : Nat) : P (s.leaveWait c) := h.dropWait s c hs

theorem enterWait (c l : Nat) (r : c < s.carousels.length) : P (s.enterWait c l) := by
  unfold State.enterWait
  dsimp only
  split
  · exact h.taskState (h.addWait s c l _ r hs) _ _
  · exact h.addWait s c l _ r hs

theorem beginWork (c : Nat) (w : Work) (l n : Nat) (r : c < s.carousels.length)
    (q : (s.car c).index = some n ∨ s.lineHeld = false) : P (s.beginWork c w l n) := by
  unfold State.beginWork
  dsimp only
  split
  · exact h.present (h.modCar hs _ _) _
  · next k =>
    have free : s.lineHeld = false := q.resolve_left k
    split
    · next e => exact h.startMove (h.modCar hs _ _) _ _ _ _ free e
    · exact h.enterWait (h.modCar hs _ _) _ _ (by simpa using r)

theorem releaseTransit (i : Nat) (k : Task) (t : State) (e : s.releaseTransit i k = some t) : P t := by
  unfold State.releaseTransit at e
  split at e
  · rw [Option.map_eq_some_iff] at e
    obtain ⟨u, hu, rfl⟩ := e
    exact h.modTask (h.grant hs _ _ hu) _ _
  · cases e
    exact hs

omit h hs in
/-- A release's transit entries leave carousels and line as they were. -/
theorem releaseTransit_keeps (i : Nat) (k : Task) (t : State) (e : s.releaseTransit i k = some t) :
    t.carousels = s.carousels ∧ t.line = s.line := by
  unfold State.releaseTransit State.grant at e
  split at e
  · split at e
    · cases e
      exact ⟨rfl, rfl⟩
    · cases e
  · cases e
    exact ⟨rfl, rfl⟩

omit h hs in
/-- A move start that is not blocked finds the stop pair clear (R49). -/
theorem clearOfBlock (c : Nat) (b : s.moveBlocked c = false) : s.lineHeld = false := by
  simp only [State.moveBlocked, Bool.or_eq_false_iff] at b
  exact b.2

theorem attemptRelease (c i : Nat) (k : Task) (r : c < s.carousels.length) (el : s.eligible c k = true) :
    P (s.attemptRelease c i k).1 := by
  unfold State.attemptRelease
  split
  · split
    · next t e =>
      obtain ⟨cars, line⟩ := releaseTransit_keeps i k t e
      refine h.beginWork (h.modCar (h.releaseTransit hs _ _ _ e) _ _) _ _ _ _ (by simpa [cars] using r) ?_
      simp only [State.eligible, Bool.and_eq_true, Bool.or_eq_true, decide_eq_true_eq, Bool.not_eq_true'] at el
      refine el.2.imp (fun x => ?_) fun x => ?_
      · rw [← x]
        simp [State.car, cars, List.getD_eq_getElem?_getD, List.getElem?_eq_getElem r, Carousel.unqueue]
      · have free := clearOfBlock c x
        simpa [State.lineHeld, line] using free
    · exact hs
  · exact h.taskState hs _ _

theorem walk (c : Nat) (l : List Nat) (r : c < s.carousels.length) : P (State.walk c l s).1 := by
  induction l generalizing s with
  | nil => exact hs
  | cons i rest ih =>
    unfold State.walk
    split
    · exact ih hs r
    · next k _ =>
      split
      · next el =>
        have a := h.attemptRelease hs c i k r el
        split
        · next e => rw [e] at a; exact a
        · next s1 e =>
          rw [e] at a
          refine ih a ?_
          unfold State.attemptRelease at e
          split at e
          · split at e
            · simp at e
            · cases e
              exact r
          · cases e
            exact r
      · exact ih hs r

theorem releaseStep (c : Nat) : P (s.releaseStep c) := by
  unfold State.releaseStep
  split
  · next w e =>
    split
    · next el =>
      refine h.beginWork hs _ _ _ _ ?_ (el.imp id (clearOfBlock c))
      by_contra n
      rw [State.car, List.getD_eq_getElem?_getD, List.getElem?_eq_none (by omega)] at e
      cases e
    · exact hs
  · exact hs

theorem servicePoint (c : Nat) : P (s.servicePoint c) := by
  unfold State.servicePoint
  split
  · next idle =>
    have r : c < s.carousels.length := by
      by_contra n
      rw [State.idleReady, State.car, List.getD_eq_getElem?_getD, List.getElem?_eq_none (by omega)] at idle
      exact absurd idle (by decide)
    have a := h.walk hs c (s.car c).walkOrder r
    split
    · next e => rw [e] at a; exact a
    · next e => rw [e] at a; exact h.releaseStep a _
  · exact hs

theorem servicePoints (l : List Nat) : P (s.servicePoints l) :=
  foldl _ _ (h.arrange hs _) fun _ _ a => h.servicePoint a _

theorem offerEntry (e : WaitEntry) : P (s.offerEntry e) := by
  unfold State.offerEntry
  split
  · exact hs
  · next b =>
    split
    · split
      · next x => exact h.leaveWait (h.startMove hs _ _ _ _ (clearOfBlock _ (by simpa using b)) x) _
      · exact hs
    · exact hs

theorem offerPass : P s.offerPass :=
  foldl _ _ hs fun _ _ a => h.offerEntry a _

theorem releaseClaim (c : Nat) : P (s.releaseClaim c) := by
  unfold State.releaseClaim
  split
  · exact h.offerPass (h.dropClaim s c hs)
  · exact hs

theorem joinTail (i : Nat) : P (s.joinTail i) := by
  unfold State.joinTail
  split
  · exact h.servicePoint (h.modCar hs _ _) _
  · exact hs

theorem joinHead (i : Nat) (t : TaskState) : P (s.joinHead i t) := by
  unfold State.joinHead
  split
  · exact h.modCar (h.taskState hs _ _) _ _
  · exact hs

theorem giveBackTask (i : Nat) : P (s.giveBackTask i) := by
  unfold State.giveBackTask
  split
  · exact h.giveBack (h.modTask hs _ _) _
  · exact hs

theorem enterDriveFault (c : Nat) (x : FaultCause) : P (s.enterDriveFault c x) :=
  h.notify (h.modCar hs _ _) _

theorem presentationEnd (c : Nat) : P (s.presentationEnd c) := by
  unfold State.presentationEnd
  dsimp only
  split
  · exact h.enterDriveFault (h.modCar (h.modCar hs _ _) _ _) _ _
  · exact h.notePoint (h.modCar (h.modCar hs _ _) _ _) _

/-! ## Claims -/

theorem setCooling (c : Nat) (b : Bool) : P (s.setCooling c b) := by
  unfold State.setCooling
  split
  · exact hs
  · exact h.notify (h.modBal hs _ _) _

theorem coolingAfterRise (c : Nat) (p : Profile) : P (s.coolingAfterRise c p) := by
  unfold State.coolingAfterRise
  split
  · exact h.setCooling hs _ _
  · exact hs

theorem clearCooling (c : Nat) : P (s.clearCooling c) := by
  unfold State.clearCooling
  split
  · exact h.notePoint (h.offerPass (h.setCooling hs _ _)) _
  · exact hs

theorem coolingAfterFall (c : Nat) (p : Profile) : P (s.coolingAfterFall c p) := by
  unfold State.coolingAfterFall
  split
  · exact h.clearCooling hs _
  · exact hs

theorem raiseBalanceFault (c : Nat) : P (s.raiseBalanceFault c) := by
  unfold State.raiseBalanceFault
  split
  · exact hs
  · exact h.notify (h.modBal hs _ _) _

theorem balanceCheck (c : Nat) (b : Bool) : P (s.balanceCheck c b) := by
  unfold State.balanceCheck
  dsimp only
  split
  · split
    · exact h.modBal hs _ _
    · exact hs
  · split
    · exact h.raiseBalanceFault hs _
    · exact hs

theorem retestTask (i : Nat) : P (s.retestTask i) := by
  unfold State.retestTask
  split
  · split
    · exact h.taskState hs _ _
    · exact hs
  · exact hs

theorem retestWaiting (c : Nat) : P (s.retestWaiting c) := by
  unfold State.retestWaiting
  split
  · split
    · split
      · exact h.notePoint (h.modCar (h.joinHead (h.giveBackTask (h.leaveWait hs _) _) _ _) _ _) _
      · exact hs
    · exact hs
  · exact hs

theorem loadChange (c i : Nat) (d : Int) (b : Bool) : P (s.loadChange c i d b) := by
  unfold State.loadChange
  dsimp only
  refine h.notePoint ?_ _
  split
  · exact h.offerPass (h.retestWaiting
      (foldl State.retestTask _ (h.balanceCheck (h.modBal hs _ _) _ _) fun _ _ a => h.retestTask a _) _)
  · exact h.retestWaiting
      (foldl State.retestTask _ (h.balanceCheck (h.modBal hs _ _) _ _) fun _ _ a => h.retestTask a _) _

theorem incomingAdd (i : BayId) (y : Tyre) (t : State) (e : s.incomingAdd i y = some t) : P t := by
  unfold State.incomingAdd at e
  dsimp only at e
  split at e <;> cases e
  exact h.modBay hs _ _ fun a => ⟨by simp, a.reserved, a.held⟩

omit h hs in
/-- Removing article and batch from an empty record, its reserved within its count and 0 while it is held, keeps R6 and
R14. -/
theorem tidy_lawful (b : Bay) (y : 0 < b.count + b.incoming → b.tyre.isSome = true) (r : b.reserved ≤ b.count)
    (n : b.holds.any = true → b.reserved = 0) : b.tidy.lawful := by
  unfold Bay.tidy
  split
  · exact ⟨by simp; omega, r, n⟩
  · exact ⟨⟨fun _ => by omega, y⟩, r, n⟩

theorem incomingRelease (i : BayId) : P (s.incomingRelease i) :=
  h.modBay hs _ _ fun a => tidy_lawful _ (fun n => a.tyre.2 (by simp at n; omega)) a.reserved a.held

theorem putTake (i : BayId) (y : Tyre) : P (s.putTake i y) :=
  h.loadChange (h.modBay hs _ _ fun a => ⟨by simp, Nat.le_succ_of_le a.reserved, a.held⟩) _ _ _ _

theorem reserve (i : BayId) (y : Tyre) (n : Nat) (t : State) (e : s.reserve i y n = some t) : P t := by
  unfold State.reserve at e
  dsimp only at e
  split at e
  · next q =>
    cases e
    exact h.modBay hs _ _ fun a => ⟨a.tyre, by dsimp only; omega, fun x => by rw [q.1] at x; cases x⟩
  · cases e

theorem reserveRelease (i : BayId) (n : Nat) : P (s.reserveRelease i n) := by
  unfold State.reserveRelease
  split
  · exact hs
  · refine h.noteRetry (h.modBay hs _ _ fun a => ⟨a.tyre, ?_, fun x => ?_⟩) _
    · have := a.reserved
      dsimp only
      omega
    · have := a.held x
      dsimp only
      omega

theorem pickTake (i : BayId) : P (s.pickTake i) := by
  refine h.noteRetry (h.loadChange (h.modBay hs _ _ fun a => ?_) _ _ _ _) _
  refine tidy_lawful _ (fun n => a.tyre.2 (by simp at n; omega)) ?_ fun x => ?_
  · have := a.reserved
    dsimp only
    omega
  · have := a.held x
    dsimp only
    omega

theorem correct (i : BayId) (f : Option Found) (t : State) (e : s.correct i f = .ok t) : P t := by
  have write : ∀ b : Bay, ((s.bay i).lawful → b.lawful) →
      P ((s.modBay i fun _ => b).loadChange i.carousel i.carrier (s.bayLoad b - s.bayLoad (s.bay i)) true) :=
    fun b l => h.loadChange (h.modBay hs _ _ l) _ _ _ _
  unfold State.correct at e
  dsimp only at e
  split at e
  · cases e
    exact write _ fun a => tidy_lawful _ (fun n => a.tyre.2 (by simp at n; omega)) (Nat.zero_le _) fun _ => rfl
  · split at e
    · split at e
      · cases e
      · cases e
        exact write _ fun _ => tidy_lawful _ (fun _ => rfl) (Nat.zero_le _) fun _ => rfl
    · split at e
      · next n q =>
        cases e
        exact write _ fun _ => ⟨by simp [q.1]; omega, Nat.zero_le _, fun _ => rfl⟩
      · split at e <;> cases e

/-! ## Orders -/

theorem joinPending (r : GroupRef) : P (s.joinPending r) := by
  unfold State.joinPending
  split
  · exact hs
  · exact h.pendingList hs _

theorem returnNeed (r : GroupRef) (n : Nat) : P (s.returnNeed r n) := by
  unfold State.returnNeed
  split
  · exact hs
  · split
    · exact hs
    · dsimp only
      split
      · exact h.modGroup hs _ _
      · split
        · exact h.modGroup hs _ _
        · exact h.noteRetry (h.joinPending (h.modGroup hs _ _) _) _

theorem leaveGroup (i : Nat) (t : Task) : P (s.leaveGroup i t) := by
  unfold State.leaveGroup
  split
  · exact hs
  · split
    · exact hs
    · split
      · exact hs
      · exact h.returnNeed (h.modGroup hs _ _) _ _

theorem endTask (i : Nat) (b : Bool) : P (s.endTask i b) := by
  unfold State.endTask
  split
  · exact hs
  · next t _ =>
    have a := h.giveBack hs t.transit
    dsimp only
    refine h.noteRetry (h.setTask ?_ _ _) _
    cases t.kind <;> cases b <;> simp only [if_true, if_false, Bool.false_eq_true]
    · exact h.leaveGroup a _ _
    · exact h.leaveGroup (h.reserveRelease a _ _) _ _
    · exact a
    · split
      · exact h.incomingRelease a _
      · exact a

theorem detach (i : Nat) (t : Task) : P (s.detach i t) := by
  unfold State.detach
  dsimp only
  split
  · exact h.notePoint (h.modCar (h.leaveWait hs _) _ _) _
  · exact h.modCar hs _ _
  · exact h.modOrder _ _ _ (fun _ => rfl) (h.modCar hs _ _)

theorem withdrawFrom (b : BayId) (i : Nat) : P (s.withdrawFrom b i) := by
  unfold State.withdrawFrom
  split
  · split
    · exact h.endTask (h.detach hs _ _) _ _
    · exact hs
  · exact hs

theorem holdSet (i : BayId) (r : HoldReason) : P (s.holdSet i r) := by
  unfold State.holdSet
  split
  · next x => exact h.modBay hs _ _ fun a => ⟨a.tyre, a.reserved, fun _ => a.held x⟩
  · have w := foldl (State.withdrawFrom i) (List.range 128) hs fun _ _ a => h.withdrawFrom a _ _
    generalize (List.range 128).foldl (State.withdrawFrom i) s = t at w ⊢
    exact h.modBay w _ _ fun a => ⟨a.tyre, Nat.zero_le _, fun _ => rfl⟩

theorem holdClear (i : BayId) (r : HoldReason) : P (s.holdClear i r) := by
  unfold State.holdClear
  have a : P (s.modBay i fun b => { b with holds := b.holds.put r false }) :=
    h.modBay hs _ _ fun a => ⟨a.tyre, a.reserved, fun x => a.held (by
      cases r <;> simp [Holds.put, Holds.any] at x ⊢ <;> tauto)⟩
  dsimp only
  split
  · exact h.noteRetry a _
  · exact a

theorem reservePlan (article : Nat) (plan made : List Draw) :
    match s.reservePlan article plan made with
    | .ok t => P t
    | .error x => P x.2 := by
  induction plan generalizing s made with
  | nil => exact hs
  | cons d ds ih =>
    unfold State.reservePlan
    cases e : s.reserve d.bay { article, batch := d.batch } d.quantity with
    | some s1 => exact ih (h.reserve hs _ _ _ _ e) _
    | none => exact foldl _ _ hs fun _ (m : Draw) a => h.reserveRelease a m.bay m.quantity

theorem reservePlan_ok (article : Nat) (plan made : List Draw) (t : State)
    (e : s.reservePlan article plan made = .ok t) : P t := by
  have a := h.reservePlan hs article plan made
  rw [e] at a
  exact a

theorem reservePlan_error (article : Nat) (plan made : List Draw) (x : BayId × State)
    (e : s.reservePlan article plan made = .error x) : P x.2 := by
  have a := h.reservePlan hs article plan made
  rw [e] at a
  exact a

theorem placeTask (o : Order) (i : Nat) : P (s.placeTask o i) := by
  unfold State.placeTask
  split
  · exact h.modOrder _ _ _ (fun _ => rfl) hs
  · exact h.joinTail hs _

theorem allocated (o : Order) (r : GroupRef) (plan : List Draw) (l : List Nat) : P (s.allocated o r plan l) := by
  unfold State.allocated
  refine foldl _ _ (h.pendingList (h.modGroup ?_ _ _) _) fun _ _ a => h.placeTask a _ _
  exact foldl _ _ hs fun _ _ a => h.setTask a _ _

theorem allocate (r : GroupRef) (fuel : Nat) (out : List BayId) : P (State.allocate r fuel out s).1 := by
  induction fuel generalizing s out with
  | zero => exact hs
  | succ fuel ih =>
    unfold State.allocate
    split
    · dsimp only
      split
      · exact hs
      · split
        · exact hs
        · split
          · next e => exact h.allocated (h.reservePlan_ok hs _ _ _ _ e) _ _ _ _
          · next e => exact ih (h.reservePlan_error hs _ _ _ _ e) _
    · exact hs

theorem retryPass (r : Retry) : P (s.retryPass r) := by
  refine foldl _ _ hs fun t ref a => ?_
  unfold State.retryGroup
  split
  · exact h.allocate a _ _ _
  · exact a

theorem runRetries (n : Nat) : P (State.runRetries n s) := by
  induction n generalizing s with
  | zero => exact hs
  | succ n ih =>
    unfold State.runRetries
    split
    · exact hs
    · exact ih (h.retryPass (h.retry hs _) _)

theorem settle : P s.settle := by
  unfold State.settle State.servePoints
  refine h.servicePoints (h.agenda _ _ (h.runRetries ?_ _)) _
  unfold State.serveFreed
  split
  · exact h.servicePoints (h.agenda _ _ hs) _
  · exact hs

/-! ## Sweeps, moves, drive reports -/

theorem endSweep (c : Nat) (x : SweepCause) : P (s.endSweep c x) := by
  unfold State.endSweep
  split
  · exact hs
  · exact h.modSweepRecord (h.modCar (h.notify hs _) _ _) _ _

theorem startSweep (c a b : Nat) (x : SweepPolicy) (o : SweepOrigin) : P (s.startSweep c a b x o) :=
  h.notePoint (h.modSweepRecord (h.modCar
    (h.audit s { s.audit with sweepCounter := (s.audit.sweepCounter + 1) % 65536 } rfl rfl hs) _ _) _ _) _

theorem requestSweep (c : Nat) : P (s.requestSweep c) := by
  unfold State.requestSweep
  dsimp only
  split
  · split
    · exact h.startSweep hs _ _ _ _ _
    · exact hs
  · exact hs

theorem deviationCheck (c r : Nat) (m : Int) : P (s.deviationCheck c r m) := by
  unfold State.deviationCheck
  split
  · exact hs
  · dsimp only
    split <;> split
    all_goals first
      | exact h.modBal hs _ _
      | exact h.requestSweep (h.notify (h.modBal hs _ _) _) _

theorem returnWork (c : Nat) : P (s.returnWork c) := by
  unfold State.returnWork
  have a := h.leaveWait hs c
  dsimp only
  split
  · exact a
  · split
    · exact h.endSweep (h.modCar a _ _) _ _
    · exact h.modCar a _ _
  · split
    · exact h.modCar a _ _
    · split
      · exact h.endTask (h.modCar a _ _) _ _
      · exact h.joinHead (h.giveBackTask (h.modCar a _ _) _) _ _

theorem failMove (c : Nat) (x : FaultCause) : P (s.failMove c x) :=
  h.enterDriveFault (h.modCar (h.modCar (h.returnWork hs _) _ _) _ _) _ _

theorem moveAccepted (c : Nat) : P (s.moveAccepted c) := by
  unfold State.moveAccepted
  split
  · split
    · exact h.modCar hs _ _
    · exact hs
  · exact hs

theorem moveExhausted (c : Nat) : P (s.moveExhausted c) := by
  unfold State.moveExhausted
  split
  · exact h.failMove (h.releaseClaim hs _) _ _
  · exact hs

theorem raiseDuty (c : Nat) (p : Profile) (d w : Nat) : P (s.raiseDuty c p d w) :=
  h.coolingAfterRise (h.modBal hs _ _) _ _

theorem arrivedAtTarget (c t : Nat) (m : Int) : P (s.arrivedAtTarget c t m) := by
  unfold State.arrivedAtTarget
  have a := h.deviationCheck (h.modCar (h.modCar hs c fun k => { k with move := none, moveTimer := none }) c fun k =>
    { k with index := some t }) c t m
  dsimp only [State.endMove]
  split
  · split
    · split
      · exact h.notePoint (h.modCar (h.settle (h.endTask a _ _)) _ _) _
      · exact h.present a _
    · exact h.present a _
  · exact h.present a _

theorem arrivedMoving (c : Nat) (p : Profile) (m : Move) (r : Nat) (x : Int) : P (s.arrivedMoving c p m r x) := by
  unfold State.arrivedMoving
  have a := h.releaseClaim hs c
  dsimp only
  split
  · exact h.arrivedAtTarget (h.raiseDuty a _ _ _ _) _ _ _
  · refine h.enterDriveFault (h.modCar (h.modCar (h.returnWork ?_ _) _ _) _ _) _ _
    split
    · exact h.raiseDuty a _ _ _ _
    · exact a

theorem arrived (c r : Nat) (m : Int) (n : Nat) : P (s.arrived c r m n) := by
  unfold State.arrived
  dsimp only
  split
  · exact hs
  · split
    · split
      · split
        · exact h.arrivedMoving hs _ _ _ _ _
        · exact hs
      · exact hs
    · split
      · exact h.modCar hs _ _
      · exact hs
    · split
      · exact h.deviationCheck (h.modCar hs _ _) _ _ _
      · exact hs
    all_goals exact hs

theorem homing (c : Nat) (p : Profile) (d : DriveCondition) (r : Nat) : P (s.homing c p d r) := by
  unfold State.homing
  split
  · split
    · exact h.notePoint (h.noteRetry (h.modCar hs _ _) _) _
    · exact hs
  · exact h.sendStop hs _
  · exact h.enterDriveFault hs _ _

theorem driveState (c : Nat) (d : DriveCondition) (r : Nat) : P (s.driveState c d r) := by
  unfold State.driveState
  dsimp only
  split
  · exact hs
  · split
    · exact h.homing hs _ _ _ _
    · exact hs
    · split
      · exact h.enterDriveFault (h.returnWork hs _) _ _
      · exact hs
    · split
      · exact h.failMove (h.releaseClaim hs _) _ _
      · exact hs
    · split
      · exact h.modCar hs _ _
      · exact hs
    · split
      · split
        · exact h.modCar (h.releaseClaim hs _) _ _
        · exact h.releaseClaim hs _
      · exact hs
    · split
      · exact hs
      · split
        · exact h.modCar hs _ _
        · exact hs

theorem takeHold (c : Nat) : P (s.takeHold c) := by
  unfold State.takeHold
  split
  · exact h.modCar (h.modCar (h.modCar (h.returnWork (h.releaseClaim (h.cancelMove hs _) _) _) _ _) _ _) _ _
  · exact h.releaseClaim hs _
  all_goals exact hs

omit hs in
theorem senseHeld (hs : P s.dropUnsent) : P s.senseHeld :=
  foldl _ _ (h.arrange (h.notify hs _) _) fun _ _ a => h.takeHold a _

theorem senseClear : P s.senseClear :=
  foldl _ _ (h.offerPass (foldl _ _ (h.arrange (h.notify hs _) _) fun _ _ a => h.sendStatusQuery a _))
    fun _ _ a => h.notePoint a _

theorem setDrive (b : Bool) : P (s.setDrive b) := by
  unfold State.setDrive
  dsimp only
  split
  · next q => exact h.line s _ (.inl le_rfl) q.symm hs
  · next q =>
    cases b
    · rw [if_neg Bool.false_ne_true]
      refine h.senseClear (h.clear s _ rfl ?_ hs)
      change ¬(s.line.drive || s.line.outsideHold) = (false || s.line.outsideHold) at q
      change (false || s.line.outsideHold) = false
      revert q
      cases s.line.drive <;> cases s.line.outsideHold <;> decide
    · rw [if_pos rfl]
      exact h.senseHeld (h.hold s _ rfl hs)

theorem setOutsideHold (b : Bool) : P (s.setOutsideHold b) := by
  unfold State.setOutsideHold
  dsimp only
  split
  · next q => exact h.line s _ (.inl le_rfl) q.symm hs
  · next q =>
    cases b
    · rw [if_neg Bool.false_ne_true]
      refine h.senseClear (h.clear s _ rfl ?_ hs)
      change ¬(s.line.drive || s.line.outsideHold) = (s.line.drive || false) at q
      change (s.line.drive || false) = false
      revert q
      cases s.line.drive <;> cases s.line.outsideHold <;> decide
    · rw [if_pos rfl]
      exact h.senseHeld (h.hold s _ rfl hs)

theorem moveTimeout (c : Nat) : P (s.moveTimeout c) := by
  unfold State.moveTimeout
  split
  · exact h.failMove (h.sendStop hs _) _ _
  · exact hs

theorem park (c i : Nat) : P (s.park c i) := by
  unfold State.park
  split
  · exact hs
  · exact h.presentationEnd (h.settle (h.notify (h.modCar (h.giveBackTask (h.taskState hs _ _) _) _ _) _)) _

theorem presentationTimeout (c : Nat) : P (s.presentationTimeout c) := by
  unfold State.presentationTimeout
  split
  · exact h.park hs _ _
  · exact hs

theorem ageOut (i : Nat) : P (s.ageOut i) := by
  unfold State.ageOut
  split
  · split
    · dsimp only
      split
      · split
        · exact h.notePoint (h.modCar (h.modTask hs _ _) _ _) _
        · exact h.modCar (h.modTask hs _ _) _ _
      · exact h.modTask hs _ _
    · exact hs
  · exact hs

theorem leakDuty (c : Nat) : P (s.leakDuty c) := by
  unfold State.leakDuty
  dsimp only
  split
  · exact h.modBal hs _ _
  · split
    · exact h.modBal hs _ _
    · refine h.coolingAfterFall ?_ _ _
      split
      · exact h.offerPass (h.modBal hs _ _)
      · exact h.modBal hs _ _

end Sys2Proof.Machine.Closed
end

