-- ==== Sys2Proof/Laws/ClosureExec.lean ====
section
/-! SUPPORT. `Closed` for lanes, audits, mouths, put-away, the classifier, the tables and the requests, ending in
`Closed.exec` and `Closed.step`: a property that every elementary change keeps is kept by every step. -/

namespace Sys2Proof.Machine.Closed

variable {P : State → Prop} (h : Closed P) {s : State} (hs : P s)
include h hs

/-! ## Lanes -/

theorem assignLane (l n : Nat) : P (s.assignLane l n) := by
  unfold State.assignLane
  split
  · exact hs
  · exact foldl _ _ (h.modOrder _ _ _ (fun _ => rfl) (h.modLane hs _ _)) fun _ _ a => h.joinTail a _

theorem offerLane (l : Nat) : P (s.offerLane l) := by
  unfold State.offerLane
  split
  · exact hs
  · exact h.assignLane (h.laneWait hs _) _ _

theorem drainTest (n : Nat) : P (s.drainTest n) := by
  unfold State.drainTest
  split
  · exact hs
  · split
    · exact hs
    · split
      · exact h.modLane hs _ _
      · exact hs

theorem endCancelled (c i : Nat) : P (s.endCancelled c i) :=
  h.notePoint (h.modCar (h.modCar (h.endTask (h.releaseClaim hs _) _ _) _ _) _ _) _

theorem endPresentedWithdrawn (c i : Nat) (t : Task) : P (s.endPresentedWithdrawn c i t) :=
  h.presentationEnd (h.endTask (h.indicate hs _ _ _ _ _) _ _) _

omit hs in
theorem withdrawalTask {w : Withdrawal} (hw : P w.state) (i : Nat) : P (w.task i).state := by
  unfold Withdrawal.task
  dsimp only
  split
  · exact hw
  · split
    · exact hw
    all_goals first
      | exact h.endTask (h.detach hw _ _) _ _
      | exact h.endPresentedWithdrawn hw _ _ _
      | skip
    next t _ _ _ =>
      have a := h.cancelMove hw t.bay.carousel
      split
      · next e => rw [e] at a; exact h.endCancelled a _ _
      · next e => rw [e] at a; exact h.modTask a _ _

theorem withdrawOrder (n : Nat) : P (s.withdrawOrder n).state := by
  have fold : ∀ (l : List Nat) (w : Withdrawal), P w.state → P (l.foldl Withdrawal.task w).state := by
    intro l
    induction l with
    | nil => exact fun _ a => a
    | cons i l ih => exact fun w a => ih _ (h.withdrawalTask a i)
  unfold State.withdrawOrder
  dsimp only
  have m : P (s.markWithdrawn n) := h.modOrder _ _ _ (fun _ => rfl) (h.waiting s _ _ _ hs)
  split
  · exact h.removeOrder _ _ (fold _ _ (h.arrange m _))
  · exact h.drainTest (fold _ _ (h.arrange m _)) _

theorem completionTest (l n : Nat) : P (s.completionTest l n) := by
  unfold State.completionTest
  split
  · split
    · refine h.notify (h.modLane ?_ _ _) _
      exact h.modOrder _ _ _ (fun _ => rfl) hs
    · exact hs
  · exact hs

theorem matchedArrival (n : Nat) (l : Lane) (e : TransitEntry) : P (s.matchedArrival n l e) := by
  unfold State.matchedArrival
  have a := h.modLane (h.removeEntries hs fun x => x.serial == e.serial) n fun l => { l with arrived := l.arrived + 1 }
  dsimp only
  split
  · exact a
  · split
    · exact a
    · split
      · exact h.drainTest a _
      · exact h.completionTest a _ _

theorem misSort (n : Nat) (l : Lane) (y : Option Tyre) : P (s.misSort n l y) := by
  unfold State.misSort
  split
  · refine h.notify ?_ _
    split
    · exact h.modOrder _ _ _ (fun _ => rfl) (h.modLane hs _ _)
    · exact h.modLane hs _ _
  · refine h.notify ?_ _
    split
    · exact h.modOrder _ _ _ (fun _ => rfl) (h.modLane hs _ _)
    · exact h.modLane hs _ _
  all_goals exact h.notify hs _

theorem arrival (n : Nat) (l : List Tally) : P (s.arrival n l) := by
  unfold State.arrival
  dsimp only
  split
  · exact hs
  · split
    all_goals first
      | exact h.matchedArrival hs _ _ _
      | exact h.misSort hs _ _ _

theorem deadline (n : Nat) : P (s.deadline n) := by
  unfold State.deadline
  split
  · exact hs
  · next e _ =>
    have a := h.removeEntries hs fun x => x.serial == e.serial
    dsimp only
    split
    · exact a
    · split
      · exact h.drainTest a _
      · exact h.returnNeed (h.modGroup (h.notify a _) _ _) _ _

theorem releaseLane (n : Nat) (l : Lane) (o : Nat) : P (s.releaseLane n l o).1 := by
  unfold State.releaseLane
  dsimp only
  refine h.offerLane (h.modLane (h.removeOrder _ _ (h.settle (h.removeEntries ?_ _))) _ _) _
  split
  · exact hs
  · exact h.withdrawOrder hs _

theorem laneRelease (n : Nat) : P (s.laneRelease n).1 := by
  unfold State.laneRelease
  split
  · exact hs
  · split
    · split
      · exact h.releaseLane hs _ _ _
      · exact hs
    · exact hs

theorem orderWithdraw (n : Nat) : P (s.orderWithdraw n).1 := by
  unfold State.orderWithdraw
  split
  · exact hs
  · split
    · exact hs
    · exact h.withdrawOrder hs _

/-! ## Audits -/

theorem logEntry (e : Discrepancy) : P (s.logEntry e).1 := by
  unfold State.logEntry
  split
  · next n => exact h.notify (h.log s e n hs) _
  · have a : P { s with audit := { s.audit with overflow := min 255 (s.audit.overflow + 1), listFull := true } } :=
      h.audit s _ rfl rfl hs
    dsimp only
    split
    · exact a
    · exact h.notify a _

theorem markCorrected (n : Option Nat) : P (s.markCorrected n) :=
  h.markEntries s _ (fun e => by split <;> rfl) hs

theorem shortClaim (i : BayId) (n : Nat) : P (s.shortClaim i n) := by
  have emptied : ∀ u : State, P u → P (u.modBay i fun b => { b with count := 0, reserved := 0 }.tidy) := by
    refine fun u a => h.modBay a _ _ fun l => ?_
    exact tidy_lawful _ (fun n => l.tyre.2 (by simp at n; omega)) (Nat.zero_le _) fun _ => rfl
  unfold State.shortClaim
  have a := emptied _ (h.holdSet (h.reserveRelease hs i n) i .audit)
  generalize (s.reserveRelease i n).holdSet i .audit = u at a ⊢
  dsimp only
  exact h.logEntry (h.loadChange a _ _ _ _) _

theorem correctMismatch (i : BayId) (p : SweepPolicy) (f : List Tally) (n : Option Nat) :
    P (s.correctMismatch i p f n) := by
  unfold State.correctMismatch
  split
  · split
    · next e => exact h.markCorrected (h.correct hs _ _ _ e) _
    · exact hs
  · exact hs

theorem handleBay (w : SweepContext) (t : List Tally) (o : BayId → Bay × Option DiscrepancyKind) (i : BayId) :
    P (State.handleBay w t o s i) := by
  unfold State.handleBay
  split
  · exact hs
  · exact h.correctMismatch (h.logEntry (h.holdSet hs _ _) _) _ _ _ _

theorem endStep (c : Nat) (w : SweepContext) (m : Nat) : P (s.endStep c w m) := by
  unfold State.endStep
  dsimp only
  refine h.presentationEnd (h.settle ?_) _
  split
  · exact h.endSweep (h.modCar hs _ _) _ _
  · split
    · exact h.endSweep (h.modCar hs _ _) _ _
    · exact h.modSweepRecord (h.modCar (h.modCar hs _ _) _ _) _ _

theorem carrierRead (c : Nat) (l : List Tally) : P (s.carrierRead c l) := by
  unfold State.carrierRead
  split
  · exact hs
  · exact h.endStep (foldl _ _ (foldl _ _ (h.modSweepRecord hs _ _) fun _ _ a => h.modBay a _ _ fun l => ⟨l.tyre, l.reserved, l.held⟩)
      fun _ _ a => h.handleBay a _ _ _ _) _ _ _

theorem readTimeout (c : Nat) : P (s.readTimeout c) := by
  unfold State.readTimeout
  dsimp only
  split
  · split
    · exact h.modSweepRecord (h.sendScan hs _ _) _ _
    · exact h.endStep (foldl _ _ hs fun _ _ a => h.logEntry (h.holdSet a _ _) _) _ _ _
  · exact hs

theorem auditStart (c a b : Nat) (x : SweepPolicy) : P (s.auditStart c a b x).1 := by
  unfold State.auditStart
  dsimp only
  split_ifs
  all_goals first
    | exact hs
    | exact h.startSweep hs _ _ _ _ _

theorem auditStop (c : Nat) : P (s.auditStop c).1 := by
  unfold State.auditStop
  split
  · exact hs
  · split
    · exact hs
    · unfold State.stopSweep
      dsimp only
      split_ifs
      · exact h.modSweepRecord hs _ _
      · exact h.notePoint (h.endSweep (h.modCar (h.leaveWait hs _) _ _) _ _) _
      · exact h.endSweep hs _ _

theorem removeEntry (i : BayId) (e : Discrepancy) : P (s.removeEntry i e).1 := by
  unfold State.removeEntry
  have a := h.dropEntries s (fun x => x.number != e.number) (s.audit.listFull && !decide (32 ≤ s.audit.list.length)) hs
  dsimp only
  split
  · exact a
  · exact h.holdClear a _ _

theorem resolveClaim (i : BayId) (f : Option (Option Found)) (t : State) (e : s.resolveClaim i f = .ok t) : P t := by
  unfold State.resolveClaim at e
  split at e
  · cases e
    exact hs
  · exact h.correct hs _ _ _ e

theorem resolve (n : Nat) (x : ResolveAction) : P (s.resolve n x).1 := by
  unfold State.resolve
  split
  · exact hs
  · split
    · exact hs
    · dsimp only
      split
      · exact hs
      · split
        · exact hs
        · split
          · exact hs
          · split
            · exact hs
            · exact hs
            · next e => exact h.removeEntry (h.resolveClaim hs _ _ _ e) _ _

/-! ## Mouths -/

theorem endPresented (c i : Nat) (b : Bool) : P (s.endPresented c i b) :=
  h.presentationEnd (h.settle (h.endTask hs _ _)) _

theorem afterTake (c i : Nat) : P (s.afterTake c i) := by
  unfold State.afterTake
  split
  · split
    · exact h.endPresented hs _ _ _
    · exact h.indicateTask hs _ _
  · exact hs

theorem wrongItem (c : Nat) (t : Task) : P (s.wrongItem c t) := h.indicate hs _ _ _ _ _

theorem take (c i : Nat) (t : Task) (y : Tyre) : P (s.take c i t y) :=
  h.afterTake (h.modGroup (h.sendRoute (h.fillEntry (h.modTask (h.pickTake hs _) _ _) _ _ _ _ _) _ _ _ _) _ _) _ _

theorem pickRead (c i : Nat) (t : Task) (l : List Tally) : P (s.pickRead c i t l) := by
  unfold State.pickRead
  split
  · split
    · exact h.take hs _ _ _ _
    · exact h.wrongItem hs _ _
  · exact h.wrongItem hs _ _

theorem putRead (c i : Nat) (t : Task) (l : List Tally) : P (s.putRead c i t l) := by
  unfold State.putRead
  split
  · split
    · exact h.endPresented (h.noteRetry (h.modTask (h.putTake hs _ _) _ _) _) _ _ _
    · exact h.wrongItem hs _ _
  · exact h.wrongItem hs _ _

theorem mouthRead (c : Nat) (l : List Tally) : P (s.mouthRead c l) := by
  unfold State.mouthRead
  split
  · split
    · split
      · exact h.pickRead hs _ _ _ _
      · exact h.putRead hs _ _ _ _
    · exact hs
  · exact h.carrierRead hs _ _
  · exact hs

theorem mouthKey (c : Nat) (k : Key) : P (s.mouthKey c k) := by
  unfold State.mouthKey
  split
  · split
    · split
      · exact h.endPresented (h.shortClaim hs _ _) _ _ _
      · exact h.afterTake (h.returnNeed (h.giveBack (h.modTask (h.pickTake hs _) _ _) _) _ _) _ _
      · exact h.endPresented hs _ _ _
      · exact hs
      · exact h.notify (h.endPresented hs _ _ _) _
      · exact h.park hs _ _
    · exact hs
  · exact hs

/-! ## Put-away -/

theorem overflow (r : PutRefusal) (y : Tyre) (o : Option Tyre) : P (s.overflow r y o) :=
  h.notify (h.sendRoute hs _ _ _ _) _

theorem badRead : P s.badRead :=
  h.overflow (s := { s with choices := s.choices + 1 }) (h.choices s _ hs) _ _ _

theorem crossDock (r : GroupRef) (y : Tyre) (t : Nat) : P (s.crossDock r y t) := by
  unfold State.crossDock
  have a := h.modGroup (h.fillEntry hs r y (s.laneOf r.order) .infeed (t + s.transitMs)) r fun g => { g with
    need := g.need - 1, picked := g.picked + 1, window := widen g.window y.batch }
  dsimp only
  refine h.sendRoute ?_ _ _ _ _
  split
  · exact h.pendingList a _
  · exact a

theorem tryCrossDock (y : Tyre) (t : Nat) : P (s.tryCrossDock y t).1 := by
  unfold State.tryCrossDock
  split
  · exact hs
  · next e =>
    split
    · exact h.crossDock (h.grant hs _ _ e) _ _ _
    · exact h.giveBack (h.grant hs 1 _ e) 1

theorem placed (r : Nat) (i : BayId) (y : Tyre) : P (s.placed r i y) :=
  h.sendRoute (h.joinTail (h.setTask hs _ _) _) _ _ _ _

theorem commitPlace (a : Article) (y : Tyre) (r fuel : Nat) (out : List BayId) :
    P (State.commitPlace a y r fuel out s) := by
  induction fuel generalizing out with
  | zero => exact h.overflow hs _ _ _
  | succ fuel ih =>
    unfold State.commitPlace
    split
    · exact h.overflow hs _ _ _
    · split
      · next e => exact h.placed (h.incomingAdd hs _ _ _ e) _ _ _
      · exact ih _

theorem placement (a : Article) (y : Tyre) : P (s.placement a y) := by
  unfold State.placement
  split
  · exact h.overflow hs _ _ _
  · split
    · exact h.overflow hs _ _ _
    · exact h.commitPlace hs _ _ _ _ _

theorem handleInfeed (r : InfeedRead) : P (s.handleInfeed r) := by
  unfold State.handleInfeed
  split
  · next y _ =>
    split
    · dsimp only
      split
      · exact h.overflow hs _ _ _
      · have a := h.tryCrossDock hs { article := y.article, batch := y.batch } r.time
        split
        · next e => rw [e] at a; exact a
        · next e => rw [e] at a; exact h.placement a _ _
    · exact h.badRead hs
  · exact h.badRead hs

theorem infeedRead : P s.infeedRead := by
  unfold State.infeedRead
  split
  · exact hs
  · exact h.handleInfeed (h.putAway s _ hs) _

/-! ## Classifier and transmitters -/

theorem deliver (f : Frame) (t : State) (e : s.deliver f = some t) : P t := by
  unfold State.deliver at e
  split at e
  rotate_right
  · cases e
  rotate_right
  · cases e
  · split_ifs at e
    · rw [Option.map_eq_some_iff] at e
      obtain ⟨_, _, rfl⟩ := e
      exact h.arrived hs _ _ _ _
    · rw [Option.map_eq_some_iff] at e
      obtain ⟨_, _, rfl⟩ := e
      exact h.driveState hs _ _ _
  all_goals
    split_ifs at e
    rw [Option.map_eq_some_iff] at e
    obtain ⟨_, _, rfl⟩ := e
  · exact h.mouthRead hs _ _
  · exact h.mouthKey hs _ _
  · exact h.putAway s _ hs
  · exact h.arrival hs _ _

theorem act (f : Frame) (a : FilterAction) : P (s.act f a) := by
  unfold State.act
  split
  · exact hs
  · exact h.forward hs _
  · split
    · next e => exact h.deliver hs _ _ e
    · exact h.forward hs _
  · split
    · next e => exact h.forward (h.deliver hs _ _ e) _
    · exact h.forward hs _

theorem classify (f : Frame) : P (s.classify f) := by
  unfold State.classify
  split
  · dsimp only
    split
    · exact h.notify (h.act hs _ _) _
    · exact h.act hs _ _
  · split
    · exact h.forward hs _
    · exact hs

theorem accepted (x : Sending) (f : Frame) : P (s.accepted x f) := by
  unfold State.accepted
  split
  · exact h.moveAccepted (h.setSlot (h.txIdle hs) _ _ fun _ _ e => by cases e) _
  · exact h.txIdle hs
  · split
    · exact h.txIdle hs
    · exact h.forward (h.txIdle hs) _

theorem classifyHead : P s.classifyHead := by
  unfold State.classifyHead
  split
  · exact hs
  · next f rest e =>
    have a : P { s with line := { s.line with rx := rest } } := h.line s _ (.inl (by rw [e]; simp)) rfl hs
    dsimp only
    split
    · unfold State.takeAccept
      split
      · split
        · exact h.accepted a _ _
        · exact a
      · exact a
    · exact h.classify a _

theorem exhausted (x : Sending) : P (s.exhausted x) := by
  unfold State.exhausted
  split
  · exact h.moveExhausted (h.setSlot (h.txIdle hs) _ _ fun _ _ e => by cases e) _
  · exact h.txIdle hs
  · exact h.reportExhausted (h.txIdle hs) _

theorem replyExpired : P s.replyExpired := by
  unfold State.replyExpired
  split
  · split
    · exact h.repeatFrame hs _
    · exact h.exhausted hs _
  · exact hs

theorem passHead : P s.passHead := by
  unfold State.passHead
  split
  · exact hs
  · next r rest e =>
    have a : P { s with link := { s.link with rx := rest } } := h.link s _ (.inl (by rw [e]; simp)) (.inl le_rfl) hs
    split
    · exact hs
    · unfold State.handDown
      split
      · exact h.notify a _
      · exact h.joinFifo a _

theorem linkSent : P s.linkSent := by
  unfold State.linkSent
  split
  · exact hs
  · next o rest e =>
    have a : P { s with link := { s.link with tx := rest } } := h.link s _ (.inl le_rfl) (.inl (by rw [e]; simp)) hs
    dsimp only
    split
    · exact h.resetLink a
    · unfold State.enterWaiting
      split
      · split
        · next n =>
          have m : rest.length < 16 := n
          refine h.link _ _ (.inl le_rfl) (.inr ?_) a
          simp only [List.length_append, List.length_singleton]
          omega
        · exact a
      · exact a

/-! ## Tables -/

theorem loadArticle (n : Nat) (bs : List Byte) (t : State) (e : s.loadArticle n bs = .ok t) : P t := by
  unfold State.loadArticle at e
  split at e
  · cases e
  · next a _ =>
    split at e
    · unfold State.deleteArticle at e
      split_ifs at e
      cases e
      exact h.dropArticle _ _ hs
    · split at e
      · unfold State.putArticle at e
        dsimp only at e
        split at e
        · split_ifs at e with q
          cases e
          exact h.putArticle s a (fun _ => by omega) hs
        · next o ho =>
          split_ifs at e
          cases e
          exact h.putArticle s a (fun x => by rw [ho] at x; cases x) hs
      · cases e

theorem formCarousel (c : Nat) (p : Profile) : P (s.formCarousel c p) := by
  unfold State.formCarousel
  split
  · split
    · exact hs
    · exact h.modBal hs _ _
  · exact h.modBal (h.formBays s c _ hs) _ _

theorem reviewFault (c : Nat) : P (s.reviewFault c) := by
  unfold State.reviewFault
  dsimp only
  split
  · exact h.raiseBalanceFault hs _
  · split
    · exact h.notePoint (h.offerPass (h.modBal hs _ _)) _
    · exact hs

theorem acceptProfile (c : Nat) (p : Profile) : P (s.acceptProfile c p) := by
  unfold State.acceptProfile
  dsimp only
  refine h.reviewFault ?_ _
  have a := h.modBal (h.modCar (h.formCarousel hs c p) c fun k => { k with profile := some p }) c fun b =>
    { b with grades := deriveEnabled p.feed b.grades }
  unfold State.reviewCooling
  split
  · exact h.setCooling a _ _
  · split
    · exact h.clearCooling a _
    · exact a

theorem loadCarousel (c : Nat) (bs : List Byte) (t : State) (e : s.loadCarousel c bs = .ok t) : P t := by
  unfold State.loadCarousel at e
  split_ifs at e
  split at e
  · cases e
  · split at e
    · split at e
      · cases e
      · cases e
        exact h.acceptProfile hs _ _
    · cases e

theorem loadGrade (c : Nat) (bs : List Byte) (t : State) (e : s.loadGrade c bs = .ok t) : P t := by
  unfold State.loadGrade at e
  split at e
  · cases e
  · split at e
    · cases e
    · split at e
      · cases e
      · split at e
        · cases e
        · split at e
          · cases e
            exact h.reviewFault (h.modBal hs _ _) _
          · cases e

theorem stockWrite (x : StockEntry) (free : (s.bay x.bay).reserved = 0 ∧ (s.bay x.bay).incoming = 0) :
    P (s.stockWrite x) := by
  unfold State.stockWrite
  have a : ∀ w holds, P ((s.modBay x.bay fun _ => { s.bay x.bay with
      tyre := if x.count = 0 then none else some { article := x.article, batch := x.batch }
      count := x.count
      holds := holds }).loadChange x.bay.carousel x.bay.carrier w true) := by
    refine fun w holds => h.loadChange (h.modBay hs _ _ fun _ => ⟨?_, by simp [free.1], fun _ => free.1⟩) _ _ _ _
    dsimp only
    rw [free.2]
    split <;> simp <;> omega
  dsimp only
  split
  · exact h.noteRetry (a _ _) _
  · exact a _ _

theorem loadStock (n : Nat) (bs : List Byte) (t : State) (e : s.loadStock n bs = .ok t) : P t := by
  unfold State.loadStock at e
  split at e
  · cases e
  · split_ifs at e with _ _ q
    split at e
    · cases e
    · cases e
      exact h.stockWrite hs _ (by omega)

theorem loadFilter (n : Nat) (bs : List Byte) (t : State) (e : s.loadFilter n bs = .ok t) : P t := by
  unfold State.loadFilter at e
  split at e
  · cases e
  · split at e
    · cases e
    · split at e
      · cases e
      · cases e
        exact h.filter s _ _ hs

theorem acceptSite (x : Site) (n : x.laneReaders.length ≤ 16) : P (s.acceptSite x) := by
  unfold State.acceptSite
  refine foldl _ _ ?_ fun _ _ a => h.offerLane a _
  refine h.consolidation { s with putAway := { s.putAway with site := some x } } _ (.inr ?_)
    (fun a => ⟨a.room, a.places, a.range⟩) (h.putAway s _ hs)
  simp only [List.length_append, List.length_take, List.length_replicate]
  omega

theorem loadSite (n : Nat) (bs : List Byte) (t : State) (e : s.loadSite n bs = .ok t) : P t := by
  unfold State.loadSite at e
  split at e
  · cases e
  · split at e
    · cases e
    · next x _ =>
      split at e
      · next q =>
        split at e
        · cases e
        · cases e
          refine h.acceptSite hs _ ?_
          simp only [Site.inRange, Bool.and_eq_true, decide_eq_true_eq] at q
          exact q.1.1.1.1.1.2
      · cases e

omit h hs in
theorem loadAll (h : Closed P) (load : State → Nat → List Byte → Except Reason State)
    (ok : ∀ s n bs t, P s → load s n bs = .ok t → P t) (n : Nat) (l : List (List Byte)) (x : Loaded) (hx : P x.state) :
    P (Machine.loadAll load n l x).state := by
  induction l generalizing n x with
  | nil => exact hx
  | cons bs rest ih =>
    unfold Machine.loadAll
    split
    · next e => exact ih _ _ (h.settle (ok _ _ _ _ hx e))
    · exact hx

/-! ## Requests -/

theorem serve (f : Frame) (act : State → State × Reply) (ok : ∀ s, P s → P (act s).1) : P (s.serve f act) :=
  h.answer (h.settle (ok _ (h.takeRequest hs))) _ _ _

theorem onRequest (act : Frame → Request → Option (State → State × Reply))
    (ok : ∀ f r a, act f r = some a → ∀ s, P s → P (a s).1) : P (s.onRequest act) := by
  unfold State.onRequest
  split
  · split
    · next e => exact h.serve hs _ _ (ok _ _ _ e)
    · exact hs
  · exact hs

theorem setLinkProfile (f : Frame) (a b c : Nat) : P (s.setLinkProfile f a b c).1 := by
  unfold State.setLinkProfile
  split
  · exact h.link s _ (.inl le_rfl) (.inl le_rfl) hs
  · exact hs

theorem setLineProfile (a : Nat) (w l : Option Nat) (m : Nat) (r : GlobalRule) :
    P (s.setLineProfile a w l m r).1 := by
  unfold State.setLineProfile
  dsimp only
  split
  · exact h.line s _ (.inl le_rfl) rfl hs
  · exact hs

theorem portClear (p : Port) : P (s.portClear p).1 := by
  unfold State.portClear
  split
  · exact h.link s _ (.inl le_rfl) (.inl le_rfl) hs
  · exact h.line s _ (.inl le_rfl) rfl hs

theorem emptySlot (c : Nat) : P (s.emptySlot c) := by
  unfold State.emptySlot
  split
  · have a : P (s.setSlot c none) := h.setSlot hs _ _ fun _ _ e => by cases e
    dsimp only
    split
    · exact h.takeHold a _
    · exact h.releaseClaim a _
  · exact hs

theorem abandonTransmission : P s.abandonTransmission := by
  unfold State.abandonTransmission
  split
  · exact h.reportLost (h.txIdle hs) _
  · exact h.txIdle hs

theorem emptyFifo : P s.emptyFifo :=
  foldl _ _ (h.outbox s _ rfl (.inl (by simp)) (fun _ _ _ e => .inr e) hs) fun _ _ a => h.reportLost a _

theorem resetLine : P s.resetLine :=
  h.line _ _ (.inl (by simp)) rfl (h.emptyFifo (foldl _ _ (h.arrange (h.abandonTransmission (h.setDrive hs _)) _)
    fun _ _ a => h.emptySlot a _))

theorem online (c : Nat) : P (s.online c).1 := by
  unfold State.online
  split
  · exact hs
  · split
    · split
      · exact hs
      · exact h.sendStatusQuery (h.modCar hs _ _) _
    · split
      · exact hs
      · exact h.sendStatusQuery (h.modCar hs _ _) _
    · split
      · exact hs
      · exact h.sendStatusQuery (h.modCar hs _ _) _
    · exact h.sendStatusQuery hs _
    all_goals exact hs

theorem takeOut (c : Nat) (x : CarouselState) : P (s.takeOut c x).1 := by
  unfold State.takeOut
  split
  · exact hs
  split
  · exact hs
  split
  · exact hs
  · exact h.modCar (h.endSweep hs _ _) _ _

theorem setCap (c i : Nat) : P (s.setCap c i).1 := by
  unfold State.setCap
  split
  · exact hs
  · exact h.offerPass (h.modBal hs _ _)

theorem setBudget (n : Nat) : P (s.setBudget n).1 :=
  h.settle (h.offerPass (h.target s n hs))

theorem releaseLine : P (s.releaseLine).1 := by
  unfold State.releaseLine
  split
  · exact h.setDrive hs _
  · exact hs

theorem seatOrder (n : Nat) : P (s.seatOrder n) := by
  unfold State.seatOrder
  split
  · exact h.assignLane hs _ _
  · exact h.laneWait hs _

omit hs in
theorem allocateEach (l : List GroupRef) {s : State} (hs : P s) (short : List GroupRef) :
    P (Machine.allocateEach l s short).1 := by
  induction l generalizing s short with
  | nil => exact hs
  | cons r rest ih =>
    unfold Machine.allocateEach
    have a := h.allocate hs r 1921 []
    split
    · next e => rw [State.allocateGroup] at e; rw [e] at a; exact ih a _
    · next e => rw [State.allocateGroup] at e; rw [e] at a; exact ih a _

theorem removeEmptyOrder (n : Nat) : P (s.removeEmptyOrder n) := by
  unfold State.removeEmptyOrder
  split
  · exact h.offerLane (h.modLane (h.removeOrder _ _ hs) _ _) _
  · exact h.laneWait (h.removeOrder _ _ hs) _

theorem shortGroups (n : Nat) (p : ShortPolicy) (l : List GroupRef) : P (s.shortGroups n p l) := by
  unfold State.shortGroups
  split
  · unfold State.waitShort
    have a := foldl State.joinPending l hs fun _ _ a => h.joinPending a _
    dsimp only
    split
    · exact a
    · exact h.notify a _
  · unfold State.partShort
    split
    · exact hs
    · have a := foldl State.dropGroup l hs fun _ _ a => h.modOrder _ _ _ (fun _ => rfl) a
      have b : ∀ m, P ((l.foldl State.dropGroup s).expectTotal n m) := by
        intro m
        unfold State.expectTotal
        split
        · exact h.modLane a _ _
        · exact a
      dsimp only
      split
      · exact h.removeEmptyOrder (h.notify (b _) _) _
      · exact h.notify (b _) _

theorem placeOrder (n : Nat) (x : Priority) (y : ShortPolicy) (l : List LineRequest) :
    P (s.placeOrder n x y l).1 := by
  unfold State.placeOrder
  split
  · exact hs
  · next e =>
    have guard : s.orderUnit.orders.length < 64 ∧ s.order n = none := by
      unfold State.orderRefusal at e
      split_ifs at e with _ _ _ _ a b
      exact ⟨by omega, by simpa using a⟩
    exact h.shortGroups (h.allocateEach _ (h.seatOrder (h.addOrder s _ guard.1 guard.2 hs) _) _) _ _ _

theorem holdPositions (c : Nat) (l : List Nat) (n : Nat) : P (State.holdPositions c l n s).1 := by
  induction l generalizing s n with
  | nil => exact hs
  | cons p ps ih =>
    unfold State.holdPositions
    dsimp only
    split
    · exact hs
    · exact ih (h.holdSet hs _ _) _

theorem holdRangeSet (c f n : Nat) : P (s.holdRangeSet c f n).1 := by
  unfold State.holdRangeSet
  split
  · exact hs
  · have a := h.holdPositions hs c (s.rangeOf c f n) 0
    split
    · next e => rw [e] at a; exact a
    · next e => rw [e] at a; exact a

theorem holdRangeClear (c f n : Nat) : P (s.holdRangeClear c f n).1 := by
  unfold State.holdRangeClear
  split
  · exact hs
  · have a := foldl (fun s p => s.holdClear (s.bayAt c p) .mgmt) (s.rangeOf c f n) hs fun _ _ a => h.holdClear a _ _
    dsimp only
    split
    · exact h.noteRetry a _
    · exact a

theorem seize (i : BayId) : P (s.seize i).1 := by
  unfold State.seize
  dsimp only
  split
  · exact hs
  split
  · exact hs
  · exact h.holdSet hs _ _

theorem unseize (i : BayId) : P (s.unseize i).1 := by
  unfold State.unseize
  split
  · exact hs
  · exact h.holdClear hs _ _

theorem represent (i : Nat) : P (s.represent i).1 := by
  unfold State.represent
  split
  · exact hs
  · exact h.notePoint (h.joinHead (h.detach hs _ _) _ _) _

theorem abandon (i : Nat) : P (s.abandon i).1 := by
  unfold State.abandon
  split
  · exact hs
  · exact h.endTask (h.detach hs _ _) _ _

omit h in
theorem otherRange (c : Nat) : P (s.otherRange c).1 := by
  unfold State.otherRange
  split <;> exact hs

omit h hs in
theorem refuseListed (k o : Byte) (a : State → State × Reply) (e : refuseListed k o = some a) (s : State) (hs : P s) :
    P (a s).1 := by
  unfold Machine.refuseListed at e
  split at e <;> cases e
  exact hs

theorem otherPort (f : Frame) (k : Byte) : P (s.otherPort f k) := by
  unfold State.otherPort
  split
  · exact h.answer (h.takeRequest hs) _ _ _
  · exact hs

/-! ## Commands -/

/-- What every elementary change keeps, every command keeps. -/
theorem exec (i : Instr) (t : State) (e : Machine.exec i s = .next t) : P t := by
  have req : ∀ (act : Frame → Request → Option (State → State × Reply)),
      (∀ f r a, act f r = some a → ∀ s, P s → P (a s).1) → P (s.onRequest act) := fun act ok => h.onRequest hs act ok
  have tables : ∀ (load : State → Nat → List Byte → Except Reason State) n l,
      (∀ s n bs t, P s → load s n bs = .ok t → P t) → ∀ s, P s → P (s.tableLoad load n l).1 :=
    fun load n l ok s hs => loadAll h load ok _ _ _ hs
  cases i
  case powerOnReset a b c =>
    cases e
    let fresh := State.powerOn a b c
    have l : P { fresh with line := { fresh.line with outsideHold := s.line.outsideHold } } :=
      h.line fresh _ (.inl le_rfl) rfl (h.powerOn a b c)
    exact h.pending _ s.pending (h.choices _ s.choices l)
  case linkBreak =>
    simp only [Machine.exec, execLinkBreak] at e
    split at e <;> cases e
    · exact hs
    · exact h.link _ _ (.inl le_rfl) (.inl le_rfl) (h.resetLink hs)
  case linkFrameReceived bytes =>
    cases e
    split
    · exact hs
    · exact foldl _ _ hs fun _ _ a => h.linkByte a _
  case lineFrameReceived bytes => cases e; exact foldl _ _ hs fun _ _ a => h.lineByte a _
  case receptionBreakOff port =>
    cases port <;> cases e
    · unfold State.linkGap
      dsimp only
      split
      · exact h.linkError (h.linkReceiver hs _) _
      · exact h.linkReceiver hs _
    · unfold State.lineGap
      dsimp only
      split
      · exact h.lineError (h.lineReceiver hs _) _
      · exact h.lineReceiver hs _
  case lineHoldSensed => cases e; exact h.settle (h.setOutsideHold hs _)
  case lineHoldCleared => cases e; exact h.settle (h.setOutsideHold hs _)
  case classifyFrame => cases e; exact h.settle (h.classifyHead hs)
  case infeedRead => cases e; exact h.settle (h.infeedRead hs)
  case passthrough => cases e; exact h.settle (h.passHead hs)
  case transmitStart => cases e; exact h.startTransmission hs
  case transmitEnd => cases e; exact h.endTransmission hs
  case replyWindowExpiry => cases e; exact h.settle (h.replyExpired hs)
  case linkFrameSent => cases e; exact h.linkSent hs
  case moveTimerExpiry c =>
    simp only [Machine.exec, execMoveTimerExpiry] at e
    split at e <;> cases e
    exact h.settle (h.moveTimeout hs _)
  case presentationTimerExpiry c =>
    simp only [Machine.exec, execPresentationTimerExpiry] at e
    split at e <;> cases e
    exact h.settle (h.presentationTimeout hs _)
  case ageTimerExpiry c =>
    simp only [Machine.exec, execAgeTimerExpiry] at e
    split at e <;> cases e
    exact h.settle (h.ageOut hs _)
  case dutyTimerExpiry c =>
    simp only [Machine.exec, execDutyTimerExpiry] at e
    split at e <;> cases e
    exact h.settle (h.leakDuty hs _)
  case readTimerExpiry c =>
    simp only [Machine.exec, execReadTimerExpiry] at e
    split at e <;> cases e
    exact h.settle (h.readTimeout hs _)
  case transitDeadlineExpiry c =>
    simp only [Machine.exec, execTransitDeadlineExpiry] at e
    split at e <;> cases e
    exact h.settle (h.deadline hs _)
  case portResetLine =>
    simp only [Machine.exec, execPortResetLine] at e
    split at e <;> cases e
    · exact h.settle (h.resetLine (h.answer (h.takeRequest hs) _ _ _))
    · exact h.otherPort hs _ _
    · exact hs
  case portResetLink =>
    simp only [Machine.exec, execPortResetLink] at e
    split at e <;> cases e
    · exact h.answer (h.takeRequest hs) _ _ _
    · exact h.otherPort hs _ _
    · exact hs
  case badFormatRequest =>
    simp only [Machine.exec, execBadFormatRequest] at e
    split at e <;> cases e
    · exact h.answer (h.takeRequest hs) _ _ _
    · exact hs
  case linkPairReturnsToIdle => cases e; exact h.link s _ (.inl le_rfl) (.inl le_rfl) hs
  case linkProfile => cases e; exact req _ fun f r a e s hs => by split at e <;> cases e; exact h.setLinkProfile hs _ _ _ _
  case lineProfile =>
    cases e
    refine req _ fun f r a e s hs => ?_
    split at e
    · cases e; exact h.setLineProfile hs _ _ _ _ _
    · exact refuseListed _ _ a e s hs
    · cases e
  case portClear =>
    cases e
    refine req _ fun f r a e s hs => ?_
    split at e
    · cases e; exact h.portClear hs _
    · exact refuseListed _ _ a e s hs
    · cases e
  case storeReset => cases e; exact req _ fun f r a e s hs => by split at e <;> cases e; exact h.setDrive (h.clearStore s hs) _
  case tableFetch => cases e; exact req _ fun f r a e s hs => by split at e <;> cases e; exact hs
  case statusFetch =>
    cases e
    refine req _ fun f r a e s hs => ?_
    split at e
    · cases e; exact hs
    · exact refuseListed _ _ a e s hs
    · cases e
  case carouselModeOnline =>
    cases e
    refine req _ fun f r a e s hs => ?_
    split at e
    · cases e; exact h.online hs _
    · exact refuseListed _ _ a e s hs
    · cases e
  case carouselModeOffline =>
    cases e
    refine req _ fun f r a e s hs => ?_
    split at e
    · cases e; exact h.takeOut hs _ _
    · exact refuseListed _ _ a e s hs
    · cases e
  case carouselModeManual =>
    cases e
    refine req _ fun f r a e s hs => ?_
    split at e
    · cases e; exact h.takeOut hs _ _
    · exact refuseListed _ _ a e s hs
    · cases e
  case gradeCap => cases e; exact req _ fun f r a e s hs => by split at e <;> cases e; exact h.setCap hs _ _
  case powerBudget => cases e; exact req _ fun f r a e s hs => by split at e <;> cases e; exact h.setBudget hs _
  case lineHold => cases e; exact req _ fun f r a e s hs => by split at e <;> cases e; exact h.setDrive hs _
  case lineRelease => cases e; exact req _ fun f r a e s hs => by split at e <;> cases e; exact h.releaseLine hs
  case orderPlace =>
    cases e
    refine req _ fun f r a e s hs => ?_
    split at e
    · cases e; exact h.placeOrder hs _ _ _ _
    · exact refuseListed _ _ a e s hs
    · cases e
  case orderWithdraw => cases e; exact req _ fun f r a e s hs => by split at e <;> cases e; exact h.orderWithdraw hs _
  case laneRelease => cases e; exact req _ fun f r a e s hs => by split at e <;> cases e; exact h.laneRelease hs _
  case holdRangeSet =>
    cases e
    refine req _ fun f r a e s hs => ?_
    split at e <;> cases e
    · exact h.holdRangeSet hs _ _ _
    · exact otherRange hs _
  case holdRangeClear =>
    cases e
    refine req _ fun f r a e s hs => ?_
    split at e <;> cases e
    · exact h.holdRangeClear hs _ _ _
    · exact otherRange hs _
  case baySeize => cases e; exact req _ fun f r a e s hs => by split at e <;> cases e; exact h.seize hs _
  case bayUnseize => cases e; exact req _ fun f r a e s hs => by split at e <;> cases e; exact h.unseize hs _
  case auditStart =>
    cases e
    refine req _ fun f r a e s hs => ?_
    split at e
    · cases e; exact h.auditStart hs _ _ _ _
    · exact refuseListed _ _ a e s hs
    · cases e
  case auditStop => cases e; exact req _ fun f r a e s hs => by split at e <;> cases e; exact h.auditStop hs _
  case discrepancyResolveAcceptFound =>
    cases e
    refine req _ fun f r a e s hs => ?_
    split at e
    · cases e; exact h.resolve hs _ _
    · exact refuseListed _ _ a e s hs
    · cases e
  case discrepancyResolveKeepRecorded =>
    cases e
    refine req _ fun f r a e s hs => ?_
    split at e
    · cases e; exact h.resolve hs _ _
    · exact refuseListed _ _ a e s hs
    · cases e
  case discrepancyResolveSet =>
    cases e
    refine req _ fun f r a e s hs => ?_
    split at e
    · cases e; exact h.resolve hs _ _
    · exact refuseListed _ _ a e s hs
    · cases e
  case taskRepresent => cases e; exact req _ fun f r a e s hs => by split at e <;> cases e; exact h.represent hs _
  case taskAbandon => cases e; exact req _ fun f r a e s hs => by split at e <;> cases e; exact h.abandon hs _
  case tableLoadArticle => cases e; exact req _ fun f r a e s hs => by split at e <;> cases e; exact tables _ _ _ (fun _ _ _ _ a e => h.loadArticle a _ _ _ e) s hs
  case tableLoadCarousel => cases e; exact req _ fun f r a e s hs => by split at e <;> cases e; exact tables _ _ _ (fun _ _ _ _ a e => h.loadCarousel a _ _ _ e) s hs
  case tableLoadGrade => cases e; exact req _ fun f r a e s hs => by split at e <;> cases e; exact loadAll h _ (fun _ _ _ _ a e => h.loadGrade a _ _ _ e) _ _ _ hs
  case tableLoadStock => cases e; exact req _ fun f r a e s hs => by split at e <;> cases e; exact tables _ _ _ (fun _ _ _ _ a e => h.loadStock a _ _ _ e) s hs
  case tableLoadFilter => cases e; exact req _ fun f r a e s hs => by split at e <;> cases e; exact tables _ _ _ (fun _ _ _ _ a e => h.loadFilter a _ _ _ e) s hs
  case tableLoadSite => cases e; exact req _ fun f r a e s hs => by split at e <;> cases e; exact tables _ _ _ (fun _ _ _ _ a e => h.loadSite a _ _ _ e) s hs

/-- What every elementary change keeps, every step keeps. -/
theorem step (t : State) (e : Machine.step s = .next t) : P t := by
  unfold Machine.step at e
  split at e
  · cases e
    exact h.now s _ hs
  · exact h.exec (h.pending s _ hs) _ _ e

end Sys2Proof.Machine.Closed
end

