-- ==== Sys2Proof/Laws/Quiet.lean ====
section
/-! SUPPORT. No follow-up survives the end of a step: `State.settle_quiet`. On the way, every claim of an allocation's plan
is accepted (`State.reservePlan_ok`). -/

namespace Sys2Proof.Machine

/-- The follow-ups noted so far. -/
def State.notes (s : State) : Agenda × Retry :=
  (s.agenda, s.orderUnit.retry)

/-! ## Operations that note nothing -/

section Notes

variable (s : State)

@[simp] theorem State.modCar_notes (c : Nat) (f : Carousel → Carousel) : (s.modCar c f).notes = s.notes := rfl
@[simp] theorem State.modTask_notes (i : Nat) (f : Task → Task) : (s.modTask i f).notes = s.notes := rfl
@[simp] theorem State.setTask_notes (i : Nat) (t : Option Task) : (s.setTask i t).notes = s.notes := rfl
@[simp] theorem State.taskState_notes (i : Nat) (t : TaskState) : (s.taskState i t).notes = s.notes := rfl
@[simp] theorem State.modBay_notes (i : BayId) (f : Bay → Bay) : (s.modBay i f).notes = s.notes := rfl
@[simp] theorem State.modOrder_notes (n : Nat) (f : Order → Order) : (s.modOrder n f).notes = s.notes := rfl
@[simp] theorem State.modGroup_notes (r : GroupRef) (f : Group → Group) : (s.modGroup r f).notes = s.notes := rfl
@[simp] theorem State.modSweepRecord_notes (c : Nat) (f : SweepRecord → SweepRecord) :
    (s.modSweepRecord c f).notes = s.notes := rfl
@[simp] theorem State.lineError_notes (e : PortError) : (s.lineError e).notes = s.notes := rfl
@[simp] theorem State.routeLost_notes (n : Nat) : (s.routeLost n).notes = s.notes := rfl
@[simp] theorem State.placeMove_notes (c l : Nat) (d : Byte) (p : List Byte) : (s.placeMove c l d p).notes = s.notes := rfl

@[simp] theorem State.queueLink_notes (f : Frame) : (s.queueLink f).notes = s.notes := by
  unfold State.queueLink
  split
  · rfl
  · split <;> rfl

@[simp] theorem State.notify_notes (n : Notice) : (s.notify n).notes = s.notes := by
  unfold State.notify
  split
  · rfl
  · split
    · exact s.queueLink_notes _
    · rfl

@[simp] theorem State.dropFrame_notes (f : OutFrame) : (s.dropFrame f).notes = s.notes := by
  unfold State.dropFrame State.reportLost
  dsimp only
  split <;> split <;> simp

@[simp] theorem State.joinFifo_notes (f : OutFrame) : (s.joinFifo f).notes = s.notes := by
  unfold State.joinFifo
  split
  · rfl
  · split
    · split
      · rfl
      · exact s.dropFrame_notes f
    · exact s.dropFrame_notes f

@[simp] theorem State.build_notes (d k : Byte) (p : List Byte) (e : Option Nat) : (s.build d k p e).notes = s.notes :=
  State.joinFifo_notes _ _

@[simp] theorem State.indicate_notes (c b : Nat) (a : Indication) (q w : Nat) :
    (s.indicate c b a q w).notes = s.notes := by
  unfold State.indicate
  split <;> simp

@[simp] theorem State.sendScan_notes (c k : Nat) : (s.sendScan c k).notes = s.notes := by
  unfold State.sendScan
  split <;> simp

@[simp] theorem State.indicateTask_notes (c : Nat) (t : Task) : (s.indicateTask c t).notes = s.notes := by
  unfold State.indicateTask
  split <;> simp

@[simp] theorem State.present_notes (c : Nat) : (s.present c).notes = s.notes := by
  unfold State.present
  split
  · dsimp only
    split <;> simp
  · split <;> simp
  · rfl

theorem State.startMove_notes (c l n : Nat) (t : State) (h : s.startMove c l n = some t) : t.notes = s.notes := by
  unfold State.startMove at h
  split at h
  · dsimp only at h
    split at h <;> cases h <;> rfl
  · cases h

@[simp] theorem State.enterWait_notes (c l : Nat) : (s.enterWait c l).notes = s.notes := by
  unfold State.enterWait
  dsimp only
  split <;> rfl

@[simp] theorem State.beginWork_notes (c : Nat) (w : Work) (l n : Nat) : (s.beginWork c w l n).notes = s.notes := by
  unfold State.beginWork
  dsimp only
  split
  · simp
  · split
    · next h => simpa using State.startMove_notes _ _ _ _ _ h
    · simp

theorem State.grant_notes (n : Nat) (t : State) (h : s.grant n = some t) : t.notes = s.notes := by
  unfold State.grant at h
  split at h
  · cases h; rfl
  · cases h

theorem State.releaseTransit_notes (i : Nat) (k : Task) (t : State) (h : s.releaseTransit i k = some t) :
    t.notes = s.notes := by
  unfold State.releaseTransit at h
  split at h
  · rw [Option.map_eq_some_iff] at h
    obtain ⟨u, hu, rfl⟩ := h
    simpa using s.grant_notes _ u hu
  · cases h; rfl

@[simp] theorem State.attemptRelease_notes (c i : Nat) (k : Task) : (s.attemptRelease c i k).1.notes = s.notes := by
  unfold State.attemptRelease
  split
  · split
    · next h => simpa using s.releaseTransit_notes _ _ _ h
    · rfl
  · simp

@[simp] theorem State.walk_notes (c : Nat) (l : List Nat) : (State.walk c l s).1.notes = s.notes := by
  induction l generalizing s with
  | nil => rfl
  | cons i rest ih =>
    unfold State.walk
    split
    · exact ih s
    · next k _ =>
      split
      · have h := s.attemptRelease_notes c i k
        split
        · next e => rw [e] at h; exact h
        · next e => rw [e] at h; exact (ih _).trans h
      · exact ih s

@[simp] theorem State.releaseStep_notes (c : Nat) : (s.releaseStep c).notes = s.notes := by
  unfold State.releaseStep
  split
  · split <;> simp
  · rfl

@[simp] theorem State.servicePoint_notes (c : Nat) : (s.servicePoint c).notes = s.notes := by
  unfold State.servicePoint
  split
  · have h := s.walk_notes c (s.car c).walkOrder
    split
    · next e => rw [e] at h; exact h
    · next e => rw [e] at h; simpa using h
  · rfl

@[simp] theorem State.joinTail_notes (i : Nat) : (s.joinTail i).notes = s.notes := by
  unfold State.joinTail
  split <;> simp

end Notes

theorem State.foldl_notes {α : Type} (f : State → α → State) (h : ∀ s a, (f s a).notes = s.notes) (l : List α) (s : State) :
    (l.foldl f s).notes = s.notes := by
  induction l generalizing s with
  | nil => rfl
  | cons a l ih => exact (ih _).trans (h s a)

@[simp] theorem State.servicePoints_notes (s : State) (l : List Nat) : (s.servicePoints l).notes = s.notes := by
  refine (State.foldl_notes _ State.servicePoint_notes _ _).trans ?_
  unfold State.arrange
  split <;> rfl

@[simp] theorem State.allocated_notes (s : State) (o : Order) (r : GroupRef) (p : List Draw) (l : List Nat) :
    (s.allocated o r p l).notes = s.notes := by
  unfold State.allocated
  refine (State.foldl_notes _ (fun s i => ?_) _ _).trans ?_
  · unfold State.placeTask
    split <;> simp
  · exact State.foldl_notes (fun s (x : Nat × Draw) => s.setTask x.1 (some (pickTask o r x.2))) (fun s x => rfl) _ s

/-! ## A plan's claims are accepted -/

/-- Where a bay's record stands. -/
def State.place (s : State) (id : BayId) : Nat × Nat :=
  (id.carousel, s.position id)

theorem State.place_bayAt (s : State) (c p : Nat) : s.place (s.bayAt c p) = (c, p) := by
  simp only [State.place, State.position, State.bayAt]
  rw [Nat.add_sub_cancel' (Nat.div_mul_le_self _ _)]

theorem State.bay_modBay_other (s : State) (i j : BayId) (f : Bay → Bay) (h : s.place i ≠ s.place j) :
    (s.modBay i f).bay j = s.bay j := by
  have e : (s.modBay i f).position j = s.position j := rfl
  unfold State.bay
  rw [e]
  unfold State.baysOf
  simp only [State.modBay_bays, getD_modify]
  split
  · next x =>
    rw [getD_modify, if_neg]
    intro y
    exact h (by simp [State.place, x.1, y.1])
  · rfl

/-- A draw is within what its bay offers: free of holds, of the article and batch, and available. -/
def State.offers (s : State) (article : Nat) (d : Draw) : Prop :=
  (s.bay d.bay).holds.any = false ∧ (s.bay d.bay).tyre = some { article, batch := d.batch } ∧
    d.quantity + (s.bay d.bay).reserved ≤ (s.bay d.bay).count

theorem State.reservePlan_ok (article : Nat) (plan made : List Draw) (s : State) (h : ∀ d ∈ plan, s.offers article d)
    (n : (plan.map fun d => s.place d.bay).Nodup) :
    ∃ t, s.reservePlan article plan made = .ok t ∧ t.notes = s.notes := by
  induction plan generalizing s made with
  | nil => exact ⟨s, rfl, rfl⟩
  | cons d ds ih =>
    rw [List.map_cons, List.nodup_cons] at n
    have o := h d (by simp)
    have r : s.reserve d.bay { article, batch := d.batch } d.quantity =
        some (s.modBay d.bay fun b => { b with reserved := b.reserved + d.quantity }) := if_pos o
    unfold State.reservePlan
    rw [r]
    obtain ⟨t, ht, e⟩ := ih (made ++ [d]) (s.modBay d.bay fun b => { b with reserved := b.reserved + d.quantity })
      (fun x hx => by
        have y := h x (by simp [hx])
        unfold State.offers at y ⊢
        rw [State.bay_modBay_other]
        · exact y
        · intro e
          exact n.1 (e ▸ List.mem_map_of_mem hx)) n.2
    exact ⟨t, ht, e⟩

theorem sortByKey_perm {α : Type} (key : α → List Nat) (l : List α) : (sortByKey key l).Perm l := by
  have step : ∀ (x : α) (m : List α), (sortByKey.insertFirst key x m).Perm (x :: m) := by
    intro x m
    induction m with
    | nil => exact List.Perm.refl _
    | cons y ys ih =>
      unfold sortByKey.insertFirst
      split
      · exact (ih.cons y).trans (List.Perm.swap x y ys)
      · exact List.Perm.refl _
  induction l with
  | nil => exact List.Perm.refl _
  | cons x xs ih => exact (step x _).trans (ih.cons x)

theorem planDraws_from (need : Nat) (l : List Candidate) :
    ((planDraws need l).map Draw.bay).Sublist (l.map Candidate.bay) ∧
      ∀ d ∈ planDraws need l, ∃ c ∈ l, d.bay = c.bay ∧ d.batch = c.batch ∧ d.quantity ≤ c.available := by
  induction l generalizing need with
  | nil => exact ⟨List.Sublist.refl _, by simp [planDraws]⟩
  | cons c cs ih =>
    unfold planDraws
    split
    · exact ⟨by simp, by simp⟩
    · have h := ih (need - min c.available need)
      refine ⟨by simpa using h.1, ?_⟩
      intro d hd
      rcases List.mem_cons.1 hd with rfl | hd
      · exact ⟨c, by simp, rfl, rfl, Nat.min_le_left _ _⟩
      · obtain ⟨x, hx, y⟩ := h.2 d hd
        exact ⟨x, by simp [hx], y⟩

theorem State.candidate_some (s : State) (article need : Nat) (w : Option Window) (id : BayId) (c : Candidate)
    (h : s.candidate article need w id = some c) :
    c.bay = id ∧ (s.bay id).holds.any = false ∧ (s.bay id).tyre = some { article, batch := c.batch } ∧
      c.available = (s.bay id).available ∧ 0 < c.available := by
  unfold State.candidate at h
  dsimp only at h
  split at h
  · next t ht =>
    split at h
    · next x =>
      cases h
      refine ⟨rfl, x.2.2.1, ?_, rfl, x.2.1⟩
      rw [ht]
      obtain ⟨a, b⟩ := t
      simp only at x
      simp [x.1]
    · cases h
  · cases h

theorem State.candidates_place (s : State) (article need : Nat) (w : Option Window) (out : List BayId) :
    ((s.candidates article need w out).map fun c => s.place c.bay).Nodup ∧
      ∀ c ∈ s.candidates article need w out, (s.bay c.bay).holds.any = false ∧
        (s.bay c.bay).tyre = some { article, batch := c.batch } ∧ c.available + (s.bay c.bay).reserved ≤ (s.bay c.bay).count := by
  have one : ∀ (c p : Nat) (x : Candidate),
      (if out.contains (s.bayAt c p) then none else s.candidate article need w (s.bayAt c p)) = some x →
        x.bay = s.bayAt c p ∧ s.candidate article need w (s.bayAt c p) = some x := by
    intro c p x h
    split at h
    · cases h
    · exact ⟨(s.candidate_some _ _ _ _ _ h).1, h⟩
  unfold State.candidates
  constructor
  · rw [List.map_flatMap, List.nodup_flatMap]
    constructor
    · intro c _
      split
      · rw [List.map_filterMap]
        refine List.Nodup.filterMap ?_ List.nodup_range
        intro p q z hp hq
        simp only [Option.mem_def, Option.map_eq_some_iff] at hp hq
        obtain ⟨x, hx, rfl⟩ := hp
        obtain ⟨y, hy, e⟩ := hq
        rw [(one c p x hx).1, (one c q y hy).1, s.place_bayAt, s.place_bayAt] at e
        exact (congrArg Prod.snd e).symm
      · simp
    · refine List.nodup_range.imp_of_mem fun {a b} _ _ ne => ?_
      intro z hz1 hz2
      have first : ∀ c, z ∈ List.map (fun c => s.place c.bay)
          (if s.offersBays c then (List.range (s.baysOf c).length).filterMap fun p =>
            if out.contains (s.bayAt c p) then none else s.candidate article need w (s.bayAt c p) else []) → z.1 = c := by
        intro c hz
        split at hz
        · simp only [List.mem_map, List.mem_filterMap] at hz
          obtain ⟨x, ⟨p, _, hx⟩, rfl⟩ := hz
          rw [(one c p x hx).1, s.place_bayAt]
        · simp at hz
      exact ne ((first a hz1).symm.trans (first b hz2))
  · intro x hx
    rw [List.mem_flatMap] at hx
    obtain ⟨c, _, hx⟩ := hx
    split at hx
    · rw [List.mem_filterMap] at hx
      obtain ⟨p, _, hp⟩ := hx
      have o := one c p x hp
      have k := s.candidate_some _ _ _ _ _ o.2
      rw [o.1]
      refine ⟨k.2.1, k.2.2.1, ?_⟩
      have a := k.2.2.2.1
      have b := k.2.2.2.2
      unfold Bay.available at a
      omega
    · simp at hx

theorem State.allocate_notes (ref : GroupRef) (fuel : Nat) (out : List BayId) (s : State) :
    (State.allocate ref fuel out s).1.notes = s.notes := by
  cases fuel with
  | zero => rfl
  | succ fuel =>
    unfold State.allocate
    split
    · next o g _ _ =>
      dsimp only
      split
      · rfl
      · next x _ =>
        split
        · rfl
        · have k := s.candidates_place (s.groupArticle ref) g.need g.window out
          generalize s.candidates (s.groupArticle ref) g.need g.window out = cands at k ⊢
          have perm : (drawOrder cands x (s.tolerance (s.groupArticle ref))).Perm _ := sortByKey_perm _ _
          have p := planDraws_from g.need (drawOrder cands x (s.tolerance (s.groupArticle ref)))
          have sub : ((drawOrder cands x (s.tolerance (s.groupArticle ref))).map fun c => s.place c.bay).Nodup := by
            rw [(perm.map _).nodup_iff]
            exact k.1.sublist (List.filter_sublist.map _)
          obtain ⟨t, ht, e⟩ := s.reservePlan_ok (s.groupArticle ref)
            (planDraws g.need (drawOrder cands x (s.tolerance (s.groupArticle ref)))) []
            (fun d hd => by
              obtain ⟨c, hc, e1, e2, e3⟩ := p.2 d hd
              have m := k.2 c (List.mem_of_mem_filter (perm.mem_iff.1 hc))
              unfold State.offers
              rw [e1, e2]
              exact ⟨m.1, m.2.1, by omega⟩)
            (by
              have h := p.1.map s.place
              rw [List.map_map, List.map_map] at h
              exact sub.sublist h)
          rw [ht]
          simpa using e
    · rfl

/-! ## The follow-ups -/

theorem State.retryPass_notes (s : State) (r : Retry) : (s.retryPass r).notes = s.notes := by
  refine State.foldl_notes _ (fun s ref => ?_) _ _
  unfold State.retryGroup
  split
  · exact State.allocate_notes ref _ _ s
  · rfl

theorem State.runRetries_notes (n : Nat) (s : State) : (State.runRetries (n + 1) s).notes = (s.agenda, .none) := by
  unfold State.runRetries
  split
  · next h => simp only [State.notes, h]
  · next r _ =>
    have h := State.retryPass_notes { s with orderUnit := { s.orderUnit with retry := .none } } s.orderUnit.retry
    cases n with
    | zero => exact h
    | succ n =>
      unfold State.runRetries
      rw [show (State.retryPass _ _).orderUnit.retry = Retry.none from congrArg Prod.snd h]
      exact h

/-- Nothing noted survives the follow-ups. -/
theorem State.settle_quiet (s : State) : s.settle.quiet := by
  have f : s.serveFreed.agenda.freed = false := by
    unfold State.serveFreed
    split
    · exact congrArg (fun x => Agenda.freed (Prod.fst x)) (State.servicePoints_notes _ _)
    · next h => simpa using h
  have r := State.runRetries_notes 3 s.serveFreed
  have h : s.settle.notes = ({ freed := false, points := [] }, Retry.none) := by
    unfold State.settle State.servePoints
    rw [State.servicePoints_notes]
    have a := congrArg Prod.fst r
    have b := congrArg Prod.snd r
    simp only [State.notes] at a b ⊢
    rw [a, b, f]
  exact ⟨congrArg Prod.fst h, congrArg Prod.snd h⟩

/-- With nothing noted there is nothing to follow up. -/
theorem State.settle_of_quiet (s : State) (h : s.quiet) : s.settle = s := by
  obtain ⟨a, b⟩ := h
  have f : s.serveFreed = s := by simp [State.serveFreed, a]
  have r : State.runRetries 4 s = s := by simp [State.runRetries, b]
  have p : ({ s with agenda := { s.agenda with points := [] } } : State) = s := by
    cases s
    simp only at a
    simp [a]
  unfold State.settle State.servePoints
  rw [f, r, p, a]
  rfl

end Sys2Proof.Machine
end

