-- ==== Sys2Proof/Laws/Tasks.lean ====
section
/-! SUPPORT. Which task records the follow-ups of a step touch: a service point works on QUEUED tasks alone, allocation on
free records alone; so every other task keeps its record (`State.settle_task`). -/

namespace Sys2Proof.Machine

/-- No record but those listed changes. -/
def State.Sole (l : List Nat) (s t : State) : Prop :=
  ∀ j, j ∉ l → t.task j = s.task j

/-- Every task that is not QUEUED keeps its record. -/
def State.Settled (s t : State) : Prop :=
  ∀ j k, s.task j = some k → k.state ≠ .queued → t.task j = some k

theorem State.Settled.refl (s : State) : s.Settled s := fun _ _ h _ => h

theorem State.Settled.trans {s t u : State} (a : s.Settled t) (b : t.Settled u) : s.Settled u :=
  fun j k h q => b j k (a j k h q) q

theorem State.Sole.refl (l : List Nat) (s : State) : s.Sole l s := fun _ _ => rfl

theorem State.Sole.trans {l : List Nat} {s t u : State} (a : s.Sole l t) (b : t.Sole l u) : s.Sole l u :=
  fun j h => (b j h).trans (a j h)

theorem State.Sole.of_pool (l : List Nat) {s t : State} (h : t.orderUnit.pool = s.orderUnit.pool) : s.Sole l t :=
  fun j _ => by rw [State.task, h]; rfl

/-- A record that changes alone was QUEUED or free. -/
theorem State.Sole.settled {l : List Nat} {s t : State} (a : s.Sole l t)
    (h : ∀ j ∈ l, ∀ k, s.task j = some k → k.state = .queued) : s.Settled t := fun j k hj q => by
  by_cases m : j ∈ l
  · exact absurd (h j m k hj) q
  · rw [a j m, hj]

theorem State.sole_modTask (s : State) (i : Nat) (f : Task → Task) (l : List Nat) (h : i ∈ l) :
    s.Sole l (s.modTask i f) := fun j m => by
  rw [State.task_modTask, if_neg]
  exact fun e => m (e ▸ h)

/-! ## Frames -/

theorem State.build_orderUnit (s : State) (dest kind : Byte) (payload : List Byte) :
    (s.build dest kind payload).orderUnit = s.orderUnit := by
  show (State.joinFifo _ _).orderUnit = _
  unfold State.joinFifo
  repeat' split
  all_goals rfl

theorem State.indicateTask_orderUnit (s : State) (c : Nat) (t : Task) : (s.indicateTask c t).orderUnit = s.orderUnit := by
  unfold State.indicateTask State.indicate
  repeat' split
  all_goals first | rfl | exact State.build_orderUnit _ _ _ _

theorem State.sendScan_orderUnit (s : State) (c carrier : Nat) : (s.sendScan c carrier).orderUnit = s.orderUnit := by
  unfold State.sendScan
  split
  · exact State.build_orderUnit _ _ _ _
  · rfl

/-! ## Service points; `l` holds the task in service -/

theorem State.sole_present (s : State) (c : Nat) (l : List Nat) (h : ∀ id, (s.car c).inService = some (.task id) → id ∈ l) :
    s.Sole l (s.present c) := by
  unfold State.present
  split
  · next id e =>
    have a : s.Sole l ((s.taskState id .presenting).modCar c fun k =>
        { k with state := .presenting, presentationTimer := some (s.now + s.presentationMs) }) :=
      s.sole_modTask id (fun t => { t with state := .presenting }) l (h id e)
    dsimp only
    split
    · exact a.trans (State.Sole.of_pool l (by rw [State.indicateTask_orderUnit]))
    · exact a
  · split
    · refine State.Sole.of_pool l ?_
      show (State.sendScan _ _ _).orderUnit.pool = _
      rw [State.sendScan_orderUnit]
      rfl
    · exact State.Sole.refl l s
  · exact State.Sole.refl l s

theorem State.sole_startMove (s : State) (c level target : Nat) (l : List Nat) (t : State)
    (h : ∀ id, (s.car c).inService = some (.task id) → id ∈ l) (e : s.startMove c level target = some t) : s.Sole l t := by
  unfold State.startMove at e
  split at e
  · dsimp only at e
    split at e
    · next id i =>
      cases e
      exact (State.Sole.of_pool l rfl).trans (State.sole_modTask _ id _ l (h id i))
    · cases e
      exact State.Sole.of_pool l rfl
  · cases e

theorem State.sole_enterWait (s : State) (c level : Nat) (l : List Nat)
    (h : ∀ id, (s.car c).inService = some (.task id) → id ∈ l) : s.Sole l (s.enterWait c level) := by
  unfold State.enterWait
  dsimp only
  split
  · next id i => exact (State.Sole.of_pool l rfl).trans (State.sole_modTask _ id _ l (h id i))
  · exact State.Sole.of_pool l rfl

theorem State.sole_beginWork (s : State) (c : Nat) (w : Work) (level target : Nat) (l : List Nat)
    (h : ∀ id, w = .task id → id ∈ l) (r : ∀ id, (s.car c).inService = some (.task id) → id ∈ l) :
    s.Sole l (s.beginWork c w level target) := by
  have i : ∀ id, ((s.modCar c fun k => { k with inService := some w }).car c).inService = some (.task id) → id ∈ l := by
    intro id e
    rw [State.car_modCar] at e
    split at e
    · exact h id (Option.some.inj e)
    · exact r id e
  have a : s.Sole l (s.modCar c fun k => { k with inService := some w }) := State.Sole.of_pool l rfl
  unfold State.beginWork
  dsimp only
  split
  · exact a.trans (State.sole_present _ c l i)
  · split
    · next e => exact a.trans (State.sole_startMove _ c level target l _ i e)
    · exact a.trans (State.sole_enterWait _ c level l i)

theorem State.sole_attemptRelease (s : State) (c id : Nat) (k : Task) (i : (s.car c).inService = none) :
    s.Sole [id] (s.attemptRelease c id k).1 := by
  have m : id ∈ [id] := List.mem_singleton.mpr rfl
  unfold State.attemptRelease
  split
  · split
    · next u hu =>
      have a : s.Sole [id] u ∧ u.carousels = s.carousels := by
        unfold State.releaseTransit at hu
        split at hu
        · rw [Option.map_eq_some_iff] at hu
          obtain ⟨v, hv, rfl⟩ := hu
          unfold State.grant at hv
          split at hv
          · cases hv
            exact ⟨(State.Sole.of_pool _ rfl).trans (State.sole_modTask _ id _ _ m), rfl⟩
          · cases hv
        · cases hu
          exact ⟨State.Sole.refl _ s, rfl⟩
      refine (a.1.trans (State.Sole.of_pool _ rfl)).trans (State.sole_beginWork _ c _ _ _ _ (fun j e => ?_) fun j e => ?_)
      · cases e; exact m
      · have n : (u.car c).inService = none := by rw [State.car, a.2]; exact i
        rw [State.car_modCar] at e
        split at e
        · exact absurd (show (u.car c).inService = _ from e) (by rw [n]; exact nofun)
        · exact absurd e (by rw [n]; exact nofun)
    · exact State.Sole.refl _ s
  · exact s.sole_modTask id _ _ m

theorem State.attemptRelease_failed (s : State) (c id : Nat) (k : Task) (h : (s.attemptRelease c id k).2 = false) :
    (s.attemptRelease c id k).1.carousels = s.carousels := by
  unfold State.attemptRelease at h ⊢
  split at h
  · split at h
    · cases h
    · simp_all
  · next e => rw [if_neg e]; rfl

theorem State.settled_walk (c : Nat) (l : List Nat) (s : State) (i : (s.car c).inService = none) :
    s.Settled (State.walk c l s).1 ∧ ((State.walk c l s).2 = false → (State.walk c l s).1.carousels = s.carousels) := by
  induction l generalizing s with
  | nil => exact ⟨State.Settled.refl s, fun _ => rfl⟩
  | cons id rest ih =>
    unfold State.walk
    split
    · exact ih s i
    · next k e =>
      split
      · next el =>
        have q : k.state = .queued := by
          simp only [State.eligible, Bool.and_eq_true, decide_eq_true_eq] at el
          exact el.1
        have a : s.Settled (s.attemptRelease c id k).1 := (s.sole_attemptRelease c id k i).settled fun j hj x hx => by
          rw [List.mem_singleton] at hj
          rw [hj, e] at hx
          cases hx; exact q
        have b := s.attemptRelease_failed c id k
        split
        · next r => rw [r] at a; exact ⟨a, fun h => by cases h⟩
        · next r =>
          rw [r] at a b
          have n := b rfl
          have w := ih _ (by rw [State.car, n]; exact i)
          exact ⟨a.trans w.1, fun h => (w.2 h).trans n⟩
      · exact ih s i

theorem State.settled_servicePoint (s : State) (c : Nat) : s.Settled (s.servicePoint c) := by
  unfold State.servicePoint
  split
  · next h =>
    have i : (s.car c).inService = none := by
      simp only [State.idleReady, Bool.and_eq_true, Option.isNone_iff_eq_none] at h
      exact h.2
    have w := State.settled_walk c (s.car c).walkOrder s i
    split
    · next e => rw [e] at w; exact w.1
    · next u e =>
      rw [e] at w
      refine w.1.trans ?_
      have n : (u.car c).inService = none := by rw [State.car, w.2 rfl]; exact i
      unfold State.releaseStep
      split
      · split
        · refine State.Sole.settled (State.sole_beginWork u c .step 0 _ [] nofun ?_) nofun
          intro id e
          rw [n] at e
          cases e
        · exact State.Settled.refl u
      · exact State.Settled.refl u
  · exact State.Settled.refl s

theorem State.settled_foldl {α : Type} (f : State → α → State) (h : ∀ (s : State) a, s.Settled (f s a)) (l : List α) (s : State) :
    s.Settled (l.foldl f s) := by
  induction l generalizing s with
  | nil => exact State.Settled.refl s
  | cons a l ih => exact (h s a).trans (ih _)

theorem State.settled_of_pool {s t : State} (h : t.orderUnit.pool = s.orderUnit.pool) : s.Settled t :=
  (State.Sole.of_pool [] h).settled nofun

theorem State.settled_servicePoints (s : State) (l : List Nat) : s.Settled (s.servicePoints l) := by
  have a : s.Settled (s.arrange (l.filter s.idleReady)).2 := State.settled_of_pool (by unfold State.arrange; split <;> rfl)
  exact a.trans (State.settled_foldl _ State.settled_servicePoint _ _)

/-! ## Allocation -/

theorem State.settled_joinTail (s : State) (id : Nat) : s.Settled (s.joinTail id) := by
  unfold State.joinTail
  split
  · next k _ =>
    have a : s.Settled (s.modCar k.bay.carousel fun x => x.modQueue k.level (· ++ [id])) := State.settled_of_pool rfl
    exact a.trans (State.settled_servicePoint _ _)
  · exact State.Settled.refl s

theorem State.settled_placeTask (o : Order) (s : State) (id : Nat) : s.Settled (s.placeTask o id) := by
  unfold State.placeTask
  split
  · exact State.settled_of_pool rfl
  · exact s.settled_joinTail id

theorem State.settled_setTasks (g : Nat × Draw → Task) (l : List (Nat × Draw)) (s : State)
    (free : ∀ x ∈ l, s.task x.1 = none) (distinct : (l.map Prod.fst).Nodup) :
    s.Settled (l.foldl (fun s x => s.setTask x.1 (some (g x))) s) := by
  induction l generalizing s with
  | nil => exact State.Settled.refl s
  | cons x l ih =>
    rw [List.map_cons, List.nodup_cons] at distinct
    refine State.Settled.trans (fun j k h _ => ?_) (ih _ (fun y hy => ?_) distinct.2)
    · rw [State.task_setTask, if_neg]
      · exact h
      · intro e
        rw [← e.1, free x (by simp)] at h
        cases h
    · rw [State.task_setTask, if_neg]
      · exact free y (by simp [hy])
      · intro e
        exact distinct.1 (e.1 ▸ List.mem_map_of_mem hy)

theorem State.reserveRelease_pool (s : State) (id : BayId) (n : Nat) :
    (s.reserveRelease id n).orderUnit.pool = s.orderUnit.pool := by
  unfold State.reserveRelease
  split <;> rfl

theorem State.reservePlan_pool (article : Nat) (plan made : List Draw) (s : State) :
    match s.reservePlan article plan made with
    | .ok t => t.orderUnit.pool = s.orderUnit.pool
    | .error x => x.2.orderUnit.pool = s.orderUnit.pool := by
  induction plan generalizing s made with
  | nil => rfl
  | cons d ds ih =>
    unfold State.reservePlan
    cases h : s.reserve d.bay { article, batch := d.batch } d.quantity with
    | none =>
      dsimp only
      clear h ih
      induction made generalizing s with
      | nil => rfl
      | cons m l ih => exact (ih _).trans (s.reserveRelease_pool _ _)
    | some u =>
      have e : u.orderUnit.pool = s.orderUnit.pool := by
        unfold State.reserve at h
        dsimp only at h
        split at h
        · cases h; rfl
        · cases h
      have b := ih (made ++ [d]) u
      rw [e] at b
      exact b

theorem State.settled_allocated (s : State) (o : Order) (ref : GroupRef) (plan : List Draw) (ids : List Nat)
    (free : ∀ id ∈ ids, s.task id = none) (distinct : ids.Nodup) : s.Settled (s.allocated o ref plan ids) := by
  have a := s.settled_setTasks (fun y => pickTask o ref y.2) (ids.zip plan)
    (fun y hy => free _ (List.of_mem_zip hy).1) (distinct.sublist (fst_zip_sublist _ _))
  unfold State.allocated
  refine State.Settled.trans ?_ (State.settled_foldl _ (State.settled_placeTask o) _ _)
  exact fun j k h q => a j k h q

theorem State.settled_allocate (ref : GroupRef) (fuel : Nat) (out : List BayId) (s : State) :
    s.Settled (State.allocate ref fuel out s).1 := by
  induction fuel generalizing s out with
  | zero => exact State.Settled.refl s
  | succ fuel ih =>
    unfold State.allocate
    split
    · next o g _ _ =>
      dsimp only
      split
      · exact State.Settled.refl s
      · next x _ =>
        split
        · exact State.Settled.refl s
        · have h := State.reservePlan_pool (s.groupArticle ref)
            (planDraws g.need (drawOrder (s.candidates (s.groupArticle ref) g.need g.window out) x
              (s.tolerance (s.groupArticle ref)))) [] s
          revert h
          cases s.reservePlan (s.groupArticle ref)
            (planDraws g.need (drawOrder (s.candidates (s.groupArticle ref) g.need g.window out) x
              (s.tolerance (s.groupArticle ref)))) [] with
          | ok u =>
            intro h
            have b : s.Settled u := State.settled_of_pool h
            refine b.trans (u.settled_allocated o ref _ _ (fun id hid => ?_) ?_)
            · have f := s.freeTasks_free _ (List.mem_of_mem_take hid)
              unfold State.task at f ⊢
              rw [h]
              exact f
            · exact s.freeTasks_nodup.sublist (List.take_sublist _ _)
          | error y =>
            intro h
            have b : s.Settled y.2 := State.settled_of_pool h
            exact b.trans (ih _ _)
    · exact State.Settled.refl s

theorem State.settled_runRetries (n : Nat) (s : State) : s.Settled (State.runRetries n s) := by
  induction n generalizing s with
  | zero => exact State.Settled.refl s
  | succ n ih =>
    unfold State.runRetries
    split
    · exact State.Settled.refl s
    · have a : s.Settled { s with orderUnit := { s.orderUnit with retry := .none } } := State.settled_of_pool rfl
      refine (a.trans (State.settled_foldl (State.retryGroup s.orderUnit.retry) (fun u ref => ?_) _ _)).trans (ih _)
      unfold State.retryGroup
      split
      · exact State.settled_allocate ref _ _ u
      · exact State.Settled.refl u

/-- The follow-ups of a step leave every task that is not QUEUED as it is. -/
theorem State.settle_task (s : State) : s.Settled s.settle := by
  have a : ∀ (u : State) (g : Agenda), u.Settled { u with agenda := g } := fun u g => State.settled_of_pool rfl
  unfold State.settle State.servePoints
  refine State.Settled.trans (State.Settled.trans ?_ (State.settled_runRetries _ _))
    ((a _ _).trans (State.settled_servicePoints _ _))
  unfold State.serveFreed
  split
  · exact (a _ _).trans (State.settled_servicePoints _ _)
  · exact State.Settled.refl s

end Sys2Proof.Machine
end

