-- ==== Sys2Proof/Laws/Frames.lean ====
section
/-! SUPPORT. What the shared operations that notify, build a frame or change one record can do, each said once. -/

namespace Sys2Proof.Machine

/-- A notice changes the link port alone (R172). -/
theorem notify_frame (s : State) (n : Notice) : s.notify n = { s with link := (s.notify n).link } := by
  unfold State.notify State.queueLink
  repeat' split
  all_goals rfl

/-- What a notice does to the link port follows from the link port. -/
theorem notify_link_congr (s t : State) (n : Notice) (h : s.link = t.link) : (s.notify n).link = (t.notify n).link := by
  unfold State.notify State.queueLink State.linkMax State.linkError
  rw [h]
  repeat' split
  all_goals first | rfl | simp [h]

/-- A dropped frame of the part without a transit entry adds FULL and changes no more (R164). -/
theorem dropFrame_frame (s : State) (f : OutFrame) (e : f.entry = none) (o : f.origin = .part) :
    s.dropFrame f = { s with outbox := (s.dropFrame f).outbox, line := (s.dropFrame f).line } := by
  have : s.dropFrame f = s.lineError .full := by unfold State.dropFrame State.reportLost; rw [e, o]
  rw [this]; rfl

/-- A frame of the part without a transit entry changes outbox and line errors alone (R164). -/
theorem joinFifo_frame (s : State) (f : OutFrame) (e : f.entry = none) (o : f.origin = .part) :
    s.joinFifo f = { s with outbox := (s.joinFifo f).outbox, line := (s.joinFifo f).line } := by
  unfold State.joinFifo
  split
  · rfl
  · split
    · split
      · rfl
      · exact dropFrame_frame s f e o
    · exact dropFrame_frame s f e o

/-- So does the building of one. -/
theorem build_frame (s : State) (d k : Byte) (p : List Byte) :
    s.build d k p = { s with outbox := (s.build d k p).outbox, line := (s.build d k p).line } := by
  unfold State.build
  dsimp only
  rw [joinFifo_frame _ _ rfl rfl]
  rfl

/-- So does a STOP. -/
theorem sendStop_frame (s : State) (c : Nat) :
    s.sendStop c = { s with outbox := (s.sendStop c).outbox, line := (s.sendStop c).line } := by
  unfold State.sendStop
  split
  · exact build_frame _ _ _ _
  · rfl

/-- So does an indication. -/
theorem indicate_frame (s : State) (c b : Nat) (a : Indication) (q w : Nat) :
    s.indicate c b a q w = { s with outbox := (s.indicate c b a q w).outbox, line := (s.indicate c b a q w).line } := by
  unfold State.indicate
  split
  · exact build_frame _ _ _ _
  · rfl

/-- So does a SCAN. -/
theorem sendScan_frame (s : State) (c b : Nat) :
    s.sendScan c b = { s with outbox := (s.sendScan c b).outbox, line := (s.sendScan c b).line } := by
  unfold State.sendScan
  split
  · exact build_frame _ _ _ _
  · rfl

/-- A balance record after one is changed. -/
theorem bal_modBal (s : State) (c d : Nat) (f : Balance → Balance) :
    (s.modBal c f).bal d = if c = d ∧ d < s.balances.length then f (s.bal d) else s.bal d :=
  getD_modify _ _ _ _ _

/-- A sweep record after one is changed. -/
theorem sweepRecord_mod (s : State) (c d : Nat) (f : SweepRecord → SweepRecord) :
    (s.modSweepRecord c f).sweepRecord d = if c = d ∧ d < s.audit.sweeps.length then f (s.sweepRecord d) else s.sweepRecord d :=
  getD_modify _ _ _ _ _

/-- a field of each bay kept by modBay -/
theorem bay_modBay_field {α : Type} (g : Bay → α) (s : State) (i : BayId) (f : Bay → Bay) (h : ∀ b, g (f b) = g b) (j :
    BayId) :
    g ((s.modBay i f).bay j) = g (s.bay j) := by
  have e : (s.modBay i f).position j = s.position j := rfl
  unfold State.bay
  rw [e]
  unfold State.baysOf
  simp only [State.modBay_bays, getD_modify]
  split
  · rw [getD_modify]; split <;> simp [h]
  · rfl

/-- The bay record a change is made to. -/
theorem bay_modBay_same (s : State) (i : BayId) (f : Bay → Bay) (c : i.carousel < s.bays.length) (p :
    s.position i < (s.baysOf i.carousel).length) :
    (s.modBay i f).bay i = f (s.bay i) := by
  have e : (s.modBay i f).position i = s.position i := rfl
  unfold State.bay
  rw [e]
  unfold State.baysOf at p ⊢
  simp only [State.modBay_bays, getD_modify]
  rw [if_pos (by simpa using c), getD_modify, if_pos (by simpa using p)]

theorem tidy_count (b : Bay) : b.tidy.count = b.count := by unfold Bay.tidy; split <;> rfl
theorem tidy_incoming (b : Bay) : b.tidy.incoming = b.incoming := by unfold Bay.tidy; split <;> rfl
theorem tidy_reserved (b : Bay) : b.tidy.reserved = b.reserved := by unfold Bay.tidy; split <;> rfl
theorem tidy_holds (b : Bay) : b.tidy.holds = b.holds := by unfold Bay.tidy; split <;> rfl
theorem tidy_last (b : Bay) : b.tidy.lastSweep = b.lastSweep := by unfold Bay.tidy; split <;> rfl

/-- A list whose bytes fit is fetched whole (R177). -/
theorem entriesThatFit_all (l : List Fetched) : ∀ room, (l.flatMap Fetched.bytes).length ≤ room →
    entriesThatFit room l = l.length := by
  induction l with
  | nil => intro r _; rfl
  | cons e l ih =>
    intro r h
    simp only [List.flatMap_cons, List.length_append] at h
    unfold entriesThatFit
    rw [if_pos (by omega), ih _ (by omega)]; rfl

/-- Else as many entries are fetched as fit and one more would not (R177). -/
theorem entriesThatFit_stop (l : List Fetched) : ∀ room n, n < l.length →
    ((l.take n).flatMap Fetched.bytes).length ≤ room → room < ((l.take (n + 1)).flatMap Fetched.bytes).length →
    entriesThatFit room l = n := by
  induction l with
  | nil => intro r n h; simp at h
  | cons e l ih =>
    intro r n hn h1 h2
    cases n with
    | zero =>
      simp at h2
      unfold entriesThatFit
      rw [if_neg (by omega)]
    | succ n =>
      simp only [List.take_succ_cons, List.flatMap_cons, List.length_append, List.length_cons] at h1 h2 hn
      unfold entriesThatFit
      rw [if_pos (by omega), ih _ n (by omega) (by omega) (by omega)]

/-! ## The line FIFO and the offer of a lane -/

/-- No INDICATE to take the place of (R164). -/
theorem replaceLast_none {α : Type} (pick : α → Bool) (new : α) (l : List α) (h : ∀ y ∈ l, pick y = false) :
    replaceLast pick new l = none := by
  induction l with
  | nil => rfl
  | cons x xs ih =>
    unfold replaceLast
    rw [ih fun y m => h y (by simp [m])]
    simp [h x (by simp)]

/-- The place of the last element picked (R164). -/
theorem replaceLast_some {α : Type} (pick : α → Bool) (new : α) (a b : List α) (g : α) (hg : pick g = true)
    (hb : ∀ y ∈ b, pick y = false) : replaceLast pick new (a ++ g :: b) = some (a ++ new :: b) := by
  induction a with
  | nil => simp only [List.nil_append]; unfold replaceLast; rw [replaceLast_none pick new b hb]; simp [hg]
  | cons x xs ih => simp only [List.cons_append]; unfold replaceLast; rw [ih]

theorem errors_eta (e : ErrorSet) : { e with full := e.full || false } = e := by cases e; simp

/-- What the FIFO does with a frame of the part, whole (R164). -/
theorem joinFifo_takes (s : State) (f : OutFrame) (o : f.origin = .part) : ∃ m dropped, FifoTakes s.outbox.fifo f m dropped ∧
    s.joinFifo f = { s with
      outbox := { s.outbox with fifo := m }
      line := { s.line with errors := { s.line.errors with full := s.line.errors.full || dropped } }
      consolidation := { s.consolidation with transit := s.consolidation.transit.map fun e =>
        if (dropped = true ∧ f.entry = some e.serial) then { e with unrouted := true } else e } } := by
  have drop : s.dropFrame f = { s with
      line := { s.line with errors := { s.line.errors with full := true } }
      consolidation := { s.consolidation with transit := s.consolidation.transit.map fun e =>
        if (f.entry = some e.serial) then { e with unrouted := true } else e } } := by
    unfold State.dropFrame State.reportLost State.routeLost
    rw [o]
    cases h : f.entry with
    | none => simp [State.lineError, ErrorSet.add]
    | some n =>
      simp only [State.lineError, ErrorSet.add, Option.some.injEq]
      congr 2
      apply List.map_congr_left
      intro e _
      by_cases q : e.serial = n
      · simp [q]
      · rw [if_neg q, if_neg fun z => q z.symm]
  by_cases r : s.outbox.fifo.length < 32
  · refine ⟨_, false, ⟨fun _ => ⟨rfl, rfl⟩, fun h => absurd r (by omega), fun h => absurd r (by omega)⟩, ?_⟩
    unfold State.joinFifo
    rw [if_pos r, errors_eta]
    simp
  · by_cases k : f.kind = kindIndicate ∧ ∃ y ∈ s.outbox.fifo, y.kind = kindIndicate ∧ y.dest = f.dest
    · obtain ⟨k, q⟩ := k
      obtain ⟨a, g, b, e, hg, hb⟩ : ∃ a g b, s.outbox.fifo = a ++ g :: b ∧ (g.kind = kindIndicate ∧ g.dest = f.dest) ∧
          ∀ y ∈ b, ¬(y.kind = kindIndicate ∧ y.dest = f.dest) := by
        clear r k drop
        generalize s.outbox.fifo = l at q
        induction l with
        | nil => simp at q
        | cons x xs ih =>
          by_cases c : ∃ y ∈ xs, y.kind = kindIndicate ∧ y.dest = f.dest
          · obtain ⟨a, g, b, e, r⟩ := ih c
            exact ⟨x :: a, g, b, by rw [e]; rfl, r⟩
          · obtain ⟨y, m, p⟩ := q
            rcases List.mem_cons.mp m with m | m
            · subst m; exact ⟨[], y, xs, rfl, p, fun z mz pz => c ⟨z, mz, pz⟩⟩
            · exact absurd ⟨y, m, p⟩ c
      have key := replaceLast_some (fun g => g.kind == kindIndicate && g.dest == f.dest) f a b g (by simp [hg])
        (fun y m => by have := hb y m; simpa using this)
      refine ⟨a ++ f :: b, false, ⟨fun h => absurd h r, ?_, ?_⟩, ?_⟩
      · intro _ _ a' g' b' e' k' d' h'
        have key' := replaceLast_some (fun g => g.kind == kindIndicate && g.dest == f.dest) f a' b' g' (by simp [k', d'])
          (fun y m => by have := h' y m; simpa using this)
        rw [← e, e', key'] at key
        exact ⟨by injection key with key; rw [key], rfl⟩
      · intro _ h
        rcases h with h | h
        · exact absurd k h
        · exact absurd hg (h g (by rw [e]; simp))
      · unfold State.joinFifo
        rw [if_neg r, if_pos k, e, key, errors_eta]
        simp
    · have c : f.kind ≠ kindIndicate ∨ ∀ y ∈ s.outbox.fifo, ¬(y.kind = kindIndicate ∧ y.dest = f.dest) := by
        by_cases q : f.kind = kindIndicate
        · exact .inr fun y m p => k ⟨q, y, m, p⟩
        · exact .inl q
      refine ⟨s.outbox.fifo, true, ⟨fun h => absurd h r, ?_, fun _ _ => ⟨rfl, rfl⟩⟩, ?_⟩
      · intro _ kk a g b e k' d' _
        exact absurd ⟨kk, g, by rw [e]; simp, k', d'⟩ k
      · unfold State.joinFifo
        rw [if_neg r]
        have t : s.dropFrame f = { s with
          outbox := { s.outbox with fifo := s.outbox.fifo }
          line := { s.line with errors := { s.line.errors with full := s.line.errors.full || true } }
          consolidation := { s.consolidation with transit := s.consolidation.transit.map fun e =>
            if (true = true ∧ f.entry = some e.serial) then { e with unrouted := true } else e } } := by
          rw [drop]; simp
        split
        · rename_i q
          rw [replaceLast_none]
          · exact t
          · intro y m
            rcases c with c | c
            · exact absurd q c
            · simpa using c y m
        · exact t

/-- The building of a frame that names no transit entry (R164). -/
theorem build_builds (s : State) (d k : Byte) (p : List Byte) : s.Builds d k p (s.build d k p) := by
  unfold State.Builds State.build
  obtain ⟨m, dropped, h, e⟩ := joinFifo_takes s.takeTag.2 { dest := d, kind := k, tag := s.takeTag.1, payload := p } rfl
  refine ⟨m, dropped, h, ?_⟩
  dsimp only
  rw [e]
  simp [State.takeTag]

/-- The offer of a lane (R96). -/
theorem offerLane_offers (z : State) (n : Nat) : z.Offers n (z.offerLane n) := by
  unfold State.Offers State.offerLane
  constructor
  · intro h; rw [h]
  · intro number rest o h1 h2
    rw [h1]
    have h3 : State.order { z with orderUnit := { z.orderUnit with laneWait := rest } } number = some o := h2
    simp only [State.assignLane, h3]
    rfl

end Sys2Proof.Machine
end

