-- ==== Sys2Proof/Laws/Ends.lean ====
section
/-! SUPPORT. What the end of a task, the return of work, an offer pass and the release of a claim can do, each said once. -/

namespace Sys2Proof.Machine

/-- A change of a carousel record that keeps its profile changes no bay. -/
theorem bay_modCar (s : State) (c : Nat) (f : Carousel → Carousel) (h : ∀ k, (f k).profile = k.profile) (j : BayId) :
    (s.modCar c f).bay j = s.bay j := by
  unfold State.bay State.position State.baysPerCarrier
  rw [State.car_modCar]
  have : (if c = j.carousel ∧ j.carousel < s.carousels.length then f (s.car j.carousel) else s.car j.carousel).profile = (s.car j.carousel).profile := by
    split <;> simp [h]
  rw [this]; rfl

/-- A STOP joins a FIFO with room (R164). -/
theorem sendStop_fifo (s : State) (c : Nat) (p : Profile) (h : (s.car c).profile = some p) (r : s.outbox.fifo.length < 32) :
    (s.sendStop c).outbox.fifo = s.outbox.fifo ++ [{ dest := p.drive, kind := kindStop, tag := s.outbox.tagCounter, payload := [] }] := by
  simp [State.sendStop, h, State.build, State.takeTag, State.joinFifo, r]

/-- What the end of task `id` (R124) leaves as it was. -/
structure State.Ended (s t : State) (id : Nat) : Prop where
  carousels : t.carousels = s.carousels
  balances : t.balances = s.balances
  audit : t.audit = s.audit
  power : t.power = s.power
  link : t.link = s.link
  outbox : t.outbox = s.outbox
  line : t.line = s.line
  transit : t.consolidation.transit = s.consolidation.transit
  counts : ∀ j, (t.bay j).count = (s.bay j).count
  task : t.task id = none
  articles : t.articles = s.articles
  pending : t.pending = s.pending
  others : ∀ j, j ≠ id → t.task j = s.task j

/-- A need given back changes the order unit alone and no task record. -/
theorem returnNeed_ended (s : State) (r : GroupRef) (n : Nat) :
    ∃ o, s.returnNeed r n = { s with orderUnit := o } ∧ o.pool = s.orderUnit.pool := by
  unfold State.returnNeed
  split
  · exact ⟨s.orderUnit, rfl, rfl⟩
  · split
    · exact ⟨s.orderUnit, rfl, rfl⟩
    · dsimp only
      split
      · exact ⟨_, rfl, rfl⟩
      · split
        · exact ⟨_, rfl, rfl⟩
        · unfold State.joinPending
          split
          · exact ⟨_, rfl, rfl⟩
          · exact ⟨_, rfl, rfl⟩

/-- A task that leaves its group changes the order unit alone and no task record. -/
theorem leaveGroup_ended (s : State) (i : Nat) (t : Task) :
    ∃ o, s.leaveGroup i t = { s with orderUnit := o } ∧ o.pool = s.orderUnit.pool := by
  unfold State.leaveGroup
  split
  · exact ⟨s.orderUnit, rfl, rfl⟩
  · split
    · exact ⟨s.orderUnit, rfl, rfl⟩
    · split
      · exact ⟨s.orderUnit, rfl, rfl⟩
      · obtain ⟨o, a, b⟩ := returnNeed_ended (s.modGroup t.ref fun g => { g with tasks := g.tasks.filter (· != i) }) t.ref (t.quantity - t.taken)
        exact ⟨o, by rw [a]; rfl, b⟩

/-- Transit entries given back lower what is reserved and note their freeing (R126, R130). -/
theorem giveBack_frame (s : State) (n : Nat) : ∃ x,
    s.giveBack n = { s with consolidation := { s.consolidation with reserved := x }, agenda := (s.giveBack n).agenda } := by
  unfold State.giveBack
  split
  · exact ⟨s.consolidation.reserved, rfl⟩
  · exact ⟨_, rfl⟩

/-- RESERVE-RELEASE changes one bay record and notes a retry (R10). -/
theorem reserveRelease_frame (s : State) (id : BayId) (n : Nat) :
    (∃ o, s.reserveRelease id n = { s with bays := (s.reserveRelease id n).bays, orderUnit := o } ∧ o.pool = s.orderUnit.pool) ∧
      ∀ j, ((s.reserveRelease id n).bay j).count = (s.bay j).count := by
  unfold State.reserveRelease
  split
  · exact ⟨⟨s.orderUnit, rfl, rfl⟩, fun _ => rfl⟩
  · refine ⟨⟨_, rfl, rfl⟩, fun j => ?_⟩
    exact bay_modBay_field Bay.count s id (fun b => { b with reserved := b.reserved - n }) (fun _ => rfl) j

/-- INCOMING-RELEASE changes one bay record (R9). -/
theorem incomingRelease_frame (s : State) (id : BayId) :
    (∃ o, s.incomingRelease id = { s with bays := (s.incomingRelease id).bays, orderUnit := o } ∧ o.pool = s.orderUnit.pool) ∧
      ∀ j, ((s.incomingRelease id).bay j).count = (s.bay j).count := by
  unfold State.incomingRelease
  refine ⟨⟨s.orderUnit, rfl, rfl⟩, fun j => ?_⟩
  exact bay_modBay_field Bay.count s id (fun b => { b with incoming := b.incoming - 1 }.tidy) (fun b => tidy_count _) j

/-- What the end of a task can do (R124). -/
theorem endTask_ended (s : State) (id : Nat) (b : Bool) : State.Ended s (s.endTask id b) id := by
  unfold State.endTask
  split
  · next h => exact ⟨rfl, rfl, rfl, rfl, rfl, rfl, rfl, rfl, fun _ => rfl, h, rfl, rfl, fun _ _ => rfl⟩
  · next t h =>
    dsimp only
    -- s1
    have h1 := giveBack_frame s t.transit
    obtain ⟨x, h1⟩ := h1
    generalize hs1 : s.giveBack t.transit = s1 at *
    -- s2
    generalize hs2 : (if b = true then match t.kind with
        | .pick => s1.reserveRelease t.bay (t.quantity - t.taken)
        | .put => if t.taken = 0 then s1.incomingRelease t.bay else s1
      else s1) = s2
    have h2 : (∃ o, s2 = { s1 with bays := s2.bays, orderUnit := o } ∧ o.pool = s1.orderUnit.pool) ∧ ∀ j, (s2.bay j).count = (s1.bay j).count := by
      rw [← hs2]
      split
      · split
        · exact reserveRelease_frame _ _ _
        · split
          · exact incomingRelease_frame _ _
          · exact ⟨⟨_, rfl, rfl⟩, fun _ => rfl⟩
      · exact ⟨⟨_, rfl, rfl⟩, fun _ => rfl⟩
    obtain ⟨⟨o2, h2, p2⟩, c2⟩ := h2
    suffices H : ∀ s3 : State, (∃ o, s3 = { s2 with orderUnit := o } ∧ o.pool = s2.orderUnit.pool) →
        State.Ended s ((s3.setTask id none).noteRetry .all) id by
      apply H
      split
      · exact leaveGroup_ended _ _ _
      · exact ⟨_, rfl, rfl⟩
    intro s3 h3
    obtain ⟨o3, h3, p3⟩ := h3
    have pool : s3.orderUnit.pool = s.orderUnit.pool := by
      rw [h3, p3, h2]; show o2.pool = _; rw [p2, h1]
    have tk : ∀ j, ((s3.setTask id none).noteRetry .all).task j = if id = j ∧ j < s3.orderUnit.pool.length then none else s3.task j := by
      intro j; exact State.task_setTask _ _ _ _
    have t3 : ∀ j, s3.task j = s.task j := fun j => by unfold State.task; rw [pool]
    constructor
    · show s3.carousels = _; rw [h3, h2, h1]
    · show s3.balances = _; rw [h3, h2, h1]
    · show s3.audit = _; rw [h3, h2, h1]
    · show s3.power = _; rw [h3, h2, h1]
    · show s3.link = _; rw [h3, h2, h1]
    · show s3.outbox = _; rw [h3, h2, h1]
    · show s3.line = _; rw [h3, h2, h1]
    · show s3.consolidation.transit = _; rw [h3, h2, h1]
    · intro j
      show (s3.bay j).count = _
      have : s3.bay j = s2.bay j := by rw [h3]; rfl
      rw [this, c2]
      have : s1.bay j = s.bay j := by rw [h1]; rfl
      rw [this]
    · rw [tk]
      split
      · rfl
      · next n =>
        rw [t3]
        have : ¬ id < s.orderUnit.pool.length := by rw [← pool]; simpa using n
        simp [State.task, List.getD_eq_getElem?_getD, List.getElem?_eq_none (Nat.le_of_not_lt this)]
    · show s3.articles = _; rw [h3, h2, h1]
    · show s3.pending = _; rw [h3, h2, h1]
    · intro j ne
      rw [tk, if_neg (fun e => ne e.1.symm), t3]

/-- What returnWork does. -/
theorem queue_modQueue (k : Carousel) (l : Nat) (f : List Nat → List Nat) : (k.modQueue l f).queue l = f (k.queue l) := by
  unfold Carousel.modQueue Carousel.queue
  split
  · rfl
  · split
    · rfl
    · split <;> rfl

/-- A change of a level queue changes no more of the carousel record. -/
theorem modQueue_unqueued (k : Carousel) (l : Nat) (f : List Nat → List Nat) : (k.modQueue l f).unqueued = k.unqueued := by
  unfold Carousel.modQueue
  split
  · rfl
  · split
    · rfl
    · split <;> rfl

/-- A carousel that leaves the power wait list has no entry on it. -/
theorem waits_leaveWait (s : State) (c : Nat) : (s.leaveWait c).waits c = false := by
  simp [State.waits, State.leaveWait]

/-- What the return of the work in service at carousel `c` (R65) does and leaves as it was. -/
structure State.Returned (s u : State) (c : Nat) : Prop where
  car : (u.car c).unqueued = { (s.car c).unqueued with inService := none, sweep := (u.car c).sweep }
  loads : (u.bal c).loads = (s.bal c).loads
  deviation : (u.bal c).deviation = (s.bal c).deviation
  duty : (u.bal c).duty = (s.bal c).duty
  counts : ∀ id, (u.bay id).count = (s.bay id).count
  transit : u.consolidation.transit = s.consolidation.transit
  sweep : (u.car c).sweep = if (s.car c).inService = some .step ∧ (s.sweepRecord c).stopMark then none else (s.car c).sweep
  task : ∀ id w, (s.car c).inService = some (.task id) → s.task id = some w → w.withdrawn = false → w.bay.carousel = c →
        u.task id = some { w with state := .queued, transit := 0 } ∧ (u.car c).queue w.level = id :: (s.car c).queue w.level
  gone : ∀ id w, (s.car c).inService = some (.task id) → s.task id = some w → w.withdrawn = true → u.task id = none
  waits : u.waits c = false
  claims : u.power.claims = s.power.claims ∧ u.power.budget = s.power.budget
  outbox : u.outbox = s.outbox
  link : (s.car c).inService ≠ some .step → u.link = s.link
  len : u.carousels.length = s.carousels.length
  balances : u.balances = s.balances
  line : u.line = s.line

/-- The end of a sweep changes link, carousel and sweep records (R147). -/
theorem endSweep_frame (s : State) (c : Nat) (x : SweepCause) : s.endSweep c x = { s with
    link := (s.endSweep c x).link, carousels := (s.endSweep c x).carousels, audit := (s.endSweep c x).audit } := by
  unfold State.endSweep
  split
  · rfl
  · dsimp only
    rw [notify_frame]
    rfl

/-- What the return of work can do (R65). -/
theorem returnWork_returned (s : State) (c : Nat) (len : c < s.carousels.length) : State.Returned s (s.returnWork c) c := by
  unfold State.returnWork
  dsimp only
  split
  · next h =>
    refine ⟨?_, rfl, rfl, rfl, fun _ => rfl, rfl, ?_, ?_, ?_, waits_leaveWait s c, ⟨rfl, rfl⟩, rfl, fun _ => rfl, rfl, rfl, rfl⟩
    · show (s.car c).unqueued = { (s.car c).unqueued with inService := none, sweep := (s.car c).sweep }
      rw [← h]; rfl
    · rw [if_neg (by simp [h])]; rfl
    · intro id w e; rw [h] at e; cases e
    · intro id w e; rw [h] at e; cases e
  · next h =>
    have k1 : ((s.leaveWait c).modCar c fun k => { k with inService := none }).car c = { s.car c with inService := none } := by
      rw [State.car_modCar, if_pos ⟨rfl, len⟩]; rfl
    split
    · next m =>
      generalize hs1 : ((s.leaveWait c).modCar c fun k => { k with inService := none }) = s1 at *
      have f := endSweep_frame s1 c .stopped
      have kc : ((s1.endSweep c .stopped).car c) = { s1.car c with sweep := none } := by
        unfold State.endSweep
        split
        · next e => rw [← e]
        · have l1 : c < s1.carousels.length := by rw [← hs1]; simpa [State.leaveWait] using len
          show (((s1.notify _).modCar c _).car c) = _
          rw [State.car_modCar, if_pos, notify_frame]
          · rfl
          · rw [notify_frame]; exact ⟨rfl, l1⟩
      have len2 : (s1.endSweep c .stopped).carousels.length = s1.carousels.length := by
        unfold State.endSweep
        split
        · rfl
        · show ((s1.notify _).modCar c _).carousels.length = _
          rw [notify_frame]; simp
      constructor
      · rw [kc, k1]; rfl
      · rw [f, ← hs1]; rfl
      · rw [f, ← hs1]; rfl
      · rw [f, ← hs1]; rfl
      · intro id
        have e1 : (s1.endSweep c .stopped).bays = s.bays := by rw [f, ← hs1]; rfl
        have e2 : (s1.endSweep c .stopped).baysPerCarrier id.carousel = s.baysPerCarrier id.carousel := by
          unfold State.baysPerCarrier
          have : ((s1.endSweep c .stopped).car id.carousel).profile = (s.car id.carousel).profile := by
            by_cases q : id.carousel = c
            · rw [q, kc, k1]
            · have : (s1.endSweep c .stopped).car id.carousel = s1.car id.carousel := by
                unfold State.endSweep
                split
                · rfl
                · show (((s1.notify _).modCar c _).car _) = _
                  rw [State.car_modCar, if_neg (fun e => q e.1.symm), notify_frame]; rfl
              rw [this, ← hs1, State.car_modCar, if_neg (fun e => q e.1.symm)]; rfl
          rw [this]
        unfold State.bay State.position State.baysOf
        rw [e1, e2]
      · rw [f, ← hs1]; rfl
      · rw [kc, if_pos ⟨h, m⟩]
      · intro id w e; rw [h] at e; cases e
      · intro id w e; rw [h] at e; cases e
      · have : (s1.endSweep c .stopped).waits c = (s.leaveWait c).waits c := by rw [f, ← hs1]; rfl
        rw [this]; exact waits_leaveWait s c
      · rw [f, ← hs1]; exact ⟨rfl, rfl⟩
      · rw [f, ← hs1]; rfl
      · intro n; exact absurd h n
      · rw [len2, ← hs1]; simp [State.leaveWait]
      · rw [f, ← hs1]; rfl
      · rw [f, ← hs1]; rfl
    · next m =>
      refine ⟨?_, rfl, rfl, rfl, fun _ => ?_, rfl, ?_, ?_, ?_, waits_leaveWait s c, ⟨rfl, rfl⟩, rfl, fun _ => rfl, by simp [State.leaveWait], rfl, rfl⟩
      · rw [k1]; rfl
      · rw [bay_modCar (s.leaveWait c) c (fun k => { k with inService := none }) (fun _ => rfl)]; rfl
      · rw [k1, if_neg (by simp [m])]
      · intro id w e; rw [h] at e; cases e
      · intro id w e; rw [h] at e; cases e
  · next id h =>
    have k1 : ((s.leaveWait c).modCar c fun k => { k with inService := none }).car c = { s.car c with inService := none } := by
      rw [State.car_modCar, if_pos ⟨rfl, len⟩]; rfl
    generalize hs1 : ((s.leaveWait c).modCar c fun k => { k with inService := none }) = s1 at *
    have bay1 : ∀ j, s1.bay j = s.bay j := by
      intro j
      rw [← hs1]
      exact bay_modCar (s.leaveWait c) c (fun k => { k with inService := none }) (fun _ => rfl) j
    have w1 : s1.waits c = false := by rw [← hs1]; exact waits_leaveWait s c
    have l1 : c < s1.carousels.length := by rw [← hs1]; simpa [State.leaveWait] using len
    split
    · next e0 =>
      refine ⟨by rw [k1]; rfl, by rw [← hs1]; rfl, by rw [← hs1]; rfl, by rw [← hs1]; rfl, fun j => by rw [bay1], by rw [← hs1]; rfl, ?_, ?_, ?_, w1, by rw [← hs1]; exact ⟨rfl, rfl⟩, by rw [← hs1]; rfl, fun _ => by rw [← hs1]; rfl, by rw [← hs1]; simp [State.leaveWait], by rw [← hs1]; rfl, by rw [← hs1]; rfl⟩
      · rw [k1, if_neg (by simp [h])]
      · intro id' w e e2; rw [h] at e; cases e; rw [e0] at e2; cases e2
      · intro id' w e e2; rw [h] at e; cases e; rw [e0] at e2; cases e2
    · next t e0 =>
      split
      · next wd =>
        have E := endTask_ended s1 id true
        have ec : (s1.endTask id).car c = s1.car c := by unfold State.car; rw [E.carousels]
        generalize s1.endTask id = u at *
        refine ⟨by rw [ec, k1]; rfl, ?_, ?_, ?_, fun j => by rw [E.counts, bay1], by rw [E.transit, ← hs1]; rfl, ?_, ?_, ?_, ?_, by rw [E.power, ← hs1]; exact ⟨rfl, rfl⟩, by rw [E.outbox, ← hs1]; rfl, ?_, by rw [E.carousels, ← hs1]; simp [State.leaveWait], by rw [E.balances, ← hs1]; rfl, by rw [E.line, ← hs1]; rfl⟩
        · unfold State.bal; rw [E.balances, ← hs1]; rfl
        · unfold State.bal; rw [E.balances, ← hs1]; rfl
        · unfold State.bal; rw [E.balances, ← hs1]; rfl
        · rw [ec, k1, if_neg (by simp [h])]
        · intro id' w e e2 e3; rw [h] at e; cases e; rw [e0] at e2; cases e2; rw [wd] at e3; cases e3
        · intro id' w e e2 e3; rw [h] at e; cases e; exact E.task
        · unfold State.waits at w1 ⊢; rw [E.power]; exact w1
        · intro _; rw [E.link, ← hs1]; rfl
      · next wd =>
        -- give back and join head
        have t1 : s1.task id = some t := by rw [← hs1]; exact e0
        have g : ∃ a, s1.giveBackTask id = { (s1.modTask id fun t => { t with transit := 0 }) with
            agenda := a, consolidation := { s1.consolidation with reserved := (s1.giveBackTask id).consolidation.reserved } } := by
          unfold State.giveBackTask
          rw [t1]
          dsimp only
          unfold State.giveBack
          split
          · exact ⟨_, rfl⟩
          · exact ⟨_, rfl⟩
        obtain ⟨a, g⟩ := g
        generalize hs2 : s1.giveBackTask id = s2 at *
        have t2 : s2.task id = some { t with transit := 0 } := by
          have : s2.task id = (s1.modTask id fun t => { t with transit := 0 }).task id := by rw [g]; rfl
          rw [this, State.task_modTask, if_pos rfl, t1]; rfl
        have jh : s2.joinHead id .queued = (s2.taskState id .queued).modCar t.bay.carousel fun k => k.modQueue t.level (id :: ·) := by
          unfold State.joinHead; rw [t2]
        rw [jh]
        have car2 : s2.car = s1.car := by rw [g]; rfl
        have carc : (((s2.taskState id .queued).modCar t.bay.carousel fun k => k.modQueue t.level (id :: ·)).car c)
            = if t.bay.carousel = c then (s1.car c).modQueue t.level (id :: ·) else s1.car c := by
          have l2 : c < (s2.taskState id .queued).carousels.length := by
            show c < s2.carousels.length; rw [g]; exact l1
          rw [State.car_modCar]
          show (if _ then Carousel.modQueue (s2.car c) _ _ else s2.car c) = _
          rw [car2]
          by_cases q : t.bay.carousel = c
          · rw [if_pos ⟨q, l2⟩, if_pos q]
          · rw [if_neg (fun e => q e.1), if_neg q]
        obtain ⟨fb, ft, fp, fo, fk, fl, fc⟩ : s2.balances = s.balances ∧ s2.consolidation.transit = s.consolidation.transit ∧
            (s2.power.claims = s.power.claims ∧ s2.power.budget = s.power.budget) ∧ s2.outbox = s.outbox ∧
            s2.link = s.link ∧ s2.line = s.line ∧ s2.carousels.length = s.carousels.length := by
          rw [g, ← hs1]; exact ⟨rfl, rfl, ⟨rfl, rfl⟩, rfl, rfl, rfl, by simp [State.leaveWait, State.modTask]⟩
        have fd : s2.bal c = s.bal c := by unfold State.bal; rw [fb]
        have fn : ((s2.taskState id .queued).modCar t.bay.carousel fun k => k.modQueue t.level (id :: ·)).carousels.length =
            s.carousels.length := by simp [State.taskState, State.modTask, fc]
        refine ⟨?_, congrArg Balance.loads fd, congrArg Balance.deviation fd, congrArg Balance.duty fd, ?_, ft, ?_, ?_, ?_, ?_,
          fp, fo, fun _ => fk, fn, fb, fl⟩
        · rw [carc]
          split
          · rw [modQueue_unqueued, k1]
            have : ((({ s.car c with inService := none } : Carousel).modQueue t.level (id :: ·)).sweep) = (s.car c).sweep := by
              have := congrArg Carousel.sweep (modQueue_unqueued ({ s.car c with inService := none } : Carousel) t.level (id :: ·))
              exact this
            rw [this]; rfl
          · rw [k1]; rfl
        · intro j
          have : (((s2.taskState id .queued).modCar t.bay.carousel fun k => k.modQueue t.level (id :: ·)).bay j) = s1.bay j := by
            have pr : ∀ d, (((s2.taskState id .queued).modCar t.bay.carousel fun k => k.modQueue t.level (id :: ·)).car d).profile = (s1.car d).profile := by
              intro d
              rw [State.car_modCar]
              split
              · have := congrArg Carousel.profile (modQueue_unqueued ((s2.taskState id .queued).car d) t.level (id :: ·))
                refine Eq.trans this ?_
                show (s2.car d).profile = _
                rw [car2]
              · show (s2.car d).profile = _
                rw [car2]
            unfold State.bay State.position State.baysPerCarrier
            rw [pr]
            show (s2.baysOf _).getD _ _ = _
            rw [g]; rfl
          rw [this, bay1]
        · rw [carc, if_neg (fun (x : (s.car c).inService = some .step ∧ _) => by rw [h] at x; cases x.1)]
          split
          · have := congrArg Carousel.sweep (modQueue_unqueued (s1.car c) t.level (id :: ·))
            refine Eq.trans (b := (s1.car c).sweep) this (by rw [k1])
          · rw [k1]
        · intro id' w e e2 e3 e4
          rw [h] at e; cases e
          rw [e0] at e2; cases e2
          constructor
          · show (s2.modTask id _).task id = _
            rw [State.task_modTask, if_pos rfl, t2]; rfl
          · rw [carc, if_pos e4, queue_modQueue, k1]; rfl
        · intro id' w e e2 e3; rw [h] at e; cases e; rw [e0] at e2; cases e2; exact absurd e3 wd
        · have : (((s2.taskState id .queued).modCar t.bay.carousel fun k => k.modQueue t.level (id :: ·)).waits c) = s1.waits c := by rw [g]; rfl
          rw [this]; exact w1

/-- The frame of the follow-ups keeps every profile. -/
theorem keeps_profile {p : Nat → Prop} {s t : State} (k : s.Keeps p t) (c : Nat) :
    (t.car c).profile = (s.car c).profile := by
  have h := congrArg (fun l : List Carousel => (l.getD c (Carousel.fixed {})).profile) k.carousels
  have e : ∀ (L : List Carousel), ((L.map Carousel.fixed).getD c (Carousel.fixed {})).profile = (L.getD c {}).profile := by
    intro L; rw [List.getD_map]; rfl
  simp only [e] at h
  exact h

/-- It keeps the number of carousels. -/
theorem keeps_len {p : Nat → Prop} {s t : State} (k : s.Keeps p t) : t.carousels.length = s.carousels.length := by
  have h := congrArg List.length k.carousels
  simpa using h

/-- It keeps every bay record but for what is reserved. -/
theorem keeps_bay {p : Nat → Prop} {s t : State} (k : s.Keeps p t) (id : BayId) : (t.bay id).shelf = (s.bay id).shelf := by
  have q : t.position id = s.position id := by
    unfold State.position State.baysPerCarrier
    rw [keeps_profile k]
  have h := congrArg (fun l : List (List Bay) => (l.getD id.carousel []).getD (s.position id) (Bay.shelf {})) k.bays
  unfold State.bay
  rw [q]
  unfold State.baysOf
  have e : ∀ (L : List (List Bay)) (n m : Nat), ((L.map (List.map Bay.shelf)).getD n []).getD m (Bay.shelf {}) = ((L.getD n []).getD m {}).shelf := by
    intro L n m
    rw [show ([] : List Bay) = List.map Bay.shelf [] from rfl, List.getD_map, List.getD_map]
    rfl
  rw [e, e] at h
  exact h

/-- One offer changes only the carousel it is made to (R36). -/
theorem offerEntry_keeps (p : Nat → Prop) (s : State) (e : WaitEntry) (i : ¬p e.carousel) : s.Keeps p (s.offerEntry e) := by
  unfold State.offerEntry
  split
  · exact State.Keeps.refl p s
  · split
    · split
      · next h => exact (s.keeps_startMove p _ _ _ i _ h).trans (State.keeps_waits p _ _ _)
      · exact State.Keeps.refl p s
    · exact State.Keeps.refl p s

/-- A move start adds its claim alone (R61). -/
theorem startMove_power (s t : State) (c l n : Nat) (h : s.startMove c l n = some t) :
    t.power.waitList = s.power.waitList ∧ (∀ x ∈ t.power.claims, x ∈ s.power.claims ∨ x.carousel = c) ∧ t.audit = s.audit ∧ ∀ d, d ≠ c → t.car d = s.car d := by
  unfold State.startMove at h
  split at h
  · dsimp only at h
    split at h
    all_goals
      cases h
      refine ⟨rfl, ?_, rfl, fun d n => State.car_modCar _ _ _ _ |>.trans (if_neg fun e => n e.1.symm)⟩
      intro x hx
      rcases List.mem_append.1 hx with h | h
      · exact .inl h
      · rw [List.mem_singleton] at h; subst h; exact .inr rfl
  · cases h

/-- One offer adds a claim at most and takes the carousel's entry off the list (R36). -/
theorem offerEntry_power (s : State) (e : WaitEntry) :
    (∀ x ∈ (s.offerEntry e).power.waitList, x ∈ s.power.waitList) ∧
    (∀ x ∈ (s.offerEntry e).power.claims, x ∈ s.power.claims ∨ x.carousel = e.carousel) ∧ (s.offerEntry e).audit = s.audit ∧
    ∀ d, d ≠ e.carousel → (s.offerEntry e).car d = s.car d := by
  unfold State.offerEntry
  split
  · exact ⟨fun _ h => h, fun _ h => .inl h, rfl, fun _ _ => rfl⟩
  · split
    · split
      · next h =>
        have := startMove_power _ _ _ _ _ h
        refine ⟨fun x hx => ?_, this.2.1, this.2.2.1, this.2.2.2⟩
        have := (List.mem_filter.1 hx).1
        rw [(startMove_power _ _ _ _ _ h).1] at this
        exact this
      · exact ⟨fun _ h => h, fun _ h => .inl h, rfl, fun _ _ => rfl⟩
    · exact ⟨fun _ h => h, fun _ h => .inl h, rfl, fun _ _ => rfl⟩

/-- The offers of a pass, in turn. -/
theorem offerFold (p : Nat → Prop) (l : List WaitEntry) (s : State) (i : ∀ e ∈ l, ¬p e.carousel) :
    s.Keeps p (l.foldl State.offerEntry s) ∧ (∀ x ∈ (l.foldl State.offerEntry s).power.waitList, x ∈ s.power.waitList) ∧
    (∀ x ∈ (l.foldl State.offerEntry s).power.claims, x ∈ s.power.claims ∨ ¬p x.carousel) ∧ (l.foldl State.offerEntry s).audit = s.audit ∧
    ∀ d, p d → (l.foldl State.offerEntry s).car d = s.car d := by
  induction l generalizing s with
  | nil => exact ⟨State.Keeps.refl p s, fun _ h => h, fun _ h => .inl h, rfl, fun _ _ => rfl⟩
  | cons e l ih =>
    have a := offerEntry_keeps p s e (i e (by simp))
    have b := offerEntry_power s e
    obtain ⟨x, y, z, au, ca⟩ := ih (s.offerEntry e) (fun e h => i e (by simp [h]))
    refine ⟨a.trans x, fun w h => b.1 w (y w h), fun w h => ?_, au.trans b.2.2.1, fun d h => (ca d h).trans (b.2.2.2 d fun q => i e (by simp) (q ▸ h))⟩
    rcases z w h with h | h
    · rcases b.2.1 w h with h | h
      · exact .inl h
      · rw [h]; exact .inr (i e (by simp))
    · exact .inr h

/-- What an offer pass can do (R36). -/
theorem offerPass_spec (s : State) : s.Keeps (fun d => s.waits d = false) s.offerPass ∧
    (∀ x ∈ s.offerPass.power.waitList, x ∈ s.power.waitList) ∧
    (∀ x ∈ s.offerPass.power.claims, x ∈ s.power.claims ∨ s.waits x.carousel = true) ∧ s.offerPass.audit = s.audit ∧
    ∀ d, s.waits d = false → s.offerPass.car d = s.car d := by
  have := offerFold (fun d => s.waits d = false) s.power.waitList s (fun e h => by
    simp only [State.waits, Bool.not_eq_false]
    exact List.any_eq_true.2 ⟨e, h, by simp⟩)
  refine ⟨this.1, this.2.1, fun x h => ?_, this.2.2.2.1, this.2.2.2.2⟩
  rcases this.2.2.1 x h with h | h
  · exact .inl h
  · exact .inr (by simpa using h)

/-- What the release of the claim of carousel `c` (R37), with its offer pass, leaves as it was. -/
structure State.Released (s u : State) (c : Nat) : Prop where
  len : u.carousels.length = s.carousels.length
  balances : u.balances = s.balances
  bays : ∀ id, (u.bay id).shelf = (s.bay id).shelf
  transit : u.consolidation.transit = s.consolidation.transit
  audit : u.audit = s.audit
  link : u.link = s.link
  articles : u.articles = s.articles
  car : s.waits c = false → u.car c = s.car c
  claim : s.waits c = false → u.hasClaim c = false
  waits : s.waits c = false → u.waits c = false
  tasks : ∀ id k, s.task id = some k → ∃ st n, u.task id = some { k with state := st, transit := n }

/-- What the release of a claim can do (R37). -/
theorem releaseClaim_spec (s : State) (c : Nat) : State.Released s (s.releaseClaim c) c := by
  unfold State.releaseClaim
  split
  · obtain ⟨k, w, cl, au, ca⟩ := offerPass_spec { s with power := s.power.dropClaim c }
    have kb := keeps_bay k
    have kl := keeps_len k
    refine ⟨kl, k.balances, kb, k.transit, au, k.link, k.articles, fun h => ca c h, fun h => ?_, fun h => ?_, k.tasks⟩
    · have wc : ({ s with power := s.power.dropClaim c } : State).waits c = false := h
      unfold State.hasClaim
      rw [List.any_eq_false]
      intro x hx
      rcases cl x hx with h1 | h1
      · simpa using (List.mem_filter.1 h1).2
      · intro e
        have : x.carousel = c := by simpa using e
        rw [this, wc] at h1; cases h1
    · unfold State.waits at h ⊢
      rw [List.any_eq_false] at h ⊢
      exact fun x hx => h x (w x hx)
  · next n =>
    exact ⟨rfl, rfl, fun _ => rfl, rfl, rfl, rfl, rfl, fun _ => rfl, fun h => by simpa using n, fun h => h, fun id k h => ⟨k.state, k.transit, h⟩⟩

end Sys2Proof.Machine
end

