-- ==== Sys2Proof/Laws/Orders.lean ====
section
/-! SUPPORT. What the order unit's and the outbox's small operations can do, each said once: the place an item takes by
its key, a free order of a list, a change of an order or a group read back, a frame built, an entry filled or removed. -/

namespace Sys2Proof.Machine

/-! ## Lists by key (R95, R105) -/

theorem keyBefore_trans : ∀ a b c : List Nat, keyBefore a b = true → keyBefore b c = true → keyBefore a c = true
  | [], [], _, h, _ => by simp [keyBefore] at h
  | [], _ :: _, [], _, h => by simp [keyBefore] at h
  | [], _ :: _, _ :: _, _, _ => by simp [keyBefore]
  | _ :: _, [], _, h, _ => by simp [keyBefore] at h
  | _ :: _, _ :: _, [], _, h => by simp [keyBefore] at h
  | x :: a, y :: b, z :: c, h1, h2 => by
    simp only [keyBefore, Bool.or_eq_true, Bool.and_eq_true, decide_eq_true_eq] at *
    rcases h1 with h1 | ⟨rfl, h1⟩
    · rcases h2 with h2 | ⟨rfl, h2⟩
      · exact .inl (by omega)
      · exact .inl h1
    · rcases h2 with h2 | ⟨rfl, h2⟩
      · exact .inl h2
      · exact .inr ⟨rfl, keyBefore_trans a b c h1 h2⟩

theorem keyBefore_asymm : ∀ a b : List Nat, keyBefore a b = true → keyBefore b a = false
  | [], [], h => by simp [keyBefore] at h
  | [], _ :: _, _ => by simp [keyBefore]
  | _ :: _, [], h => by simp [keyBefore] at h
  | x :: a, y :: b, h1 => by
    simp only [keyBefore, Bool.or_eq_true, Bool.and_eq_true, decide_eq_true_eq] at h1
    rcases h1 with h1 | ⟨rfl, h1⟩
    · simp only [keyBefore, Bool.or_eq_false_iff, Bool.and_eq_false_iff, decide_eq_false_iff_not]
      exact ⟨by omega, .inl (by omega)⟩
    · simp [keyBefore, keyBefore_asymm a b h1]

theorem insertByKey_mem {α : Type} (key : α → List Nat) (x : α) (l : List α) :
    ∀ y, y ∈ insertByKey key x l ↔ y ∈ l ∨ y = x := by
  induction l with
  | nil => intro y; simp [insertByKey]
  | cons a l ih =>
    intro y; unfold insertByKey
    split
    · simp only [List.mem_cons]; tauto
    · simp only [List.mem_cons, ih]; tauto

/-- A list in the order of its keys stays so when an item joins it. -/
theorem insertByKey_sorted {α : Type} (key : α → List Nat) (x : α) (l : List α)
    (h : l.Pairwise fun a b => keyBefore (key b) (key a) = false) :
    (insertByKey key x l).Pairwise fun a b => keyBefore (key b) (key a) = false := by
  induction l with
  | nil => simp [insertByKey]
  | cons a l ih =>
    rw [List.pairwise_cons] at h
    unfold insertByKey
    split
    · next e =>
      rw [List.pairwise_cons]
      refine ⟨?_, List.pairwise_cons.2 h⟩
      intro b hb
      rcases List.mem_cons.1 hb with rfl | hb
      · exact keyBefore_asymm _ _ e
      · by_contra q
        rw [Bool.not_eq_false] at q
        have := keyBefore_trans _ _ _ q e
        rw [h.1 b hb] at this; cases this
    · next e =>
      rw [List.pairwise_cons]
      refine ⟨?_, ih h.2⟩
      intro b hb
      rw [insertByKey_mem] at hb
      rcases hb with hb | rfl
      · exact h.1 b hb
      · simpa using e

/-- A joining item stands after those its key is not before, and before the first that it is before. -/
theorem insertByKey_split {α : Type} (key : α → List Nat) (x : α) (l : List α) :
    ∃ before after, l = before ++ after ∧
    insertByKey key x l = before ++ x :: after ∧ (∀ m ∈ before, keyBefore (key x) (key m) = false) ∧
    ∀ m, after.head? = some m → keyBefore (key x) (key m) = true := by
  induction l with
  | nil => exact ⟨[], [], rfl, rfl, by simp, by simp⟩
  | cons a l ih =>
    unfold insertByKey
    split
    · next e => exact ⟨[], a :: l, rfl, rfl, by simp, by simpa using e⟩
    · next e =>
      obtain ⟨b, c, h1, h2, h3, h4⟩ := ih
      refine ⟨a :: b, c, by rw [h1]; rfl, by rw [h2]; rfl, ?_, h4⟩
      intro m hm
      rcases List.mem_cons.1 hm with rfl | hm
      · simpa using e
      · exact h3 m hm

/-! ## A free order (log 6) -/

theorem permute_perm {α : Type} (l : List α) : ∀ code, (permute code l).Perm l := by
  induction l with
  | nil => intro c; unfold permute; exact List.Perm.refl _
  | cons x xs ih =>
    intro c
    unfold permute
    have hl : (permute (c / (xs.length + 1)) xs).length = xs.length := (ih _).length_eq
    refine (List.perm_insertIdx _ _ ?_).trans ((ih _).cons x)
    rw [hl]; exact Nat.le_of_lt_succ (Nat.mod_lt _ (by omega))

/-- A list put in an order left free: the same items, one free value drawn at most. -/
theorem arrange_perm (s : State) (l : List Nat) :
    (s.arrange l).1.Perm l ∧ ∃ n, (s.arrange l).2 = { s with choices := n } := by
  unfold State.arrange
  split
  · exact ⟨List.Perm.refl _, s.choices, rfl⟩
  · exact ⟨permute_perm _ _, _, rfl⟩

/-! ## Orders and groups read back -/

theorem order_modOrder (s : State) (n : Nat) (f : Order → Order) (h : ∀ o, (f o).number = o.number) :
    (s.modOrder n f).order n = (s.order n).map f := by
  unfold State.order
  simp only [State.modOrder_orderUnit]
  induction s.orderUnit.orders with
  | nil => rfl
  | cons o l ih =>
    rw [List.map_cons, List.find?_cons, List.find?_cons]
    by_cases e : o.number = n
    · simp [e, h]
    · have e' : (o.number == n) = false := by simpa using e
      simp only [if_neg e, e']
      exact ih

theorem group_modGroup (s : State) (r : GroupRef) (f : Group → Group) (h : ∀ g, (f g).number = g.number) :
    (s.modGroup r f).group r = (s.group r).map f := by
  unfold State.group State.modGroup
  rw [order_modOrder]
  swap
  · intro o; rfl
  cases s.order r.order with
  | none => rfl
  | some o =>
    show (Order.group _ _ _) = _
    unfold Order.group
    dsimp only
    rw [List.getElem?_modify]
    cases o.lines[r.line]? with
    | none => rfl
    | some l =>
      simp only [if_true]
      show (l.groups.map fun g => if g.number = r.group then f g else g).find? (fun g => g.number == r.group) =
        (l.groups.find? fun g => g.number == r.group).map f
      induction l.groups with
      | nil => simp
      | cons g gs ih =>
        simp only [List.map_cons, List.find?_cons]
        by_cases e : g.number = r.group
        · simp [e, h]
        · have e' : (g.number == r.group) = false := by simpa using e
          simp only [if_neg e, e']
          exact ih

/-! ## Frames and entries -/

/-- A frame built with its entry joins the FIFO as R164 says; dropped, its entry is UNROUTED (R132). -/
theorem build_takes (s : State) (d k : Byte) (p : List Byte) (entry : Option Nat) : ∃ m dropped,
    FifoTakes s.outbox.fifo { dest := d, kind := k, tag := s.outbox.tagCounter, payload := p, entry } m dropped ∧
    s.build d k p entry = { s with
      outbox := { s.outbox with tagCounter := s.outbox.tagCounter + 1, fifo := m }
      line := { s.line with errors := { s.line.errors with full := s.line.errors.full || dropped } }
      consolidation := { s.consolidation with transit := s.consolidation.transit.map fun e =>
        if (dropped = true ∧ entry = some e.serial) then { e with unrouted := true } else e } } := by
  unfold State.build
  obtain ⟨m, dropped, h, e⟩ := joinFifo_takes s.takeTag.2
    { dest := d, kind := k, tag := s.takeTag.1, payload := p, entry } rfl
  refine ⟨m, dropped, h, ?_⟩
  dsimp only
  rw [e]
  rfl

/-- The INDICATE of a task presented (R84, R112). -/
theorem indicateTask_build (s : State) (c : Nat) (k : Task) (p : Profile) (hp : (s.car c).profile = some p) :
    let article := match k.kind with
      | .put => k.tyre.map Tyre.article
      | .pick => (s.bay k.bay).tyre.map Tyre.article
    let width := (article.map s.widthClass).getD 0
    s.indicateTask c k = s.build p.reader kindIndicate (match k.kind with
      | .put => [byte k.bay.bay, 1, 1, byte width]
      | .pick => [byte k.bay.bay, 0, byte (k.quantity - k.taken), byte width]) := by
  unfold State.indicateTask State.indicate
  rw [hp]
  cases k.kind
  · cases h : (s.bay k.bay).tyre <;> rfl
  · cases h : k.tyre <;> rfl

/-- Entries in use below 64 leave a place free (R130). -/
theorem freePlaces_nonempty (s : State) (h : s.consolidation.transit.length < 64) : s.freePlaces.isEmpty = false := by
  by_contra q
  rw [Bool.not_eq_false, List.isEmpty_iff] at q
  unfold State.freePlaces at q
  rw [List.filter_eq_nil_iff] at q
  have sub : List.range 64 ⊆ s.consolidation.transit.map TransitEntry.place := by
    intro p hp
    have := q p hp
    simp only [Bool.not_eq_true', Bool.not_eq_false, List.any_eq_true, beq_iff_eq] at this
    obtain ⟨e, he, e2⟩ := this
    exact List.mem_map.2 ⟨e, he, e2⟩
  have := (List.nodup_range.subperm sub).length_le
  simp at this
  omega

/-- An entry filled (R131). -/
theorem fillEntry_filled (s : State) (group : GroupRef) (tyre : Tyre) (lane : Nat) (source : ConveyorSource)
    (deadline : Nat) (h : s.consolidation.transit.length < 64) :
    ∃ place, place < 64 ∧ (∀ x ∈ s.consolidation.transit, x.place ≠ place) ∧
    s.fillEntry group tyre lane source deadline = ({ s with
      choices := s.choices + 1
      consolidation := { s.consolidation with
        transit := s.consolidation.transit ++
          [{ place, serial := s.consolidation.nextSerial, group, tyre, lane, source, deadline }]
        reserved := s.consolidation.reserved - 1
        nextSerial := s.consolidation.nextSerial + 1 } }, s.consolidation.nextSerial) := by
  have ne := freePlaces_nonempty s h
  refine ⟨s.freePlaces.getD (Config.placeChoice s.choices % s.freePlaces.length) 0, ?_, ?_, ?_⟩
  · have mem : s.freePlaces.getD (Config.placeChoice s.choices % s.freePlaces.length) 0 ∈ s.freePlaces := by
      have : 0 < s.freePlaces.length := by
        cases q : s.freePlaces with
        | nil => rw [q] at ne; cases ne
        | cons => simp
      rw [List.getD_eq_getElem _ _ (Nat.mod_lt _ this)]
      exact List.getElem_mem _
    unfold State.freePlaces at mem
    exact List.mem_range.mp (List.mem_filter.mp mem).1
  · have mem : s.freePlaces.getD (Config.placeChoice s.choices % s.freePlaces.length) 0 ∈ s.freePlaces := by
      have : 0 < s.freePlaces.length := by
        cases q : s.freePlaces with
        | nil => rw [q] at ne; cases ne
        | cons => simp
      rw [List.getD_eq_getElem _ _ (Nat.mod_lt _ this)]
      exact List.getElem_mem _
    intro x hx e
    have := (List.mem_filter.mp mem).2
    simp only [Bool.not_eq_true', List.any_eq_false, beq_iff_eq] at this
    exact this x hx e
  · unfold State.fillEntry
    simp only [ne, Bool.false_eq_true, if_false]

/-- Entries removed: the list filtered, the freed ones reported (R130). -/
theorem removeEntries_eq (s : State) (p : TransitEntry → Bool) :
    s.removeEntries p = { s with
      consolidation := { s.consolidation with transit := s.consolidation.transit.filter fun e => !p e }
      agenda := { s.agenda with freed := s.agenda.freed || s.consolidation.transit.any p } } := by
  unfold State.removeEntries
  split
  · next h => rw [h]; simp [State.noteFreed]
  · next h =>
    have h : s.consolidation.transit.any p = false := by simpa using h
    have f : s.consolidation.transit.filter (fun e => !p e) = s.consolidation.transit := by
      rw [List.filter_eq_self]; intro a ha
      have := (List.any_eq_false.1 h) a ha
      simpa using this
    rw [f, h]; simp

end Sys2Proof.Machine
end

