-- ==== Sys2Proof/WellFormed.lean ====
section
/-! DEFINITION. Which commands name something the part has: a carousel 0-7, a task 0-127, a transit place 0-63. -/

namespace Sys2Proof

/-- A command is well formed when each of its operands names a unit of the part: carousels are numbered 0-7
(00 Scope), task ids are 0-127 (R54) and transit places 0-63 (R130). -/
def Instr.wellFormed : Instr → Bool
  | .moveTimerExpiry c | .presentationTimerExpiry c | .dutyTimerExpiry c | .readTimerExpiry c => decide (c < 8)
  | .ageTimerExpiry t => decide (t < 128)
  | .transitDeadlineExpiry p => decide (p < 64)
  | .powerOnReset _ _ _ | .linkBreak | .linkFrameReceived _ | .lineFrameReceived _ | .receptionBreakOff _
  | .lineHoldSensed | .lineHoldCleared | .classifyFrame | .infeedRead | .passthrough | .transmitStart
  | .transmitEnd | .replyWindowExpiry | .linkFrameSent | .linkProfile | .lineProfile | .portResetLine
  | .portResetLink | .portClear | .storeReset | .tableLoadArticle | .tableLoadCarousel | .tableLoadGrade
  | .tableLoadStock | .tableLoadFilter | .tableLoadSite | .tableFetch | .statusFetch | .carouselModeOnline
  | .carouselModeOffline | .carouselModeManual | .gradeCap | .powerBudget | .lineHold | .lineRelease
  | .orderPlace | .orderWithdraw | .laneRelease | .holdRangeSet | .holdRangeClear | .baySeize | .bayUnseize
  | .auditStart | .auditStop | .discrepancyResolveAcceptFound | .discrepancyResolveKeepRecorded
  | .discrepancyResolveSet | .taskRepresent | .taskAbandon | .badFormatRequest | .linkPairReturnsToIdle => true

end Sys2Proof
end

