-- ==== Sys2Proof/Laws/PerInstr.lean ====
section
/-! SUPPORT. What well-formedness says of each command, one lemma per constructor: a timer's command names a unit the
part has (00 Scope, R54, R130), and every other command is well formed whatever its operands. -/

namespace Sys2Proof.Laws

/-- The number of the unit whose timer the command reports, and how many such units the part has. -/
def unitOf : Instr → Option (Nat × Nat)
  | .moveTimerExpiry c | .presentationTimerExpiry c | .dutyTimerExpiry c | .readTimerExpiry c => some (c, 8)
  | .ageTimerExpiry t => some (t, 128)
  | .transitDeadlineExpiry p => some (p, 64)
  | .powerOnReset _ _ _ | .linkBreak | .linkFrameReceived _ | .lineFrameReceived _ | .receptionBreakOff _
  | .lineHoldSensed | .lineHoldCleared | .classifyFrame | .infeedRead | .passthrough | .transmitStart
  | .transmitEnd | .replyWindowExpiry | .linkFrameSent | .linkProfile | .lineProfile | .portResetLine
  | .portResetLink | .portClear | .storeReset | .tableLoadArticle | .tableLoadCarousel | .tableLoadGrade
  | .tableLoadStock | .tableLoadFilter | .tableLoadSite | .tableFetch | .statusFetch | .carouselModeOnline
  | .carouselModeOffline | .carouselModeManual | .gradeCap | .powerBudget | .lineHold | .lineRelease
  | .orderPlace | .orderWithdraw | .laneRelease | .holdRangeSet | .holdRangeClear | .baySeize | .bayUnseize
  | .auditStart | .auditStop | .discrepancyResolveAcceptFound | .discrepancyResolveKeepRecorded
  | .discrepancyResolveSet | .taskRepresent | .taskAbandon | .badFormatRequest | .linkPairReturnsToIdle => none

/-- A command is well formed exactly when the unit it names, if it names one, is one the part has. -/
def Units.Statement (i : Instr) : Prop :=
  i.wellFormed = true ↔ match unitOf i with | some (n, units) => n < units | none => True

theorem Units.powerOnReset (station : Byte) (linkRate lineRate : BitVec 2) :
    Units.Statement (.powerOnReset station linkRate lineRate) :=
  ⟨fun _ => trivial, fun _ => rfl⟩

theorem Units.linkBreak : Units.Statement .linkBreak :=
  ⟨fun _ => trivial, fun _ => rfl⟩

theorem Units.linkFrameReceived (bytes : List Byte) : Units.Statement (.linkFrameReceived bytes) :=
  ⟨fun _ => trivial, fun _ => rfl⟩

theorem Units.lineFrameReceived (bytes : List Byte) : Units.Statement (.lineFrameReceived bytes) :=
  ⟨fun _ => trivial, fun _ => rfl⟩

theorem Units.receptionBreakOff (port : Port) : Units.Statement (.receptionBreakOff port) :=
  ⟨fun _ => trivial, fun _ => rfl⟩

theorem Units.lineHoldSensed : Units.Statement .lineHoldSensed :=
  ⟨fun _ => trivial, fun _ => rfl⟩

theorem Units.lineHoldCleared : Units.Statement .lineHoldCleared :=
  ⟨fun _ => trivial, fun _ => rfl⟩

theorem Units.classifyFrame : Units.Statement .classifyFrame :=
  ⟨fun _ => trivial, fun _ => rfl⟩

theorem Units.infeedRead : Units.Statement .infeedRead :=
  ⟨fun _ => trivial, fun _ => rfl⟩

theorem Units.passthrough : Units.Statement .passthrough :=
  ⟨fun _ => trivial, fun _ => rfl⟩

theorem Units.transmitStart : Units.Statement .transmitStart :=
  ⟨fun _ => trivial, fun _ => rfl⟩

theorem Units.transmitEnd : Units.Statement .transmitEnd :=
  ⟨fun _ => trivial, fun _ => rfl⟩

theorem Units.replyWindowExpiry : Units.Statement .replyWindowExpiry :=
  ⟨fun _ => trivial, fun _ => rfl⟩

theorem Units.linkFrameSent : Units.Statement .linkFrameSent :=
  ⟨fun _ => trivial, fun _ => rfl⟩

theorem Units.moveTimerExpiry (carousel : Nat) : Units.Statement (.moveTimerExpiry carousel) :=
  decide_eq_true_iff

theorem Units.presentationTimerExpiry (carousel : Nat) : Units.Statement (.presentationTimerExpiry carousel) :=
  decide_eq_true_iff

theorem Units.ageTimerExpiry (task : Nat) : Units.Statement (.ageTimerExpiry task) :=
  decide_eq_true_iff

theorem Units.dutyTimerExpiry (carousel : Nat) : Units.Statement (.dutyTimerExpiry carousel) :=
  decide_eq_true_iff

theorem Units.readTimerExpiry (carousel : Nat) : Units.Statement (.readTimerExpiry carousel) :=
  decide_eq_true_iff

theorem Units.transitDeadlineExpiry (place : Nat) : Units.Statement (.transitDeadlineExpiry place) :=
  decide_eq_true_iff

theorem Units.linkProfile : Units.Statement .linkProfile :=
  ⟨fun _ => trivial, fun _ => rfl⟩

theorem Units.lineProfile : Units.Statement .lineProfile :=
  ⟨fun _ => trivial, fun _ => rfl⟩

theorem Units.portResetLine : Units.Statement .portResetLine :=
  ⟨fun _ => trivial, fun _ => rfl⟩

theorem Units.portResetLink : Units.Statement .portResetLink :=
  ⟨fun _ => trivial, fun _ => rfl⟩

theorem Units.portClear : Units.Statement .portClear :=
  ⟨fun _ => trivial, fun _ => rfl⟩

theorem Units.storeReset : Units.Statement .storeReset :=
  ⟨fun _ => trivial, fun _ => rfl⟩

theorem Units.tableLoadArticle : Units.Statement .tableLoadArticle :=
  ⟨fun _ => trivial, fun _ => rfl⟩

theorem Units.tableLoadCarousel : Units.Statement .tableLoadCarousel :=
  ⟨fun _ => trivial, fun _ => rfl⟩

theorem Units.tableLoadGrade : Units.Statement .tableLoadGrade :=
  ⟨fun _ => trivial, fun _ => rfl⟩

theorem Units.tableLoadStock : Units.Statement .tableLoadStock :=
  ⟨fun _ => trivial, fun _ => rfl⟩

theorem Units.tableLoadFilter : Units.Statement .tableLoadFilter :=
  ⟨fun _ => trivial, fun _ => rfl⟩

theorem Units.tableLoadSite : Units.Statement .tableLoadSite :=
  ⟨fun _ => trivial, fun _ => rfl⟩

theorem Units.tableFetch : Units.Statement .tableFetch :=
  ⟨fun _ => trivial, fun _ => rfl⟩

theorem Units.statusFetch : Units.Statement .statusFetch :=
  ⟨fun _ => trivial, fun _ => rfl⟩

theorem Units.carouselModeOnline : Units.Statement .carouselModeOnline :=
  ⟨fun _ => trivial, fun _ => rfl⟩

theorem Units.carouselModeOffline : Units.Statement .carouselModeOffline :=
  ⟨fun _ => trivial, fun _ => rfl⟩

theorem Units.carouselModeManual : Units.Statement .carouselModeManual :=
  ⟨fun _ => trivial, fun _ => rfl⟩

theorem Units.gradeCap : Units.Statement .gradeCap :=
  ⟨fun _ => trivial, fun _ => rfl⟩

theorem Units.powerBudget : Units.Statement .powerBudget :=
  ⟨fun _ => trivial, fun _ => rfl⟩

theorem Units.lineHold : Units.Statement .lineHold :=
  ⟨fun _ => trivial, fun _ => rfl⟩

theorem Units.lineRelease : Units.Statement .lineRelease :=
  ⟨fun _ => trivial, fun _ => rfl⟩

theorem Units.orderPlace : Units.Statement .orderPlace :=
  ⟨fun _ => trivial, fun _ => rfl⟩

theorem Units.orderWithdraw : Units.Statement .orderWithdraw :=
  ⟨fun _ => trivial, fun _ => rfl⟩

theorem Units.laneRelease : Units.Statement .laneRelease :=
  ⟨fun _ => trivial, fun _ => rfl⟩

theorem Units.holdRangeSet : Units.Statement .holdRangeSet :=
  ⟨fun _ => trivial, fun _ => rfl⟩

theorem Units.holdRangeClear : Units.Statement .holdRangeClear :=
  ⟨fun _ => trivial, fun _ => rfl⟩

theorem Units.baySeize : Units.Statement .baySeize :=
  ⟨fun _ => trivial, fun _ => rfl⟩

theorem Units.bayUnseize : Units.Statement .bayUnseize :=
  ⟨fun _ => trivial, fun _ => rfl⟩

theorem Units.auditStart : Units.Statement .auditStart :=
  ⟨fun _ => trivial, fun _ => rfl⟩

theorem Units.auditStop : Units.Statement .auditStop :=
  ⟨fun _ => trivial, fun _ => rfl⟩

theorem Units.discrepancyResolveAcceptFound : Units.Statement .discrepancyResolveAcceptFound :=
  ⟨fun _ => trivial, fun _ => rfl⟩

theorem Units.discrepancyResolveKeepRecorded : Units.Statement .discrepancyResolveKeepRecorded :=
  ⟨fun _ => trivial, fun _ => rfl⟩

theorem Units.discrepancyResolveSet : Units.Statement .discrepancyResolveSet :=
  ⟨fun _ => trivial, fun _ => rfl⟩

theorem Units.taskRepresent : Units.Statement .taskRepresent :=
  ⟨fun _ => trivial, fun _ => rfl⟩

theorem Units.taskAbandon : Units.Statement .taskAbandon :=
  ⟨fun _ => trivial, fun _ => rfl⟩

theorem Units.badFormatRequest : Units.Statement .badFormatRequest :=
  ⟨fun _ => trivial, fun _ => rfl⟩

theorem Units.linkPairReturnsToIdle : Units.Statement .linkPairReturnsToIdle :=
  ⟨fun _ => trivial, fun _ => rfl⟩

end Sys2Proof.Laws
end

