-- ==== Sys2Proof/Tests/Slice0.lean ====
section
/-! SUPPORT. Smoke tests: ill-formed commands, the spec's worked examples, and for each statement of Obligations.lean a
state and operands that meet its hypotheses, clause by clause. -/

namespace Sys2Proof.Tests
open Sys2Proof Sys2Proof.Machine

set_option Elab.async false

/-! ## Well-formedness -/

theorem test_wellFormed_move : Instr.wellFormed (.moveTimerExpiry 7) = true ∧ Instr.wellFormed (.moveTimerExpiry 8) = false := by
  decide
theorem test_wellFormed_presentation : Instr.wellFormed (.presentationTimerExpiry 8) = false := by decide
theorem test_wellFormed_duty : Instr.wellFormed (.dutyTimerExpiry 8) = false := by decide
theorem test_wellFormed_read : Instr.wellFormed (.readTimerExpiry 8) = false := by decide
theorem test_wellFormed_age : Instr.wellFormed (.ageTimerExpiry 127) = true ∧ Instr.wellFormed (.ageTimerExpiry 128) = false := by
  decide
theorem test_wellFormed_transit :
    Instr.wellFormed (.transitDeadlineExpiry 63) = true ∧ Instr.wellFormed (.transitDeadlineExpiry 64) = false := by
  decide

/-! ## A small part to test on -/

/-- A profile within Table 3-2: 8 carriers of 2 bays. -/
def profile0 : Profile where
  carriers := 8
  bays := 2
  tare := 100
  ceiling := 30000
  feed := 800
  drive := 50
  reader := 40
  keypad := 60
  moveFixed := 500
  movePerCarrier := 100
  warm := 10
  hot := 20
  warmGrade := 0
  tolerance := 100
  policy := .report

/-- A grade that admits every small state. -/
def grade0 : Grade :=
  { loaded := true, imbalance := 2000000, total := 2000000, power := 100, speed := 5, enabled := true }

/-- A site record within Table 4-1 with two lanes. -/
def site0 : Site where
  infeed := 5
  diverter := 200
  overflow := 9
  laneReaders := [101, 102]
  putAge := 120
  presentation := 90
  transit := 60
  carrierRead := 5

/-- An article within Table 1-2 that may stand on carousel 0. -/
def article0 : Article :=
  { code := 7, weight := 80, stackLimit := 4, tolerance := 3, zone := 1, width := 2 }

/-- The tyre of that article. -/
def tyre0 : Tyre :=
  { article := 7, batch := 2301 }

/-- A part with both ports ACTIVE, the pair clear, a site, an article and carousel 0 as given. -/
def part (k : Carousel) : State :=
  let s := State.powerOn 30 0 0
  { s with
    link := { s.link with profile := some { station := 30, maxPayload := 496, enable := 0x3FFFF, host := 1 } }
    line := { s.line with
      profile := some { station := 2, replyWindow := 20, repeatLimit := 2, maxPayload := 256, rule := .forward }
      drive := false }
    articles := [article0]
    bays := s.bays.set 0 (List.replicate 16 {})
    balances := s.balances.set 0 { ({} : Balance).formLoads (List.replicate 8 100) with
      grades := grade0 :: List.replicate 7 {} }
    power := { target := 500, budget := 500 }
    carousels := s.carousels.set 0 { k with profile := some profile0 }
    putAway := { site := some site0 }
    consolidation := { lanes := List.replicate 2 {} } }

/-- A request from station 1 with tag 7, to the part's number 30. -/
def ask (kind : Byte) (payload : List Byte) : Frame :=
  { dest := 30, src := 1, kind, tag := 7, payload }

/-- The part with that request at the head of its receive queue. -/
def asking (s : State) (f : Frame) : State :=
  { s with link := { s.link with rx := [{ frame := f, request := true }] } }

/-- The part with floor frames waiting. -/
def floor (s : State) (l : List Frame) : State :=
  { s with line := { s.line with rx := l } }

/-- The part with a task record. -/
def tasked (s : State) (id : Nat) (t : Task) : State :=
  { s with orderUnit := { s.orderUnit with pool := s.orderUnit.pool.set id (some t) } }

/-- The part with carousel 0's bay 0.0.0 as given, its load with it. -/
def stocked (s : State) (b : Bay) : State :=
  { s with
    bays := s.bays.set 0 (b :: List.replicate 15 {})
    balances := s.balances.modify 0 fun x => x.applyChange 0 (b.count * 80) }

/-- The part with open orders and a pending list. -/
def ordered (s : State) (l : List Order) (pending : List GroupRef) : State :=
  { s with orderUnit := { s.orderUnit with orders := l, pending } }

/-- The part with transit entries. -/
def carrying (s : State) (l : List TransitEntry) : State :=
  { s with consolidation := { s.consolidation with transit := l } }

/-- Every bound of `State.bounded`, to be decided. -/
def roomy (s : State) : Bool :=
  decide (s.link.rx.length ≤ 8 ∧ s.link.tx.length ≤ 16 ∧ s.line.rx.length ≤ 16 ∧ s.outbox.fifo.length ≤ 32 ∧
    s.outbox.slots.length = 8 ∧ s.filter.length = 32 ∧ s.articles.length ≤ 512 ∧ s.orderUnit.orders.length ≤ 64 ∧
    s.orderUnit.pool.length = 128 ∧ s.consolidation.lanes.length ≤ 16 ∧ s.audit.list.length ≤ 32 ∧
    s.carousels.length = 8 ∧ s.bays.length = 8 ∧ s.balances.length = 8 ∧ s.audit.sweeps.length = 8)

theorem roomy_bounded (s : State) (h : roomy s = true) : s.bounded := by
  simp only [roomy, decide_eq_true_eq] at h
  obtain ⟨a, b, c, d, e, f, g, i, j, k, l, m⟩ := h
  exact ⟨a, b, c, d, e, f, g, i, j, k, l, m⟩

/-- Every condition of `State.keyed` and `State.quiet`, to be decided. -/
def tidyB (s : State) : Bool :=
  decide ((s.articles.Pairwise fun a b => a.code < b.code) ∧ (s.orderUnit.orders.map Order.number).Nodup ∧
    (s.audit.list.map Discrepancy.number).Nodup ∧ (∀ e ∈ s.audit.list, e.number < 256) ∧
    s.agenda = {} ∧ s.orderUnit.retry = .none)

theorem tidyB_keyed_quiet (s : State) (h : tidyB s = true) : s.keyed ∧ s.quiet := by
  simp only [tidyB, decide_eq_true_eq] at h
  exact ⟨⟨h.1, h.2.1, h.2.2.1, h.2.2.2.1⟩, h.2.2.2.2⟩

/-- The premises that most statements share. -/
abbrev Meets (s : State) : Prop := s.bounded ∧ s.keyed ∧ s.quiet

theorem meets (l : List State) (h : (l.all fun s => roomy s && tidyB s) = true) : ∀ s ∈ l, Meets s := by
  intro s hs
  have h1 := List.all_eq_true.mp h s hs
  simp only [Bool.and_eq_true] at h1
  exact ⟨roomy_bounded s h1.1, tidyB_keyed_quiet s h1.2⟩

/-- Every one of these payloads of a kind, with the request it spells, meets the premises at a state: the state with that
request at its head is bounded, keyed and quiet, and asks it. -/
abbrev Asks (s : State) (kind : Byte) (l : List (List Byte × Request)) : Prop :=
  ∀ x ∈ l, Meets (asking s (ask kind x.1)) ∧ (asking s (ask kind x.1)).asked (ask kind x.1) x.2

theorem asks (s : State) (kind : Byte) (l : List (List Byte × Request))
    (h : (roomy s && tidyB s && s.link.unitFree && l.all fun x => decide (readRequest (ask kind x.1) = some x.2)) = true) :
    Asks s kind l := by
  intro x hx
  simp only [Bool.and_eq_true] at h
  have h1 := of_decide_eq_true (List.all_eq_true.mp h.2 x hx)
  obtain ⟨a, b, c, d, e, f, g, i, j, k, l, m⟩ := roomy_bounded s h.1.1.1
  have h2 := tidyB_keyed_quiet s h.1.1.2
  refine ⟨⟨⟨by simp [asking], b, c, d, e, f, g, i, j, k, l, m⟩, ⟨h2.1.1, h2.1.2, h2.1.3, h2.1.4⟩, h2.2⟩, ?_⟩
  have h3 : (asking s (ask kind x.1)).link.unitFree = true := h.1.2
  unfold State.asked State.headRequest
  rw [if_pos h3]
  simp [asking, h1]

/-- A fact of every task in use, from one of the pool's places. -/
theorem tasks_all (s : State) (p : Nat → Task → Prop)
    (h : ∀ id < s.orderUnit.pool.length, ∀ t ∈ s.task id, p id t) : ∀ id t, s.task id = some t → p id t := by
  intro id t ht
  by_cases hid : id < s.orderUnit.pool.length
  · exact h id hid t ht
  · simp [State.task, List.getD, List.getElem?_eq_none (Nat.le_of_not_lt hid)] at ht

/-! ## States -/

/-- Nothing is in service, the carousel is OFFLINE. -/
def p0 : State := part {}

/-- The carousel is READY at index 0. -/
def ready0 : State := part { state := .ready, index := some 0 }

/-- The carousel moves to index 4, which its drive has accepted, with this work in service; its claim is kept. -/
def moving0 (w : Work) : State :=
  let s := part { state := .moving, index := some 0, inService := some w, moveNumber := 9, moveTimer := some 900
                  move := some { target := 4, start := 0, ascending := true, distance := 4, draw := 100 } }
  { s with power := { s.power with claims := [{ carousel := 0, draw := 100 }] } }

/-- The carousel presents this work. -/
def presenting0 (w : Work) (sweep : Option SweepContext) : State :=
  part { state := .presenting, index := some 0, inService := some w, presentationTimer := some 900, sweep }

/-- A PICK task of order 5 at bay 0.0.0. -/
def pick0 : Task :=
  { kind := .pick, level := 2, bay := ⟨0, 0, 0⟩, quantity := 2, order := 5, state := .presenting, transit := 2 }

/-- The bay with what that task draws. -/
def bay0 : Bay := { tyre := some tyre0, count := 3, reserved := 2 }

/-- Order 5: two tyres of the article, in lane 0. -/
def order5 : Order :=
  { number := 5, priority := .normal, policy := .wait, lane := some 0, state := .picking, held := [3]
    lines := [{ article := 7, quantity := 2, setSize := 2
                groups := [{ number := 0, need := 0, window := some { low := 2301, high := 2301 }, tasks := [3] }] }] }

/-- A transit entry of that order. -/
def entry5 : TransitEntry :=
  { place := 63, serial := 0, group := ⟨5, 0, 0⟩, tyre := tyre0, lane := 0, source := .mouth 0, deadline := 60000 }

/-- Lane 0 as order 5 holds it. -/
def laned (s : State) (l : Lane) : State :=
  { s with consolidation := { s.consolidation with lanes := s.consolidation.lanes.set 0 l } }

/-- The presented pick of order 5 with all its records. -/
def picking0 : State :=
  laned (ordered (tasked (stocked (presenting0 (.task 3) none) bay0) 3 pick0) [order5] [] |> fun s =>
    { s with orderUnit := { s.orderUnit with pool := (tasked s 3 pick0).orderUnit.pool }
             consolidation := { s.consolidation with reserved := 2 } })
    { state := .filling, order := some 5, expected := 2 }

/-- Order 5 with a need of 2 and a bay of its article, at a carousel in a state. -/
def needing2 (s : State) : State :=
  ordered (stocked s { bay0 with reserved := 0 })
    [{ order5 with held := [], lines := order5.lines.map fun l => { l with
        groups := l.groups.map fun g => { g with need := 2, window := none, tasks := [] } } }] [⟨5, 0, 0⟩]

/-- A grade that admits no loaded state. -/
def grade1 : Grade := { grade0 with total := 0 }

/-- The part with one grade record for carousel 0. -/
def graded (s : State) (g : Grade) : State :=
  s.modBal 0 fun b => { b with grades := g :: List.replicate 7 {} }

/-- The part with carousel 0 in balance fault, its last grade admitting nothing it holds. -/
def faulted (s : State) : State :=
  { s with balances := s.balances.modify 0 fun b => { b with
      fault := true, grades := { grade0 with total := 0 } :: List.replicate 7 {} } }

/-- The context of a sweep over carriers 2 to 5. -/
def sweep0 (next : Nat) : SweepContext := { next, last := 5, policy := .report, number := 1 }

/-- The part with a sweep record for carousel 0. -/
def swept (s : State) (r : SweepRecord) : State :=
  { s with audit := { s.audit with sweeps := s.audit.sweeps.set 0 r } }

/-- The part with frames of a kind to station 40 in its FIFO. -/
def stuffed (s : State) (kind : Byte) (n : Nat) : State :=
  { s with outbox := { s.outbox with fifo := List.replicate n { dest := 40, kind, tag := 0, payload := [0, 0, 1, 1] } } }

/-- A discrepancy entry of bay 0.0.0. -/
def entry0 : Discrepancy :=
  { number := 255, carousel := 0, position := 0, kind := .count, recordedTyre := some tyre0, recordedCount := 3,
    recordedIncoming := 0, found := [{ tyre := tyre0, count := 2 }], foundTotal := 1, sweep := some 1, corrected := false }

theorem wit_states :
    ∀ s ∈ [State.reset, p0, ready0, moving0 (.task 3), moving0 .step, presenting0 .step (some (sweep0 2)), picking0],
      Meets s :=
  meets _ (by decide +kernel)

/-! ## The spec's worked examples -/

/-- Chapter 11, "one MOVE frame". -/
theorem test_move_frame :
    let f : Frame := { dest := 55, src := 2, kind := kindMove, tag := 17, payload := movePayload 2 false 140 41 }
    f.wire.length = 14 ∧
      f.wire.take 12 = [0xC3, 0x3C, 0x00, 0x04, 0x37, 0x02, 0x10, 0x11, 0x02, 0x01, 0x8C, 0x29] ∧
      checkAgrees (f.wire.drop 2) = true ∧ checkAgrees ((f.wire.drop 2).set 4 0x13) = false := by
  decide +kernel

/-- Table 1-1: carousel 3 with 20 carriers of 6 bays. -/
theorem test_positions :
    let s := { State.reset with carousels := State.reset.carousels.set 3 { profile := some { profile0 with carriers := 20, bays := 6 } } }
    s.position ⟨3, 0, 5⟩ = 5 ∧ s.position ⟨3, 1, 0⟩ = 6 ∧ s.position ⟨3, 17, 2⟩ = 104 ∧ s.position ⟨3, 19, 5⟩ = 119 ∧
      s.bayAt 3 104 = ⟨3, 17, 2⟩ ∧ s.bayExists ⟨3, 19, 5⟩ = true ∧ s.bayExists ⟨3, 20, 0⟩ = false := by
  decide +kernel

/-- Table 2-2 and its notes 1 to 3. -/
theorem test_request_indices :
    let g := fun on power => ({ loaded := on, power } : Grade)
    let gs := [g true 900, g true 600, g false 500, g true 400, g true 250, g false 1, g false 1, g false 1]
    (List.range 8).map (requestIndexByte (deriveEnabled 800 gs)) = [255, 0, 255, 1, 2, 255, 255, 255] ∧
      feedDisabled (deriveEnabled 800 gs) = [0] ∧
      (List.range 8).map (requestIndexByte (deriveEnabled 1000 gs)) = [0, 1, 255, 2, 3, 255, 255, 255] := by
  decide +kernel

/-- Tables 2-7 and 2-8. -/
theorem test_half_loop :
    let b := ({} : Balance).formLoads [780, 400, 1296, 590, 400, 400, 848, 400]
    b.total = 5114 ∧ b.halfSums = [3066, 2686, 2686, 2238, 2048, 2428, 2428, 2876] ∧
      (List.range 8).map b.imbalanceAt = [1018, 258, 258, -638, -1018, -258, -258, 638] ∧ b.worst = 1018 := by
  decide +kernel

/-- Tables 4-4 to 4-6. -/
theorem test_prospective :
    let b := ({} : Balance).formLoads [800, 400, 600, 400, 400, 700, 400, 400]
    b.total = 4100 ∧ b.halfSums = [2200, 1800, 2100, 1900, 1900, 2300, 2000, 2200] ∧ b.worst = 500 ∧
      (List.range 8).map (fun i => (b.applyChange i 100).worst) = [600, 400, 400, 400, 400, 600, 600, 600] := by
  decide +kernel

/-- The filter table before Table 9-4, on part of its frames (the part's roles apart). -/
theorem test_filter_table :
    let s := { State.reset with filter :=
      ([{ valid := true, a := 12, kind := some kindDriveState, action := .copy },
       { valid := true, matchType := .range, a := 40, b := 47 },
       { valid := true, a := 200, action := .discard, urgent := true },
       { valid := true, matchType := .mask, a := 96, b := 240, kind := some kindTagRead }] : List FilterElement) ++ List.replicate 28 ({} : FilterElement) }
    let d := fun src kind => (s.deciding { dest := 2, src, kind, tag := 0, payload := [] }).map Prod.fst
    d 12 kindDriveState = some 0 ∧ d 12 kindArrived = none ∧ d 41 kindTagRead = some 1 ∧ d 46 kindTagRead = some 1 ∧
      d 200 kindKey = some 2 ∧ d 100 kindTagRead = some 3 ∧ d 111 kindTagRead = some 3 ∧ d 112 kindTagRead = none := by
  decide +kernel

/-- "Lowering the budget", steps 1 and 2: E is 850 at the request and 500 at the first release. -/
theorem test_budget :
    let s := { State.reset with power := { target := 900, budget := 900, claims := [⟨1, 600⟩, ⟨4, 250⟩] } }
    let t := { s with power := { s.power with target := 500, budget := max 500 s.power.claimed } }
    s.power.claimed = 850 ∧ t.power.budget = 850 ∧ (t.releaseClaim 1).power.budget = 500 ∧
      (t.releaseClaim 1).power.claimed = 250 := by
  decide +kernel

/-! ## Steps on small states -/

/-- What a command leaves, or the state before where it stops. -/
def after (c : Instr) (s : State) : State :=
  match exec c s with
  | .next t => t
  | _ => s

theorem test_gradeCap : (after .gradeCap (asking p0 (ask kindGradeCap [0, 7]))).balances.map Balance.cap = [7, 0, 0, 0, 0, 0, 0, 0] := by
  decide +kernel
theorem test_gradeCap_result :
    (after .gradeCap (asking p0 (ask kindGradeCap [8, 7]))).link.tx.map (·.frame) =
      [{ dest := 1, src := 30, kind := kindResult, tag := 7, payload := [2, 3, kindGradeCap] }] := by decide +kernel

theorem test_wrong_kind_waits :
    let s := asking p0 (ask kindPortClear [0])
    after .storeReset s = s := by decide +kernel

theorem test_powerBudget :
    let t := after .powerBudget (asking (moving0 .step) (ask kindPowerBudget [0, 50]))
    t.power.target = 50 ∧ t.power.budget = 100 ∧
      t.link.tx.map (·.frame.payload) = [[0, 0, kindPowerBudget, 0, 100, 0, 100]] := by decide +kernel

theorem test_pick_takes_one :
    let t := picking0.mouthRead 0 [{ bay := 0, article := 7, batch := 2301, count := 4 }]
    (t.bay ⟨0, 0, 0⟩).count = 2 ∧ (t.bay ⟨0, 0, 0⟩).reserved = 1 ∧ (t.bal 0).loads.getD 0 0 = 260 ∧
      t.outbox.fifo.map (·.payload) = [[1, 0, 0, 0, 0, 0, 0, 7, 0x08, 0xFD], [0, 0, 1, 2]] := by decide +kernel

theorem test_link_break_keeps_line :
    let t := after .linkBreak p0
    t.link.profile = none ∧ t.line = p0.line ∧ t.articles = p0.articles := by decide +kernel

theorem test_line_hold_moving :
    let t := after .lineHoldSensed (moving0 .step)
    (t.car 0).state = .unhomed ∧ (t.car 0).index = none ∧ t.power.claims = [] ∧
      t.link.tx.map (·.frame.kind) = [kindNotice] := by decide +kernel

theorem test_short_key :
    let t := picking0.mouthKey 0 .short
    (t.bay ⟨0, 0, 0⟩).count = 0 ∧ (t.bay ⟨0, 0, 0⟩).holds.audit = true ∧ t.task 3 = none ∧
      t.audit.list.map Discrepancy.kind = [.shortPick] ∧ (t.bal 0).total = 800 ∧ (t.car 0).state = .ready := by
  decide +kernel

theorem test_arrived_presents :
    let t := (tasked (moving0 (.task 3)) 3 { pick0 with state := .moving }).arrived 0 4 0 9
    (t.car 0).state = .presenting ∧ (t.car 0).index = some 4 ∧ (t.bal 0).duty = 50 ∧ t.power.claims = [] := by
  decide +kernel

/-! ## Witnesses: for each statement, states and operands that meet its hypotheses, clause by clause -/

/-- A step that answers a next state. -/
def steps (s : State) : Bool :=
  match step s with
  | .next _ => true
  | _ => false

theorem steps_next (s : State) (h : steps s = true) : ∃ t, step s = .next t := by
  unfold steps at h
  split at h
  · exact ⟨_, ‹_›⟩
  · cases h

/-- The request POWER-BUDGET at the head, its command at the front of the queue. -/
def budgeted : State :=
  { asking (moving0 .step) (ask kindPowerBudget [0, 50]) with pending := [.powerBudget] }

theorem wit_PowerLawKept : budgeted.power.lawful ∧ ∃ t, step budgeted = .next t :=
  ⟨by unfold Power.lawful; decide +kernel, steps_next _ (by decide +kernel)⟩

theorem wit_TablesKept_FollowUpsTaken : Meets budgeted ∧ ∃ t, step budgeted = .next t :=
  ⟨meets [budgeted] (by decide +kernel) _ (List.mem_singleton.mpr rfl), steps_next _ (by decide +kernel)⟩

/-- Entries freed, a pass over article 7 and two service points noted, with a pending group of that article; and nothing. -/
theorem wit_FollowUpsTaken :
    let s := needing2 ready0
    let t := { s with
      agenda := { freed := true, points := [0, 3] }, orderUnit := { s.orderUnit with retry := .articles [7] } }
    t.agenda.freed = true ∧ t.orderUnit.retry = .articles [7] ∧ t.orderUnit.pending = [⟨5, 0, 0⟩] ∧
      t.groupArticle ⟨5, 0, 0⟩ = 7 ∧ (t.car 0).state = .ready ∧ (t.car 0).inService = none ∧ (t.car 3).state ≠ .ready ∧
      p0.agenda.freed = false ∧ p0.orderUnit.retry = .none := by decide +kernel

theorem wit_StoreLawsKept :
    let s : State := { picking0 with pending := [.presentationTimerExpiry 0] }
    s.bounded ∧ s.laws ∧ (∃ b ∈ (s.bays.getD 0 []), 0 < b.reserved) ∧ ∃ t, step s = .next t := by
  refine ⟨roomy_bounded _ (by decide +kernel), ⟨?_, ?_, ?_, ?_⟩, by decide +kernel, steps_next _ (by decide +kernel)⟩
  · have h : ∀ l ∈ picking0.bays, ∀ b ∈ l, (b.tyre.isSome = true ↔ 0 < b.count + b.incoming) ∧ b.reserved ≤ b.count ∧
        (b.holds.any = true → b.reserved = 0) := by decide +kernel
    exact fun l hl b hb => ⟨(h l hl b hb).1, (h l hl b hb).2.1, (h l hl b hb).2.2⟩
  · exact ⟨by decide +kernel, by decide +kernel, by decide +kernel⟩
  · exact ⟨by decide +kernel, by decide +kernel⟩
  · intro held
    exact absurd held (by decide +kernel)

/-! ### Reception, transmission, the outbox -/

/-- A frame to the part, with a payload of a length. -/
def sized (n : Nat) : Frame := { dest := 30, src := 1, kind := kindStatusFetch, tag := 0, payload := List.replicate n 0 }

theorem wit_ReceptionDisposes_link :
    (∀ s ∈ [State.reset, p0], s.link.inBreak = false ∧ s.link.receiver = .hunting false false) ∧
    (∀ n ∈ [0, 496, 497, 65535], (sized n).payload.length < 65536) ∧ p0.linkMax = 496 ∧
    [(0 : Byte), 0] ≠ (sized 0).check ∧ (sized 0).check = [(sized 0).check.getD 0 0, (sized 0).check.getD 1 0] ∧
    State.reset.link.profile = none ∧ p0.link.profile ≠ none := by decide +kernel

theorem wit_ReceptionDisposes_line :
    (∀ s ∈ [State.reset, p0], s.line.receiver = .hunting false false) ∧ State.reset.line.profile = none ∧
    p0.lineMax = 256 ∧ (∀ n ∈ [0, 256, 257], (sized n).payload.length < 65536) ∧
    (floor p0 (List.replicate 16 (sized 0))).line.receiver = .hunting false false := by decide +kernel

theorem wit_ReceptionDisposes_gap :
    let l := fun r => ({ p0 with link := { p0.link with receiver := r }, line := { p0.line with receiver := r } } : State)
    ∀ r ∈ [Receiver.taking [], .disregarding 1, .hunting true false, .hunting false true, .hunting true true],
      (l r).link.receiver = r ∧ (l r).line.receiver = r := by decide +kernel

theorem wit_ReceptionDisposes_stray :
    ∀ l ∈ [[(0 : Byte)], [0xC3, 0xC3, 0], [0x3C, 0xC3, 5, 0x3C]], l ≠ [] ∧
      ∀ i < l.length, l[i]? = some 0xC3 → ∃ b ∈ l, l[i + 1]? = some b ∧ b ≠ 0x3C := by decide +kernel

theorem wit_LinkBreakResetsLink : p0.link.inBreak = false ∧ State.reset.link.inBreak = false := by decide +kernel

/-- A RESULT in the transmit queue. -/
def sent (resets : Bool) : State :=
  { p0 with link := { p0.link with tx := [{ frame := sized 0, resets }], waiting := some { frame := sized 1 } } }

theorem wit_LinkFrameSent :
    p0.link.tx = [] ∧ State.reset.link.profile = none ∧
      p0.link.profile = some { station := 30, maxPayload := 496, enable := 0x3FFFF, host := 1 } ∧
      (∀ n ∈ [Notice.balanceFault 0 0 0, .putRefused .noRoom none, .orderStaged 5 0 2 false],
        (0x3FFFF : BitVec 32).getLsbD (noticeCode n) = true ∧ (0 : BitVec 32).getLsbD (noticeCode n) = false) ∧
      (sized 497).payload.length = 497 ∧ (sent false).link.waiting ≠ none ∧ roomy (sent false) = true ∧ (sent false).link.tx = [{ frame := sized 0, resets := false }] ∧
      (sent true).link.tx = [{ frame := sized 0, resets := true }] := by decide +kernel

/-- A frame for another station at the head of the link receive queue. -/
def passing (s : State) (dest kind : Byte) (n : Nat) : State :=
  { s with link := { s.link with rx := [{ frame := { sized n with dest, kind }, request := false }] } }

/-- The FIFO full of INDICATEs to station 40. -/
def full0 : State :=
  stuffed p0 kindIndicate 32

theorem wit_PassthroughTests :
    (∀ s ∈ [State.reset, p0, full0], Meets s) ∧ State.reset.line.profile = none ∧
    (p0.line.profile.map fun p => (p.station, p.maxPayload)) = some (2, 256) ∧
    ((p0.car 0).profile.map Profile.drive = some 50 ∧ (p0.car 0).state ≠ .manual) ∧
    full0.outbox.fifo.length = 32 ∧
    full0.outbox.fifo = List.replicate 31 { dest := 40, kind := kindIndicate, tag := 0, payload := [0, 0, 1, 1] } ++
      { dest := 40, kind := kindIndicate, tag := 0, payload := [0, 0, 1, 1] } :: [] ∧
    (∀ x ∈ full0.outbox.fifo, ¬(x.kind = kindIndicate ∧ x.dest = 41)) ∧
    (∀ d ∈ [(2 : Byte), 50, 255, 40, 41], ∀ k ∈ [kindMove, kindIndicate], ∀ n ∈ [256, 257],
      (passing full0 d k n).link.rx = [{ frame := { sized n with dest := d, kind := k }, request := false }]) :=
  ⟨meets _ (by decide +kernel), by decide +kernel⟩

/-- A MOVE frame of carousel 0. -/
def move0 : OutFrame := { dest := 50, kind := kindMove, tag := 3, payload := movePayload 4 true 5 9 }

/-- A frame with the transmitter. -/
def x0 (source : TxSource) (dest : Byte) : Sending :=
  { frame := { move0 with dest, kind := if source = .slot 0 then kindMove else kindRoute, entry := some 0 }, src := 2,
    source, repeats := 2 }

/-- The outbox with slot 0's MOVE and the transmitter as given. -/
def sending (s : State) (chosen : Bool) (tx : Transmitter) : State :=
  { s with outbox := { s.outbox with
      slots := s.outbox.slots.set 0 (some { frame := move0, level := 3, chosen }), tx
      fifo := [{ dest := 40, kind := kindIndicate, tag := 0, payload := [0, 0, 1, 1] }] } }

theorem wit_TransmitterStartsAndEnds :
    (∀ s ∈ [sending p0 false .idle, sending p0 true .idle, sending p0 true (.sending (x0 .fifo 255))], Meets s) ∧
    (∀ tx, (sending p0 true tx).line.profile = p0.line.profile) ∧ p0.line.profile.isSome = true ∧
    ((sending p0 false .idle).slot 0 = some { frame := move0, level := 3, chosen := false }) ∧
    (∀ d < 8, ∀ n ∈ (sending p0 false .idle).slot d, n.chosen = false → n.level < 3 ∨ (n.level = 3 ∧ 0 ≤ d)) ∧
    (∀ d < 8, ∀ n ∈ (sending p0 true .idle).slot d, n.chosen = true) ∧
    (x0 .fifo 255).frame.dest = 255 ∧ (x0 (.slot 0) 50).frame.dest ≠ 255 :=
  ⟨meets _ (by decide +kernel), fun _ => rfl, by decide +kernel⟩

/-- The transmitter waits for an ACCEPT of a frame. -/
def awaiting0 (s : State) (source : TxSource) : State :=
  sending s true (.awaiting (x0 source 50) 100 2)

theorem wit_ReplyWindowExpires :
    (∀ s ∈ [awaiting0 p0 .displaced, awaiting0 p0 .fifo, awaiting0 (moving0 .step) (.slot 0)], Meets s) ∧
    (∀ x ∈ [TxSource.displaced, .fifo, .slot 0], (awaiting0 (moving0 .step) x).outbox.tx = .awaiting (x0 x 50) 100 2 ∧
      2 ≤ (x0 x 50).repeats ∧ (x0 x 50).repeats < 3 ∧ (x0 x 50).source = x) ∧
    (x0 .fifo 50).frame.origin = .part ∧ (x0 .fifo 50).frame.kind = kindRoute ∧ (x0 .fifo 50).frame.entry = some 0 ∧
    ((moving0 .step).car 0).state = .moving ∧ (moving0 .step).waits 0 = false ∧
    Meets (awaiting0 p0 (.slot 0)) ∧ ((awaiting0 p0 (.slot 0)).car 0).state ≠ .moving :=
  ⟨meets _ (by decide +kernel), by decide +kernel, by decide +kernel, by decide +kernel, by decide +kernel, by decide +kernel,
    by decide +kernel, meets [awaiting0 p0 (.slot 0)] (by decide +kernel) _ (List.mem_singleton.mpr rfl), by decide +kernel⟩

/-- An ACCEPT from a station with a tag. -/
def accept (src tag : Byte) : Frame := { dest := 2, src, kind := kindAccept, tag, payload := [] }

theorem wit_AcceptEndsWait :
    (∀ s ∈ [floor p0 [accept 50 3], floor (awaiting0 (moving0 .step) (.slot 0)) [accept 50 3],
      floor (awaiting0 p0 .fifo) [accept 50 4], floor (awaiting0 p0 (.slot 0)) [accept 50 3]], Meets s) ∧
    ((awaiting0 p0 (.slot 0)).car 0).state ≠ .moving ∧
    p0.outbox.tx = .idle ∧ (awaiting0 (moving0 .step) (.slot 0)).outbox.tx.held = some (x0 (.slot 0) 50) ∧
    (∀ x ∈ [TxSource.displaced, .fifo, .slot 0], (x0 x 50).frame.dest = (accept 50 3).src ∧
      (x0 x 50).frame.tag = (accept 50 3).tag ∧ (x0 x 50).frame.tag ≠ (accept 50 4).tag) ∧
    ((moving0 .step).car 0).state = .moving ∧ ((moving0 .step).car 0).profile = some profile0 ∧
    ((moving0 .step).car 0).move.map Move.distance = some 4 :=
  ⟨meets _ (by decide +kernel), by decide +kernel⟩

/-! ### The stop pair -/

/-- The pair as these two parties drive it. -/
def pair (s : State) (drive outside : Bool) : State :=
  { s with line := { s.line with drive, outsideHold := outside } }

theorem wit_StopPair_taken :
    (∀ s ∈ [moving0 .step, pair p0 true false, pair p0 false true], Meets s) ∧ (moving0 .step).lineHeld = false ∧
    (pair p0 true false).lineHeld = true ∧ (pair p0 false true).lineHeld = true ∧
    Asks (moving0 .step) kindLineHold [([], .lineHold)] ∧ Asks (pair p0 false true) kindLineHold [([], .lineHold)] :=
  ⟨meets _ (by decide +kernel), by decide +kernel, by decide +kernel, by decide +kernel, asks _ _ _ (by decide +kernel),
    asks _ _ _ (by decide +kernel)⟩

theorem wit_StopPair_cleared :
    (∀ s ∈ [pair p0 false true, pair p0 true true, p0], Meets s) ∧ p0.outbox.fifo.length ≤ 24 ∧
    Asks (pair p0 true false) kindLineRelease [([], .lineRelease)] ∧
    Asks (pair p0 true true) kindLineRelease [([], .lineRelease)] ∧ Asks p0 kindLineRelease [([], .lineRelease)] ∧
    Asks { p0 with line := { p0.line with profile := none } } kindLineRelease [([], .lineRelease)] ∧
    ∀ c < 8, p0.waits c = false :=
  ⟨meets _ (by decide +kernel), by decide +kernel, asks _ _ _ (by decide +kernel), asks _ _ _ (by decide +kernel),
    asks _ _ _ (by decide +kernel), asks _ _ _ (by decide +kernel), by decide +kernel⟩

/-! ### Floor frames -/

/-- A DRIVE-STATE of carousel 0's drive. -/
def driveFrame (src : Byte) : Frame := { dest := 2, src, kind := kindDriveState, tag := 0, payload := [0, 0] }

/-- The part with these filter elements in front. -/
def filtered (s : State) (l : List FilterElement) : State :=
  { s with filter := l ++ List.replicate (32 - l.length) ({} : FilterElement) }

/-- The part with carousel 0 UNHOMED. -/
def unhomed0 : State := part { state := .unhomed }

theorem wit_FirstMatchDecides :
    let s := fun a => filtered (floor unhomed0 [driveFrame 50]) [{ valid := true, matchType := .range, a := 51, b := 60 },
      { valid := true, matchType := .mask, a := 0xF2, b := 0x0F, kind := some kindDriveState, action := a, urgent := true }]
    (∀ a ∈ [FilterAction.deliver, .forward, .copy, .discard], Meets (s a) ∧ (s a).line.rx = [driveFrame 50]) ∧
    kindDriveState ≠ kindAccept ∧ ¬((51 : Byte) ≤ 50) ∧
    (∀ i < 8, (0x0F : Byte).getLsbD i = true → (50 : Byte).getLsbD i = (0xF2 : Byte).getLsbD i) ∧
    (unhomed0.deliver (driveFrame 50)).isSome = true ∧ (unhomed0.deliver (driveFrame 49)).isNone = true ∧
    (∀ e ∈ unhomed0.filter, e.valid = false) ∧
    -- the roles: carousel 0's and carousel 3's with the same profile, one station for two roles, no site, two lane readers
    (let twice := { p0 with carousels := p0.carousels.set 3 { profile := some profile0 } }
     (twice.car 0).profile = some profile0 ∧ (twice.car 3).profile = some profile0) ∧
    (let last := { p0 with carousels := (p0.carousels.set 0 {}).set 7 { profile := some { profile0 with reader := 50 } } }
     (∀ d < 7, (last.car d).profile = none) ∧ (last.car 7).profile = some { profile0 with reader := 50 }) ∧
    (∀ src ∈ [(5 : Byte), 9, 101, 102, 200, 77], src ≠ profile0.drive ∧ src ≠ profile0.reader ∧ src ≠ profile0.keypad) ∧
    (∀ c < 8, 0 < c → (p0.car c).profile = none) ∧ p0.putAway.site = some site0 ∧ State.reset.putAway.site = none ∧
    site0.infeed = 5 ∧ site0.laneReaders[1]? = some 102 ∧ site0.laneReaders[0]? ≠ some 102 ∧ 77 ∉ site0.laneReaders ∧
    (readTagRead [1, 0, 0, 0, 0, 7, 0x08, 0xFD, 1]).isSome = true ∧ (readTagRead [2]).isNone = true := by
  refine ⟨fun a ha => ⟨?_, ?_⟩, by decide +kernel⟩
  · exact meets ([FilterAction.deliver, .forward, .copy, .discard].map fun a => filtered (floor unhomed0 [driveFrame 50])
      [{ valid := true, matchType := .range, a := 51, b := 60 },
       { valid := true, matchType := .mask, a := 0xF2, b := 0x0F, kind := some kindDriveState, action := a, urgent := true }])
      (by decide +kernel) _ (List.mem_map_of_mem ha)
  · rfl

theorem wit_HomingReports :
    Meets unhomed0 ∧ (unhomed0.car 0).state = .unhomed ∧ (unhomed0.car 0).profile = some profile0 ∧
      7 < profile0.carriers ∧ profile0.carriers ≤ 8 ∧ unhomed0.outbox.fifo.length < 32 :=
  ⟨meets [unhomed0] (by decide +kernel) _ (List.mem_singleton.mpr rfl), by decide +kernel⟩

/-- The moving carousel with task 3 in service. -/
def movingTask : State := tasked (moving0 (.task 3)) 3 { pick0 with state := .moving }

/-- The carousel moves to the step of its sweep at carrier 4. -/
def movingStep : State := (moving0 .step).modCar 0 fun k => { k with sweep := some (sweep0 4) }

/-- The carousel moves with a task marked withdrawn. -/
def movingWithdrawn : State :=
  stocked (tasked (moving0 (.task 3)) 3 { pick0 with state := .moving, transit := 0, withdrawn := true }) bay0

theorem wit_ArrivedAtTarget_others :
    (∀ s ∈ [movingStep, movingWithdrawn], roomy s = true ∧ (s.car 0).state = .moving ∧ (s.car 0).profile = some profile0 ∧
      (s.car 0).move.map Move.target = some 4 ∧ (s.car 0).moveNumber = 9 ∧ s.waits 0 = false ∧
      s.outbox.fifo.length < 32) ∧
    (movingStep.car 0).inService = some .step ∧ (movingStep.car 0).sweep = some (sweep0 4) ∧
    (movingWithdrawn.car 0).inService = some (.task 3) ∧
    movingWithdrawn.task 3 = some { pick0 with state := .moving, transit := 0, withdrawn := true } ∧
    movingWithdrawn.position pick0.bay < (movingWithdrawn.baysOf 0).length := by decide +kernel

/-- R143: the step presents with its first read attempt. -/
theorem test_arrived_step :
    let t := movingStep.arrived 0 4 0 9
    (t.car 0).state = .presenting ∧ (t.sweepRecord 0).readAttempt = 1 ∧ (t.sweepRecord 0).readTimer = some 5000 ∧
      t.outbox.fifo.map OutFrame.payload = [[4, 2]] := by decide +kernel

/-- R67: the withdrawn task ends without presenting and its tyres are released. -/
theorem test_arrived_withdrawn :
    let t := movingWithdrawn.arrived 0 4 0 9
    (t.car 0).state = .ready ∧ t.task 3 = none ∧ t.outbox.fifo = [] ∧ (t.bay ⟨0, 0, 0⟩).reserved = 0 := by decide +kernel

theorem wit_ArrivedAtTarget :
    Meets movingTask ∧ (movingTask.car 0).state = .moving ∧ (movingTask.car 0).profile = some profile0 ∧
      (movingTask.car 0).move = some { target := 4, start := 0, ascending := true, distance := 4, draw := 100 } ∧
      (movingTask.car 0).inService = some (.task 3) ∧ movingTask.task 3 = some { pick0 with state := .moving } ∧
      pick0.withdrawn = false ∧ movingTask.waits 0 = false ∧ (movingTask.car 0).moveNumber = 9 ∧
      movingTask.hasClaim 0 = true :=
  ⟨meets [movingTask] (by decide +kernel) _ (List.mem_singleton.mpr rfl), by decide +kernel⟩

/-! ### The timers -/

/-- Carousel 0 in a state, with its count of deviations. -/
def settled0 (state : CarouselState) (deviation : Nat) : State :=
  (part { state, index := some 3 }).modBal 0 fun b => { b with deviation }

theorem wit_DriveReportsAndTimeout :
    (∀ s ∈ [p0, movingTask, moving0 .step], Meets s) ∧ (p0.car 0).state ≠ .moving ∧
      (movingTask.car 0).profile = some profile0 ∧ (movingTask.car 0).state = .moving ∧
      (movingTask.car 0).moveTimer ≠ none ∧ movingTask.outbox.fifo.length < 32 ∧
      (movingTask.car 0).inService = some (.task 3) ∧ pick0.bay.carousel = 0 ∧
      (moving0 .step).car 0 = { movingTask.car 0 with inService := some .step } ∧
      ((moving0 .step).sweepRecord 0).stopMark = false ∧ movingTask.waits 0 = false ∧ pick0.withdrawn = false ∧
      (movingTask.car 0).move.map Move.target = some 4 ∧
      (∀ st ∈ [CarouselState.offline, .unhomed, .ready, .presenting, .driveFault, .manual], ∀ n ∈ [0, 1],
        roomy (settled0 st n) = true ∧ ((settled0 st n).car 0).state = st ∧
        ((settled0 st n).car 0).profile = some profile0 ∧ ((settled0 st n).bal 0).deviation = n ∧
        (settled0 st n).waits 0 = false ∧ ((settled0 st n).car 0).sweep = none) ∧
      2 * ((settled0 .ready 1).bal 0).halfSums.getD 3 0 - ((settled0 .ready 1).bal 0).total = 0 ∧
      (profile0.tolerance : Int) < |101 - 0| ∧ ¬((profile0.tolerance : Int) < |100 - 0|) :=
  ⟨meets _ (by decide +kernel), by decide +kernel⟩

theorem wit_TasksStallAndAreSettled_expiry :
    (∀ s ∈ [p0, picking0], Meets s) ∧ (p0.car 0).presentationTimer = none ∧ (picking0.car 0).state = .presenting ∧
      (picking0.car 0).presentationTimer ≠ none ∧ (picking0.car 0).inService = some (.task 3) ∧
      picking0.task 3 = some pick0 ∧ (picking0.car 0).faultPending = false :=
  ⟨meets _ (by decide +kernel), by decide +kernel⟩

/-- A PUT task at the level 1 queue of carousel 0. -/
def put0 (state : TaskState) (age : AgeTimer) : Task :=
  { kind := .put, level := 1, bay := ⟨0, 0, 1⟩, quantity := 1, tyre := some tyre0, state, age }

/-- The part with that task, the last record, waiting. -/
def aging (state : TaskState) (age : AgeTimer) (queue1 : List Nat) : State :=
  tasked (part { state := .ready, index := some 0, inService := some .step, queue1 }) 127 (put0 state age)

theorem wit_AgeExpiry :
    (∀ s ∈ [aging .queued (.running 50) [127], aging .balanceWait (.running 50) [127], aging .stalled (.running 50) [],
      aging .queued .expired []], Meets s) ∧
    (∀ st ∈ [TaskState.queued, .balanceWait, .stalled], ∀ q ∈ [[127], []],
      (aging st (.running 50) q).task 127 = some (put0 st (.running 50)) ∧ ((aging st (.running 50) q).car 0).queue1 = q ∧
      (aging st (.running 50) q).idleReady 0 = false) ∧
    (aging .queued .expired []).task 127 = some (put0 .queued .expired) :=
  ⟨meets _ (by decide +kernel), by decide +kernel⟩

theorem wit_DutyLeaks :
    Meets p0 ∧ (p0.car 0).profile = some profile0 ∧ (p0.car 7).profile = none :=
  ⟨meets [p0] (by decide +kernel) _ (List.mem_singleton.mpr rfl), by decide +kernel⟩

/-- A presented step at a carrier, in a read attempt. -/
def reading0 (next attempt : Nat) (stop : Bool) : State :=
  swept (presenting0 .step (some (sweep0 next))) { stopMark := stop, readAttempt := attempt, readTimer := some 50 }

theorem wit_ReadTimerExpires :
    (∀ s ∈ [presenting0 .step (some (sweep0 2)), reading0 2 1 false, reading0 2 2 false, reading0 2 2 true,
      reading0 5 2 false], Meets s) ∧
    (∀ next ∈ [2, 5], ∀ stop ∈ [true, false], ∀ n ∈ [1, 2], let s := reading0 next n stop
      (s.car 0).profile = some profile0 ∧ (s.car 0).state = .presenting ∧ (s.car 0).inService = some .step ∧
      (s.car 0).sweep = some (sweep0 next) ∧ (s.sweepRecord 0).readTimer ≠ none ∧ (s.sweepRecord 0).readAttempt = n ∧
      (s.sweepRecord 0).stopMark = stop ∧ (s.car 0).faultPending = false ∧
      s.position ⟨0, next, 1⟩ < (s.baysOf 0).length) ∧
    (let s := (reading0 2 2 false).modCar 0 fun k => { k with faultPending := true }
     roomy s = true ∧ (s.car 0).faultPending = true ∧ (s.car 0).inService = some .step ∧
       (s.sweepRecord 0).readTimer ≠ none ∧ (s.sweepRecord 0).readAttempt = 2) ∧
    ((presenting0 .step (some (sweep0 2))).sweepRecord 0).readTimer = none ∧ (sweep0 5).last = 5 :=
  ⟨meets _ (by decide +kernel), by decide +kernel⟩

theorem wit_CarrierReadCompares :
    (∀ s ∈ [presenting0 .step (some (sweep0 2)), reading0 5 1 false, reading0 2 1 true], Meets s ∧
      (s.car 0).profile = some profile0 ∧ (s.car 0).state = .presenting ∧ (s.car 0).inService = some .step ∧
      ∃ w ∈ [sweep0 2, sweep0 5], (s.car 0).sweep = some w) ∧
    let s := stocked p0 { bay0 with reserved := 0, incoming := 1 }
    (s.bounded ∧ s.position ⟨0, 0, 0⟩ < (s.baysOf 0).length ∧ (s.bay ⟨0, 0, 0⟩).reserved = 0 ∧
      s.stackLimit 7 = 4 ∧ (s.bay ⟨0, 0, 0⟩).incoming = 1 ∧ (s.bay ⟨0, 0, 0⟩).tyre = some tyre0) :=
  ⟨fun s hs => ⟨meets [presenting0 .step (some (sweep0 2)), reading0 5 1 false, reading0 2 1 true] (by decide +kernel) s hs, by
      simp only [List.mem_cons, List.not_mem_nil, or_false] at hs
      rcases hs with rfl | rfl | rfl <;> decide +kernel⟩, roomy_bounded _ (by decide +kernel), by decide +kernel⟩

/-- Order 5 with an entry in transit and its lane. -/
def travelling (o : Order) (l : Lane) : State :=
  carrying (laned (ordered p0 [{ o with held := [] }] []) l) [entry5]

/-- Order 5 marked WITHDRAWN. -/
def withdrawn5 : Order := { order5 with state := .withdrawn, held := [] }

/-- Lane 0 of order 5 in a state. -/
def lane5 (state : LaneState) : Lane := { state, order := some 5, expected := 2 }

theorem wit_TransitDeadline :
    (∀ s ∈ [p0, travelling order5 (lane5 .filling), travelling withdrawn5 (lane5 .filling)], Meets s) ∧
    p0.consolidation.transit = [] ∧ (travelling order5 (lane5 .filling)).consolidation.transit = [] ++ entry5 :: [] ∧
    entry5.place = 63 ∧ (travelling order5 (lane5 .filling)).order 5 = some { order5 with held := [] } ∧
    ((travelling order5 (lane5 .filling)).group entry5.group).isSome = true ∧
    (travelling withdrawn5 (lane5 .filling)).order 5 = some withdrawn5 ∧
    (travelling withdrawn5 (lane5 .filling)).lane 0 = some (lane5 .filling) ∧ withdrawn5.lane = some 0 :=
  ⟨meets _ (by decide +kernel), by decide +kernel⟩

/-! ### Picks, lanes and put-away -/

theorem wit_PickTakesOneTyre :
    let l := [picking0, stuffed picking0 kindIndicate 32, stuffed picking0 kindScanCarrier 31,
      stuffed picking0 kindScanCarrier 32]
    (∀ s ∈ l, Meets s) ∧ (∀ s ∈ l, s.position pick0.bay < (s.baysOf 0).length ∧
      (s.car 0).profile = some profile0 ∧ (s.car 0).state = .presenting ∧
      (s.car 0).inService = some (.task 3) ∧ s.task 3 = some pick0 ∧ (s.bal 0).fault = false ∧
      s.waits 0 = false ∧ (s.group pick0.ref).isSome = true ∧
      s.consolidation.transit.length < 64 ∧ (s.bay pick0.bay).tyre = some tyre0 ∧ s.laneOf pick0.order = 0) ∧
    pick0.bay.carousel = 0 ∧ pick0.kind = .pick ∧ pick0.state = .presenting ∧ pick0.taken + 1 < pick0.quantity :=
  ⟨meets _ (by decide +kernel), by decide +kernel⟩

/-- R132: with the FIFO full of frames that no ROUTE replaces, the ROUTE is lost and its entry is UNROUTED. -/
theorem test_route_lost :
    let t := (stuffed picking0 kindScanCarrier 32).mouthRead 0 [{ bay := 0, article := 7, batch := 2301, count := 1 }]
    t.consolidation.transit.map TransitEntry.unrouted = [true] ∧ t.line.errors.full = true ∧ t.outbox.fifo.length = 32 := by
  decide +kernel

/-- The presented pick with one tyre left. -/
def lastPick : Task := { pick0 with quantity := 1, transit := 1 }

/-- A PUT task presented at the mouth. -/
def putting0 : State :=
  tasked (stocked (presenting0 (.task 127) none) { bay0 with incoming := 1, reserved := 0 }) 127
    { kind := .put, level := 1, bay := ⟨0, 0, 0⟩, quantity := 1, tyre := some tyre0, state := .presenting }

theorem wit_MouthReadsAndKeys :
    picking0.role 40 = some (.reader 0) ∧ picking0.role 60 = some (.keypad 0) ∧
    (∀ s ∈ [p0, picking0, tasked picking0 3 lastPick, putting0, presenting0 .step (some (sweep0 2))], roomy s = true) ∧
    (p0.car 0).state ≠ .presenting ∧ ((presenting0 .step (some (sweep0 2))).car 0).inService = some .step ∧
    (∀ x ∈ [(picking0, 3, pick0), (tasked picking0 3 lastPick, 3, lastPick),
        (putting0, 127, { kind := .put, level := 1, bay := ⟨0, 0, 0⟩, quantity := 1, tyre := some tyre0,
                          state := .presenting })],
      x.2.2.bay = ⟨0, 0, 0⟩ ∧ x.1.position x.2.2.bay < (x.1.baysOf 0).length ∧ (x.1.car 0).profile = some profile0 ∧
      (x.1.car 0).state = .presenting ∧ (x.1.car 0).inService = some (.task x.2.1) ∧ x.1.task x.2.1 = some x.2.2 ∧
      x.2.2.state = .presenting ∧ (x.1.bal 0).fault = false ∧ x.1.waits 0 = false ∧ x.1.outbox.fifo.length ≤ 30 ∧
      x.2.2.taken = 0 ∧ x.2.2.withdrawn = false ∧ (x.2.2.kind = .pick → x.2.2.transit = x.2.2.quantity) ∧
      x.1.consolidation.transit.length < 64 ∧ x.1.audit.list.length < 32) ∧
    picking0.order 5 = some order5 ∧ order5.state ≠ .withdrawn ∧ (picking0.group pick0.ref).isSome = true ∧
    (picking0.bay pick0.bay).tyre = some tyre0 ∧ (picking0.bay pick0.bay).holds.any = false ∧
    pick0.quantity = 2 ∧ lastPick.quantity = 1 := by decide +kernel

theorem wit_LaneArrival :
    (∀ st ∈ [LaneState.filling, .complete, .exception], ∀ n ∈ [0, 1],
      let s := travelling order5 { lane5 st with arrived := n }
      s.lane 0 = some { lane5 st with arrived := n } ∧ s.consolidation.transit = [] ++ entry5 :: [] ∧ entry5.lane = 0 ∧
        entry5.tyre = { article := 7, batch := 2301 } ∧ s.order 5 = some { order5 with held := [] } ∧
        order5.state ≠ .withdrawn) ∧
    (∀ st ∈ [LaneState.free, .filling, .complete, .exception, .returning],
      (travelling order5 (lane5 st)).lane 0 = some (lane5 st)) ∧ entry5.tyre ≠ { article := 7, batch := 2302 } ∧
    0 + 1 ≠ (lane5 .filling).expected ∧ 1 + 1 = (lane5 .filling).expected ∧
    (∀ st ∈ [LaneState.filling, .complete, .exception], let s := travelling withdrawn5 (lane5 st)
      s.lane 0 = some (lane5 st) ∧ s.consolidation.transit = [] ++ entry5 :: [] ∧ s.order 5 = some withdrawn5 ∧
        withdrawn5.state = .withdrawn ∧ withdrawn5.lane = some 0) ∧
    (carrying (travelling withdrawn5 (lane5 .filling)) [entry5, { entry5 with place := 0, serial := 1 }]).consolidation.transit =
      [] ++ entry5 :: [{ entry5 with place := 0, serial := 1 }] := by decide +kernel

/-- R137: with the order's last entry the lane of a WITHDRAWN order enters RETURN. -/
theorem test_arrival_drains :
    ((travelling withdrawn5 (lane5 .filling)).arrival 0 [{ bay := 0, article := 7, batch := 2301, count := 1 }]).lane 0 =
      some { lane5 .returning with arrived := 1 } := by decide +kernel

/-- A tally of one tyre of an article and batch. -/
def one (article batch : Nat) : Tally := { bay := 0, article, batch, count := 1 }

/-- The part with one infeed read waiting and these pending groups of order 5. -/
def infeeding (s : State) (tallies : List Tally) : State :=
  { s with putAway := { s.putAway with reads := [{ tallies, time := 0 }] } }

/-- Order 5 with need in its group. -/
def needing (n : Nat) (w : Option Window) : Order :=
  { order5 with held := [], lines := [{ article := 7, quantity := 2, setSize := 2, groups := [{ number := 0, need := n, window := w }] }] }

theorem wit_InfeedCrossDocks :
    (∀ n ∈ [1, 2], ∀ w ∈ [none, some { low := 2301, high := 2301 }], ∀ q ∈ [0, 31, 32],
      let s := infeeding (ordered (stuffed p0 kindScanCarrier q) [needing n w] [⟨5, 0, 0⟩]) [one 7 2304]
      (roomy s && tidyB s) = true ∧ s.putAway.reads = [{ tallies := [one 7 2304], time := 0 }] ∧
        s.article 7 = some article0 ∧ s.consolidation.transit.length + s.consolidation.reserved < 64 ∧
        s.orderUnit.pending = [] ++ ⟨5, 0, 0⟩ :: [] ∧ (s.group ⟨5, 0, 0⟩).map Group.need = some n ∧
        (s.group ⟨5, 0, 0⟩).map Group.window = some w ∧ s.order 5 = some (needing n w) ∧ (needing n w).lane = some 0 ∧
        s.groupArticle ⟨5, 0, 0⟩ = 7) ∧
    max 2301 2304 - min 2301 2304 ≤ article0.tolerance := by decide +kernel

theorem wit_InfeedPlacesTyre :
    (∀ l ∈ [[one 7 2301], [], [one 7 1, one 7 2], [one 8 1]], (roomy (infeeding ready0 l) && tidyB (infeeding ready0 l)) = true ∧
      (infeeding ready0 l).outbox.fifo.length ≤ 30) ∧
    ready0.article 7 = some article0 ∧ ready0.orderUnit.pending = [] ∧
    ready0.choosePlace article0 tyre0 [] = some ⟨0, 0, 0⟩ ∧ ready0.freeTasks = 0 :: ready0.freeTasks.drop 1 ∧
    ready0.position ⟨0, 0, 0⟩ < (ready0.baysOf 0).length ∧ p0.choosePlace article0 tyre0 [] = none ∧
    ready0.article 8 = none := by decide +kernel

theorem wit_ChosenPlaceIsFirst :
    ready0.choosePlace article0 tyre0 [] = some ⟨0, 0, 0⟩ ∧ p0.choosePlace article0 tyre0 [] = none := by decide +kernel

/-! ### The arithmetic of the balance unit -/

/-- The loads of Table 2-7. -/
def loads27 : Balance := ({} : Balance).formLoads [780, 400, 1296, 590, 400, 400, 848, 400]

/-- The flag set and the state admitted, or not; the flag clear and the state not admitted; a BALANCE-WAIT task that passes,
and work in POWER-WAIT that fails its test, each as a load change of 0 meets it. -/
theorem wit_LoadChangeKeepsSums :
    let flagged := { p0 with balances := p0.balances.modify 0 fun b => { b with fault := true } }
    let waitsFor := tasked (stocked (part { state := .ready, index := some 0, queue2 := [3] }) bay0) 3
      { pick0 with state := .balanceWait, transit := 0 }
    let inPowerWait := graded (tasked (stocked (part { state := .ready, index := some 0, inService := some (.task 3) }) bay0) 3
      { pick0 with state := .powerWait }) { grade0 with total := 0 }
    (∀ s ∈ [flagged, faulted p0, graded p0 { grade0 with total := 0 }, waitsFor, inPowerWait], roomy s = true) ∧
    (flagged.bal 0).fault = true ∧ ((flagged.bal 0).applyChange 0 0).enabledGrades.getLast? = some grade0 ∧
    ((flagged.bal 0).applyChange 0 0).worst ≤ grade0.imbalance ∧ ((flagged.bal 0).applyChange 0 0).total ≤ grade0.total ∧
    (∀ s ∈ [faulted p0, graded p0 { grade0 with total := 0 }],
      ((s.bal 0).applyChange 0 0).enabledGrades.getLast? = some { grade0 with total := 0 } ∧
        0 < ((s.bal 0).applyChange 0 0).total) ∧
    ((faulted p0).bal 0).fault = true ∧ ((graded p0 { grade0 with total := 0 }).bal 0).fault = false ∧
    (waitsFor.car 0).queue2 = [3] ∧ waitsFor.task 3 = some { pick0 with state := .balanceWait, transit := 0 } ∧
    waitsFor.releaseTest { pick0 with state := .balanceWait, transit := 0 } = true ∧
    (inPowerWait.car 0).inService = some (.task 3) ∧ inPowerWait.task 3 = some { pick0 with state := .powerWait } ∧
    inPowerWait.releaseTest { pick0 with state := .powerWait } = false := by decide +kernel

theorem wit_HalfLoopLaws_LoadChangeKeepsSums : loads27.agrees ∧ 7 < loads27.loads.length :=
  ⟨⟨by decide +kernel, by decide +kernel, by decide +kernel, by decide +kernel, by decide +kernel⟩, by decide +kernel⟩

theorem wit_AdmissionIsMonotone :
    let gs := [grade0, { grade0 with imbalance := 2000001 }]
    gradesOrdered gs = true ∧ gs[0]? = some grade0 ∧ grade0.admits 2000000 2000000 = true ∧
      ({ loads27 with grades := gs } : Balance).enabledGrades = gs ∧ loads27.enabledGrades = [] ∧
      (ready0.car 0).profile = some profile0 ∧ ready0.floor 0 = some 0 ∧ ready0.resolveGrade 0 = some grade0 ∧
      gradesOrdered (ready0.bal 0).enabledGrades = true ∧ (graded ready0 grade1).floor 0 = none := by decide +kernel

/-! ### Requests: profiles, ports and resets -/

theorem wit_ProfilesLoad :
    Asks State.reset kindLinkProfile [([254, 1, 240, 0, 3, 255, 255], .linkProfile 254 496 262143),
      ([255, 0, 64, 0, 0, 0, 0], .linkProfile 255 64 0), ([0, 0, 63, 0, 0, 0, 0], .linkProfile 0 63 0)] ∧
    Asks p0 kindLineProfile [([2, 0, 0, 0, 0, 0, 0, 0, 1, 0, 0], .lineProfile 2 none none 256 .forward),
      ([254, 1, 0, 0, 0, 5, 1, 7, 1, 240, 1], .lineProfile 254 (some 5) (some 7) 496 .discard),
      ([50, 1, 0, 0, 0, 4, 0, 0, 1, 0, 0], .lineProfile 50 (some 4) none 256 .forward)] :=
  ⟨asks _ _ _ (by decide +kernel), asks _ _ _ (by decide +kernel)⟩

theorem wit_PortResets_StoreResets :
    Asks (awaiting0 (moving0 .step) (.slot 0)) kindPortReset [([1], .portReset .line), ([0], .portReset .link)] ∧
    Asks p0 kindPortClear [([0], .portClear .link), ([1], .portClear .line)] ∧
    Asks picking0 kindStoreReset [([], .storeReset)] ∧ p0.link.tx.length < 16 :=
  ⟨asks _ _ _ (by decide +kernel), asks _ _ _ (by decide +kernel), asks _ _ _ (by decide +kernel), by decide +kernel⟩

/-! ### Requests: tables -/

/-- Two FILTER entries, the second beyond the table. -/
def filterPair : List (List Byte) := [[1, 0, 9, 0, 255, 0, 0], [1, 0, 9, 0, 255, 0, 0]]

theorem wit_LoadStopsAtFirstRefusal :
    (loadAll State.loadFilter 30 filterPair { state := p0 }).refusal = none ∧
    (loadAll State.loadFilter 31 filterPair { state := p0 }).refusal = some .badValue ∧
    (match State.loadFilter p0 31 (filterPair.getD 0 []) with | .ok _ => true | .error _ => false) = true ∧
    Asks p0 kindTableLoad [(4 :: 0 :: 0 :: 0 :: 31 :: 2 :: filterPair.flatten, .tableLoad .filter 31 filterPair)] :=
  ⟨by decide +kernel, by decide +kernel, by decide +kernel, asks _ _ _ (by decide +kernel)⟩

/-- An ARTICLE entry's bytes. -/
def articleRow (code : Byte) (weight limit tol : Byte) : List Byte := [0, 0, 0, code, 0, weight, limit, tol, 1, 2]

/-- An ARTICLE load of one entry. -/
def articleLoad (bs : List Byte) : List Byte × Request := (0 :: 0 :: 0 :: 0 :: 0 :: 1 :: bs, .tableLoad .article 0 [bs])

theorem wit_ArticleEntryLoads :
    Asks picking0 kindTableLoad ([articleRow 7 80 4 3, articleRow 7 10 1 26, articleRow 8 9 1 0, articleRow 8 10 1 0,
      [0, 0, 0, 7, 0, 0, 0, 0, 0, 0], [0, 0, 0, 8, 0, 0, 0, 0, 0, 0]].map articleLoad) ∧
    Asks p0 kindTableLoad [articleLoad [0, 0, 0, 7, 0, 0, 0, 0, 0, 0]] ∧
    (readArticle (articleRow 8 10 1 0)).map Article.code = some 8 ∧
    picking0.article 7 = some article0 ∧ picking0.article 8 = none ∧ (picking0.bay ⟨0, 0, 0⟩).tyre = some tyre0 :=
  ⟨asks _ _ _ (by decide +kernel), asks _ _ _ (by decide +kernel), by decide +kernel⟩

/-- A load of one entry of a table. -/
def load1 (code : Byte) (t : TableName) (c : Byte) (bs : List Byte) : List Byte × Request :=
  (code :: 0 :: 0 :: 0 :: c :: 1 :: bs, .tableLoad t c.toNat [bs])

theorem wit_CarouselEntryLoads :
    Asks p0 kindTableLoad ([(0 : Byte), 1, 8].map fun c => load1 1 .carousel c (profileBytes profile0)) ∧
    Asks p0 kindTableLoad ([{ profile0 with tare := 101 }, { profile0 with bays := 1 }, { profile0 with drive := 40 },
      { profile0 with carriers := 7 }].map fun p => load1 1 .carousel 0 (profileBytes p)) ∧
    Asks (stocked p0 bay0) kindTableLoad [load1 1 .carousel 0 (profileBytes { profile0 with bays := 1 })] ∧
    Asks ready0 kindTableLoad [load1 1 .carousel 0 (profileBytes profile0)] ∧
    readProfile (profileBytes profile0) = some profile0 ∧ profile0.inRange = true ∧
    { profile0 with carriers := 7 }.inRange = false ∧ p0.bayTotal 0 profile0 ≤ 1920 ∧ p0.waits 0 = false ∧
    (p0.car 0).state = .offline ∧ (p0.car 1).profile = none ∧ (p0.baysOf 1) = [] :=
  ⟨asks _ _ _ (by decide +kernel), asks _ _ _ (by decide +kernel), asks _ _ _ (by decide +kernel),
    asks _ _ _ (by decide +kernel), by decide +kernel⟩

/-- A GRADE entry's bytes: two enabled records with these draws, six disabled. -/
def gradeRows (a b : Nat) : List Byte :=
  gradeBytes { loaded := true, imbalance := 600, total := 6000, power := a, speed := 200 } ++
  gradeBytes { loaded := true, imbalance := 1100, total := 8000, power := b, speed := 255 } ++
  (List.replicate 6 (gradeBytes {})).flatten

theorem wit_GradeEntryLoads :
    Asks p0 kindTableLoad [load1 2 .grade 0 (gradeRows 6000 1), load1 2 .grade 0 (gradeRows 400 401),
      load1 2 .grade 0 (gradeRows 6001 1), load1 2 .grade 8 (gradeRows 2 1), load1 2 .grade 1 (gradeRows 2 1)] ∧
    Asks (faulted p0) kindTableLoad [load1 2 .grade 0 (gradeRows 6000 1)] ∧
    ((readGrades (gradeRows 6000 1)).map List.length) = some 8 ∧ (p0.car 0).profile = some profile0 ∧
    (p0.car 1).profile = none ∧ p0.waits 0 = false :=
  ⟨asks _ _ _ (by decide +kernel), asks _ _ _ (by decide +kernel), by decide +kernel⟩

/-- A STOCK entry of bay 0.0.0. -/
def stockRow (carrier article count holds : Byte) : List Byte :=
  [0, carrier, 0, 0, 0, 0, article, if article = 0 then 0 else 9, if article = 0 then 0 else 0, count, holds]

theorem wit_StockEntryLoads :
    Asks (stocked p0 { bay0 with reserved := 0 }) kindTableLoad ([stockRow 0 7 4 255, stockRow 0 7 1 6, stockRow 0 7 1 7,
      stockRow 0 7 1 8, stockRow 0 7 5 255, stockRow 0 7 0 255, stockRow 0 0 0 0, stockRow 0 9 1 255, stockRow 8 7 1 255].map
        (load1 3 .stock 0)) ∧
    Asks (stocked p0 bay0) kindTableLoad [load1 3 .stock 0 (stockRow 0 7 4 255)] ∧
    Asks ready0 kindTableLoad [load1 3 .stock 0 (stockRow 0 7 4 255)] ∧
    Asks (faulted ready0) kindTableLoad [load1 3 .stock 0 (stockRow 7 7 4 255)] ∧
    (readStock (stockRow 7 7 4 255)).map StockEntry.bay = some ⟨0, 7, 0⟩ ∧ (p0.car 0).state = .offline ∧
    p0.position ⟨0, 0, 0⟩ < (p0.baysOf 0).length ∧ (faulted ready0).hasClaim 0 = false :=
  ⟨asks _ _ _ (by decide +kernel), asks _ _ _ (by decide +kernel), asks _ _ _ (by decide +kernel),
    asks _ _ _ (by decide +kernel), by decide +kernel⟩

theorem wit_FilterEntryLoads :
    Asks p0 kindTableLoad [load1 4 .filter 31 [1, 1, 5, 5, 0x57, 3, 1], load1 4 .filter 32 [1, 1, 5, 5, 0x57, 3, 1],
      load1 4 .filter 0 [1, 1, 6, 5, 0xFF, 0, 0], load1 4 .filter 0 [1, 3, 6, 5, 0xFF, 0, 0]] ∧
    (readFilter [1, 1, 5, 5, 0x57, 3, 1]).isSome = true ∧ (readFilter [1, 3, 6, 5, 0xFF, 0, 0]).isNone = true :=
  ⟨asks _ _ _ (by decide +kernel), by decide +kernel⟩

/-- A site record with other lanes than `site0`. -/
def siteLoad (l : List Byte) : List Byte × Request := load1 5 .site 0 (siteBytes { site0 with laneReaders := l })

/-- The part with no lane free for order 5, which waits for one. -/
def laneWaiting : State :=
  let s := ordered p0 [{ order5 with lane := none, state := .laneWait, held := [] }] []
  { s with
    orderUnit := { s.orderUnit with laneWait := [5] }
    consolidation := { s.consolidation with lanes := List.replicate 2 { state := .exception, order := some 4 } } }

theorem wit_SiteEntryLoads :
    Asks p0 kindTableLoad [siteLoad [101], siteLoad [101, 102, 103], siteLoad [], siteLoad [101, 101], siteLoad [50],
      load1 5 .site 1 (siteBytes site0)] ∧
    Asks laneWaiting kindTableLoad [siteLoad [101], siteLoad [101, 102, 103]] ∧
    readSite (siteBytes site0) = some site0 ∧ laneWaiting.orderUnit.laneWait = [5] ∧
    (laneWaiting.order 5).isSome = true ∧ laneWaiting.consolidation.lanes.length < 3 ∧ p0.orderUnit.laneWait = [] :=
  ⟨asks _ _ _ (by decide +kernel), asks _ _ _ (by decide +kernel), by decide +kernel⟩

theorem wit_FetchesChangeNothing :
    Asks p0 kindTableFetch [([4, 0, 0, 0, 31, 8], .tableFetch .filter 31 8), ([4, 0, 0, 0, 0, 1], .tableFetch .filter 0 1),
      ([4, 0, 0, 0, 0, 0], .tableFetch .filter 0 0), ([4, 0, 0, 0, 32, 1], .tableFetch .filter 32 1),
      ([0, 0, 0, 0, 7, 255], .tableFetch .article 7 255), ([1, 0, 0, 0, 7, 1], .tableFetch .carousel 7 1),
      ([1, 0, 0, 0, 8, 1], .tableFetch .carousel 8 1), ([2, 0, 0, 0, 0, 8], .tableFetch .grade 0 8),
      ([3, 0, 0, 0, 15, 9], .tableFetch .stock 15 9), ([3, 0, 0, 0, 16, 9], .tableFetch .stock 16 9),
      ([5, 0, 0, 0, 0, 1], .tableFetch .site 0 1), ([5, 0, 0, 0, 1, 1], .tableFetch .site 1 1)] ∧
    Asks { p0 with link := { p0.link with profile := some { station := 30, maxPayload := 64, enable := 0, host := 1 } } }
      kindTableFetch [([2, 0, 0, 0, 0, 8], .tableFetch .grade 0 8)] ∧
    Asks p0 kindStatusFetch [([0], .statusFetch .ports), ([1], .statusFetch .power), ([2, 7], .statusFetch (.carousel 7)),
      ([2, 8], .statusFetch (.carousel 8)), ([3], .statusFetch .store)] ∧
    (let crowded := { p0 with
        link := { p0.link with profile := some { station := 30, maxPayload := 64, enable := 0, host := 1 } }
        consolidation := { p0.consolidation with lanes := List.replicate 16 {} } }
     Asks crowded kindStatusFetch [([3], .statusFetch .store)] ∧ 64 ≤ crowded.linkMax ∧
       crowded.linkMax < 3 + 16 * 8 ∧ crowded.consolidation.lanes.length = 16) ∧
    64 ≤ p0.linkMax ∧ p0.filter.length = 32 :=
  ⟨asks _ _ _ (by decide +kernel), asks _ _ _ (by decide +kernel), asks _ _ _ (by decide +kernel),
    ⟨asks _ _ _ (by decide +kernel), by decide +kernel⟩, by decide +kernel⟩

/-- Table 10-4, note on R60: the sweep state of CAROUSEL ends with the policy; a section that does not fit is NO-SPACE. -/
theorem test_status_fetch :
    ((presenting0 .step (some (sweep0 2))).statusFetch (.carousel 0)).fields.getLast? = some 1 ∧
    State.statusFetch { p0 with
        link := { p0.link with profile := some { station := 30, maxPayload := 64, enable := 0, host := 1 } }
        consolidation := { p0.consolidation with lanes := List.replicate 16 {} } } .store = .refused .noSpace := by
  decide +kernel

/-- R177: eight grade tables do not fit 496 bytes, so four come with the start of the next; 64 bytes hold none. -/
theorem test_grade_fetch :
    ((p0.tableFetch .grade 0 8).outcome = .partly ∧ (p0.tableFetch .grade 0 8).fields.take 5 = [4, 0, 0, 0, 4]) ∧
    State.tableFetch { p0 with link := { p0.link with profile := some { station := 30, maxPayload := 64, enable := 0, host := 1 } } }
      .grade 0 8 = .refused .noSpace := by decide +kernel

/-! ### Requests: modes, caps and power -/

/-- The part with the claim of a move kept for carousel 0. -/
def claimed (s : State) : State :=
  { s with power := { s.power with claims := [{ carousel := 0, draw := 100 }] } }

theorem wit_OnlineIsTested :
    Asks p0 kindCarouselMode [([0, 0], .carouselMode 0 .online), ([1, 0], .carouselMode 1 .online),
      ([8, 0], .carouselMode 8 .online)] ∧
    (∀ s ∈ [part { state := .driveFault }, faulted p0, claimed p0, unhomed0, ready0, moving0 .step, picking0],
      Meets s ∧ s.headRequest = none ∧ s.link.unitFree = true) ∧
    (p0.bal 0).enabledGrades ≠ [] ∧ (p0.bal 0).fault = false ∧ (p0.bal 0).admits (p0.bal 0).worst (p0.bal 0).total = true ∧
    p0.hasClaim 0 = false ∧ (claimed p0).hasClaim 0 = true ∧ ((faulted p0).bal 0).fault = true ∧
    (p0.car 0).profile = some profile0 ∧ (p0.car 1).profile = none ∧
    (part { state := .driveFault }).power = p0.power := by
  refine ⟨asks _ _ _ (by decide +kernel), fun s hs => ⟨meets _ (by decide +kernel) s hs, ?_⟩, by decide +kernel⟩
  revert s
  decide +kernel

theorem wit_ModesTakeOutOfService :
    Asks (part { state := .unhomed, faultPending := true }) kindCarouselMode [([0, 1], .carouselMode 0 .offline),
      ([0, 2], .carouselMode 0 .manual), ([8, 1], .carouselMode 8 .offline)] ∧
    Asks (part { state := .manual, index := some 3 }) kindCarouselMode [([0, 2], .carouselMode 0 .manual)] ∧
    Asks picking0 kindCarouselMode [([0, 1], .carouselMode 0 .offline)] ∧
    Asks (part { state := .ready, index := some 3, sweep := some (sweep0 3) }) kindCarouselMode
      [([0, 1], .carouselMode 0 .offline), ([0, 2], .carouselMode 0 .manual)] ∧
    (∀ s ∈ [part { state := .unhomed, faultPending := true }, part { state := .ready, index := some 3, sweep := some (sweep0 3) }],
      s.orderUnit.pool = List.replicate 128 none ∧ (s.car 0).inService ≠ some .step ∧ s.hasClaim 0 = false) :=
  ⟨asks _ _ _ (by decide +kernel), asks _ _ _ (by decide +kernel), asks _ _ _ (by decide +kernel),
    asks _ _ _ (by decide +kernel), by decide +kernel⟩

/-- The part with carousel 0 waiting for power with a step. -/
def powerWaiting : State :=
  let s := part { state := .ready, index := some 0, inService := some .step, sweep := some (sweep0 2) }
  { s with power := { target := 50, budget := 50, waitList := [{ carousel := 0, level := 0, sequence := 0 }], nextSequence := 1 } }

theorem wit_CapAndBudgetMakeOfferPass :
    Asks p0 kindGradeCap [([7, 7], .gradeCap 7 7), ([8, 0], .gradeCap 8 0), ([0, 8], .gradeCap 0 8)] ∧
    Asks powerWaiting kindGradeCap [([0, 7], .gradeCap 0 7)] ∧
    Asks powerWaiting kindPowerBudget [([0, 100], .powerBudget 100), ([0, 0], .powerBudget 0)] ∧
    Asks p0 kindPowerBudget [([255, 255], .powerBudget 65535)] ∧ p0.power.waitList = [] :=
  ⟨asks _ _ _ (by decide +kernel), asks _ _ _ (by decide +kernel), asks _ _ _ (by decide +kernel),
    asks _ _ _ (by decide +kernel), by decide +kernel⟩

/-- A queued pick at carousel 0, at its index, with a sweep behind it. -/
def serving0 (sweep : Option SweepContext) : State :=
  tasked (stocked (part { state := .ready, index := some 0, queue2 := [3], sweep }) bay0) 3
    { pick0 with state := .queued, transit := 0 }

theorem wit_ServicePointServes :
    (∀ s ∈ [p0, ready0, serving0 none, powerWaiting, part { state := .ready, index := some 0, sweep := some (sweep0 2) }],
      Meets s) ∧
    (p0.car 0).state ≠ .ready ∧ (ready0.car 0).state = .ready ∧ (ready0.car 0).inService = none ∧
    (ready0.car 0).sweep = none ∧ (ready0.car 0).queue3 ++ (ready0.car 0).queue2 ++ (ready0.car 0).queue1 = [] ∧
    ((serving0 none).car 0).inService = none ∧ ((serving0 none).car 0).queue2 = [3] ∧
    (serving0 none).task 3 = some { pick0 with state := .queued, transit := 0 } ∧
    ((serving0 none).car 0).index = some pick0.bay.carrier ∧
    ((serving0 none).bal 0).enabledGrades.getLast? = some grade0 ∧
    (stateOf (((serving0 none).bal 0).loads.modify 0 (· - 160))).1 ≤ grade0.imbalance ∧
    (stateOf (((serving0 none).bal 0).loads.modify 0 (· - 160))).2 ≤ grade0.total ∧
    ((graded (serving0 none) grade1).bal 0).enabledGrades.getLast? = some grade1 ∧
    grade1.total < (stateOf (((serving0 none).bal 0).loads.modify 0 (· - 160))).2 ∧
    (serving0 none).consolidation.transit.length + (serving0 none).consolidation.reserved + 2 ≤ 64 ∧
    ((part { state := .ready, index := some 0, sweep := some (sweep0 2) }).car 0).sweep = some (sweep0 2) ∧
    ready0.lineHeld = false ∧ (ready0.bal 0).cooling = false ∧
    (∀ s ∈ [picking0, stuffed picking0 kindIndicate 32, stuffed picking0 kindScanCarrier 32],
      (s.car 0).inService = some (.task 3) ∧ s.task 3 = some pick0 ∧ (s.car 0).profile = some profile0) ∧
    (putting0.car 0).inService = some (.task 127) ∧ (putting0.task 127).map Task.kind = some .put ∧
    (putting0.car 0).profile = some profile0 ∧ powerWaiting.power.waitList ≠ [] :=
  ⟨meets _ (by decide +kernel), by decide +kernel⟩

/-! ### Requests: orders, allocation and lanes -/

theorem wit_AllocationDraws :
    (∀ s ∈ [needing2 p0, needing2 ready0], roomy s = true ∧ (s.order 5).isSome = true ∧
      (s.group ⟨5, 0, 0⟩).map Group.need = some 2) ∧
    (needing2 p0).candidates 7 2 none [] = [] ∧
    (needing2 ready0).candidates 7 2 none [] = [{ bay := ⟨0, 0, 0⟩, batch := 2301, available := 3 }] ∧
    ((List.range 128).filter fun id => ((needing2 ready0).task id).isNone).length = 128 := by decide +kernel

/-- An ORDER-PLACE of order 5 with one line. -/
def placing (policy : Byte) (p : ShortPolicy) (article : Byte) (quantity setSize : Byte) : List Byte × Request :=
  ([0, 0, 0, 5, 1, policy, 1, 0, 0, 0, article, quantity, setSize],
    .orderPlace 5 .rush p [{ article := article.toNat, quantity := quantity.toNat, setSize := setSize.toNat }])

theorem wit_OrderPlaceIsTested :
    Asks (stocked ready0 { bay0 with reserved := 0 }) kindOrderPlace [placing 0 .wait 7 16 4, placing 0 .wait 7 1 1, placing 1 .part 7 2 2,
      placing 1 .part 7 4 4, placing 0 .wait 7 17 1, placing 0 .wait 7 6 4, placing 0 .wait 8 4 4] ∧
    Asks laneWaiting kindOrderPlace [placing 0 .wait 7 4 4] ∧ ready0.order 5 = none ∧ laneWaiting.order 5 ≠ none ∧
    ready0.freeLane = some 0 ∧ laneWaiting.freeLane = none :=
  ⟨asks _ _ _ (by decide +kernel), asks _ _ _ (by decide +kernel), by decide +kernel⟩

/-- The groups left short as order 6 is placed, two sets of two of article 7. -/
def shortAt (s : State) : List GroupRef :=
  let o := newOrder 6 .rush .wait [{ article := 7, quantity := 4, setSize := 2 }]
  (allocateEach o.refs (State.seatOrder { s with orderUnit := { s.orderUnit with orders := s.orderUnit.orders ++ [o] } } 6) []).2

/-- No group short, one of two, both; with a free lane and with none; each policy asked. -/
theorem wit_OrderPlaceIsTested_short :
    let payload := fun policy : Byte => [0, 0, 0, 6, 1, policy, 1, 0, 0, 0, 7, 4, 2]
    let request := fun p => Request.orderPlace 6 .rush p [{ article := 7, quantity := 4, setSize := 2 }]
    (∀ s ∈ [stocked ready0 { bay0 with count := 4, reserved := 0 }, stocked ready0 { bay0 with reserved := 0 }, ready0,
        laneWaiting],
      (roomy s && tidyB s && s.link.unitFree) = true ∧ s.order 6 = none ∧ s.orderUnit.pending = []) ∧
    (∀ x ∈ [((0 : Byte), ShortPolicy.wait), (1, .part)],
      readRequest (ask kindOrderPlace (payload x.1)) = some (request x.2)) ∧
    shortAt (stocked ready0 { bay0 with count := 4, reserved := 0 }) = [] ∧
    shortAt (stocked ready0 { bay0 with reserved := 0 }) = [⟨6, 0, 1⟩] ∧
    shortAt ready0 = [⟨6, 0, 0⟩, ⟨6, 0, 1⟩] ∧ shortAt laneWaiting = [⟨6, 0, 0⟩, ⟨6, 0, 1⟩] ∧
    ready0.freeLane = some 0 ∧ laneWaiting.freeLane = none ∧ laneWaiting.orderUnit.laneWait = [5] ∧
    (laneWaiting.order 5).map Order.priority = some .normal := by decide +kernel

theorem wit_OrderWithdraws :
    Asks picking0 kindOrderWithdraw [([0, 0, 0, 5], .orderWithdraw 5), ([0, 0, 0, 6], .orderWithdraw 6)] ∧
    Asks (travelling withdrawn5 (lane5 .returning)) kindOrderWithdraw [([0, 0, 0, 5], .orderWithdraw 5)] ∧
    Asks laneWaiting kindOrderWithdraw [([0, 0, 0, 5], .orderWithdraw 5)] ∧
    picking0.order 5 = some order5 ∧ (∀ id t, picking0.task id = some t → t.state ≠ .ended) ∧
    (laneWaiting.order 5).map Order.lane = some none :=
  ⟨asks _ _ _ (by decide +kernel), asks _ _ _ (by decide +kernel), asks _ _ _ (by decide +kernel), by decide +kernel,
    tasks_all _ _ (by decide +kernel), by decide +kernel⟩

/-- A task of the withdrawn order 5 in a state, its carousel as given. -/
def taskIn (k : Carousel) (st : TaskState) : State :=
  tasked (ordered (stocked (part k) bay0) [withdrawn5] []) 3 { pick0 with state := st }

/-- Table 5-12, a task in each state; MOVING with its MOVE unsent, chosen, and gone; PRESENTING with and without the mark. -/
theorem wit_OrderWithdraws_task :
    let moving : Carousel :=
      { state := .moving, index := some 0, inService := some (.task 3)
        move := some { target := 0, start := 4, ascending := true, distance := 4, draw := 100 } }
    let slotted := fun chosen : Bool =>
      (taskIn moving .moving).setSlot 0 (some { frame := { dest := 50, kind := kindMove, tag := 0, payload := [] }, level := 2, chosen })
    let l := [(taskIn { state := .ready, queue2 := [3] } .queued, TaskState.queued), (taskIn { state := .ready, queue2 := [3] } .balanceWait, .balanceWait),
      (taskIn { state := .ready, inService := some (.task 3) } .powerWait, .powerWait),
      (taskIn { state := .ready, parked := [3] } .stalled, .stalled), (slotted false, .moving), (slotted true, .moving),
      (taskIn moving .moving, .moving),
      (taskIn { state := .presenting, inService := some (.task 3), presentationTimer := some 1 } .presenting, .presenting),
      (taskIn { state := .presenting, inService := some (.task 3), faultPending := true } .presenting, .presenting),
      (taskIn {} .ended, .ended)]
    (∀ x ∈ l, roomy x.1 = true ∧ x.1.task 3 = some { pick0 with state := x.2 } ∧ (x.1.car 0).profile = some profile0 ∧
      x.1.position pick0.bay < (x.1.baysOf 0).length ∧ (x.1.order 5).map Order.state = some .withdrawn ∧ x.1.waits 0 = false) ∧
    pick0.kind = .pick ∧ pick0.withdrawn = false ∧ pick0.order = 5 ∧ pick0.bay.carousel < 8 ∧
    ((slotted false).slot 0).map SlotMove.chosen = some false ∧ ((slotted true).slot 0).map SlotMove.chosen = some true ∧
    ((taskIn moving .moving).slot 0) = none := by decide +kernel

theorem wit_LaneReleases :
    Asks p0 kindLaneRelease [([0], .laneRelease 0), ([2], .laneRelease 2)] ∧
    (∀ st ∈ [LaneState.filling, .complete, .exception, .returning], (roomy (travelling order5 (lane5 st)) &&
      tidyB (travelling order5 (lane5 st))) = true ∧ (travelling order5 (lane5 st)).lane 0 = some (lane5 st) ∧
      (travelling order5 (lane5 st)).order 5 = some { order5 with held := [] } ∧
      (travelling order5 (lane5 st)).orderUnit.laneWait = []) ∧
    Asks (travelling order5 (lane5 .complete)) kindLaneRelease [([0], .laneRelease 0)] ∧
    Asks (travelling order5 (lane5 .filling)) kindLaneRelease [([0], .laneRelease 0)] ∧
    Asks (carrying (travelling withdrawn5 (lane5 .filling)) []) kindLaneRelease [([0], .laneRelease 0)] ∧
    p0.lane 2 = none ∧ p0.lane 0 = some {} :=
  ⟨asks _ _ _ (by decide +kernel), by decide +kernel, asks _ _ _ (by decide +kernel), asks _ _ _ (by decide +kernel),
    asks _ _ _ (by decide +kernel), by decide +kernel⟩

/-- Lane 0 complete, its order's tasks presented and queued, order 6 waiting for a lane with a task held. -/
def offered : State :=
  let s := laned (tasked picking0 9 { pick0 with state := .queued, transit := 0 }) (lane5 .complete)
  let t := tasked s 4 { pick0 with order := 6, state := .queued, transit := 0 }
  { t with orderUnit := { t.orderUnit with
      orders := t.orderUnit.orders ++ [{ order5 with number := 6, lane := none, state := .laneWait, held := [4] }]
      laneWait := [6] } }

theorem wit_LaneReleases_offer :
    Asks offered kindLaneRelease [([0], .laneRelease 0)] ∧ offered.lane 0 = some (lane5 .complete) ∧
      offered.order 5 = some order5 ∧ order5.lane = some 0 ∧ order5.state ≠ .withdrawn ∧ offered.tasksOf 5 = [3, 9] ∧
      (offered.order 6).map Order.held = some [4] ∧ offered.orderUnit.laneWait = [6] :=
  ⟨asks _ _ _ (by decide +kernel), by decide +kernel⟩

/-! ### Requests: holds, audits and tasks -/

theorem wit_HoldRangeCoversRange :
    Asks picking0 kindHoldRange [([0, 0, 1, 240, 0], .holdRange 0 1 240 true), ([0, 0, 0, 16, 0], .holdRange 0 0 16 true),
      ([0, 0, 0, 16, 1], .holdRange 0 0 16 false), ([0, 0, 15, 1, 0], .holdRange 0 15 1 true),
      ([0, 0, 16, 1, 0], .holdRange 0 16 1 true), ([0, 0, 0, 0, 0], .holdRange 0 0 0 true),
      ([0, 0, 0, 241, 0], .holdRange 0 0 241 true), ([1, 0, 0, 1, 0], .holdRange 1 0 1 true),
      ([8, 0, 0, 1, 0], .holdRange 8 0 1 true)] ∧
    Asks picking0 kindHoldRange [([0, 0, 0, 1, 2], .holdRangeOther 0), ([1, 0, 0, 1, 2], .holdRangeOther 1),
      ([8, 0, 0, 1, 255], .holdRangeOther 8)] ∧
    (picking0.baysOf 0).length = 16 ∧ picking0.inServiceBay 0 = some (picking0.bayAt 0 0) ∧
    (∀ p < 16, 1 ≤ p → picking0.inServiceBay 0 ≠ some (picking0.bayAt 0 p)) ∧
    (∀ id t, picking0.task id = some t → t.state = .powerWait → t.bay.carousel ≠ 0) ∧ (picking0.car 1).profile = none :=
  ⟨asks _ _ _ (by decide +kernel), asks _ _ _ (by decide +kernel), by decide +kernel, by decide +kernel, by decide +kernel,
    tasks_all _ _ (by decide +kernel), by decide +kernel⟩

/-- A CLEAR over bays with no reason, over a bay that MGMT alone holds, and over one that SERVICE holds too. -/
theorem wit_HoldRangeCoversRange_clear :
    (∀ h ∈ [({} : Holds), { mgmt := true }, { mgmt := true, service := true }],
      let s := stocked ready0 { bay0 with reserved := 0, holds := h }
      (roomy s && tidyB s && s.link.unitFree) = true ∧ (s.baysOf 0).length = 16 ∧ (s.car 0).profile ≠ none ∧
        { (((s.baysOf 0).getD 0 {}).holds) with mgmt := false } = { h with mgmt := false }) ∧
    readRequest (ask kindHoldRange [0, 0, 0, 1, 1]) = some (.holdRange 0 0 1 false) := by decide +kernel

/-- R16: a CLEAR asks for the retry where it leaves a bay with an empty hold set, one that was empty before it among them. -/
theorem test_clear_retries :
    let t := fun h => ((stocked ready0 { bay0 with reserved := 0, holds := h }).holdRangeClear 0 0 1).1.orderUnit.retry
    t {} = .all ∧ t { mgmt := true } = .all ∧ t { mgmt := true, service := true } = .none := by decide +kernel

theorem wit_SeizeAndUnseize :
    Asks picking0 kindBaySeize [([0, 0, 0], .baySeize ⟨0, 0, 0⟩), ([0, 7, 1], .baySeize ⟨0, 7, 1⟩),
      ([0, 0, 2], .baySeize ⟨0, 0, 2⟩)] ∧
    Asks picking0 kindBayUnseize [([0, 7, 1], .bayUnseize ⟨0, 7, 1⟩), ([0, 0, 2], .bayUnseize ⟨0, 0, 2⟩)] ∧
    Asks picking0 kindBaySeize [([0, 8, 0], .baySeize ⟨0, 8, 0⟩), ([1, 0, 0], .baySeize ⟨1, 0, 0⟩),
      ([8, 0, 0], .baySeize ⟨8, 0, 0⟩)] ∧
    Asks picking0 kindBayUnseize [([0, 8, 0], .bayUnseize ⟨0, 8, 0⟩), ([1, 0, 0], .bayUnseize ⟨1, 0, 0⟩),
      ([8, 0, 0], .bayUnseize ⟨8, 0, 0⟩)] ∧
    profile0.carriers = 8 ∧ profile0.bays = 2 ∧ (picking0.car 0).profile = some profile0 ∧ (picking0.car 1).profile = none ∧
    Asks (stocked p0 { bay0 with holds := { service := true } }) kindBayUnseize [([0, 0, 0], .bayUnseize ⟨0, 0, 0⟩)] ∧
    Asks (stocked p0 { bay0 with holds := { service := true } }) kindBaySeize [([0, 0, 0], .baySeize ⟨0, 0, 0⟩)] ∧
    (∀ id ∈ [(⟨0, 0, 0⟩ : BayId), ⟨0, 7, 1⟩, ⟨0, 0, 2⟩], picking0.position id < (picking0.baysOf 0).length) ∧
    picking0.bayExists ⟨0, 7, 1⟩ = true ∧ picking0.bayExists ⟨0, 0, 2⟩ = false ∧
    picking0.inServiceBay 0 = some ⟨0, 0, 0⟩ ∧ (picking0.bay ⟨0, 7, 1⟩).holds.any = false :=
  ⟨asks _ _ _ (by decide +kernel), asks _ _ _ (by decide +kernel), asks _ _ _ (by decide +kernel),
    asks _ _ _ (by decide +kernel), by decide +kernel, by decide +kernel, by decide +kernel, by decide +kernel, asks _ _ _ (by decide +kernel),
    asks _ _ _ (by decide +kernel), by decide +kernel⟩

theorem wit_AuditsStartAndStop :
    Asks ready0 kindAuditStart [([0, 0, 7, 0], .auditStart 0 0 7 .correct), ([0, 7, 6, 1], .auditStart 0 7 6 .report),
      ([0, 8, 0, 1], .auditStart 0 8 0 .report), ([1, 0, 0, 1], .auditStart 1 0 0 .report),
      ([8, 0, 0, 1], .auditStart 8 0 0 .report)] ∧
    Asks powerWaiting kindAuditStart [([0, 0, 7, 0], .auditStart 0 0 7 .correct)] ∧
    Asks ready0 kindAuditStop [([0], .auditStop 0), ([8], .auditStop 8)] ∧ Asks powerWaiting kindAuditStop [([0], .auditStop 0)] ∧
    Asks (reading0 2 1 false) kindAuditStop [([0], .auditStop 0)] ∧ (ready0.car 0).sweep = none ∧
    (powerWaiting.car 0).sweep = some (sweep0 2) ∧ ready0.carriersOf 0 = 8 :=
  ⟨asks _ _ _ (by decide +kernel), asks _ _ _ (by decide +kernel), asks _ _ _ (by decide +kernel),
    asks _ _ _ (by decide +kernel), asks _ _ _ (by decide +kernel), by decide +kernel⟩

/-- The part with two discrepancy entries of bay 0.0.0. -/
def listed (s : State) (l : List Discrepancy) : State :=
  { s with audit := { s.audit with list := l } }

/-- The bay of those entries, held for its audit. -/
def audited0 : State :=
  listed (stocked ready0 { bay0 with reserved := 0, holds := { audit := true } }) [entry0, { entry0 with number := 0, kind := .unread }]

theorem wit_ResolveRemovesEntry :
    Asks audited0 kindDiscrepancyResolve [([255, 0], .resolve 255 .acceptFound), ([255, 1], .resolve 255 .keepRecorded),
      ([0, 0], .resolve 0 .acceptFound), ([7, 0], .resolve 7 .acceptFound),
      ([255, 2, 0, 0, 0, 7, 8, 253, 4], .resolve 255 (.set 7 2301 4)), ([0, 2, 0, 0, 0, 0, 0, 0, 0], .resolve 0 (.set 0 0 0)),
      ([0, 2, 0, 0, 0, 8, 0, 0, 1], .resolve 0 (.set 8 0 1)), ([0, 2, 0, 0, 0, 7, 0, 0, 5], .resolve 0 (.set 7 0 5)),
      ([0, 2, 0, 0, 0, 7, 0, 0, 0], .resolve 0 (.set 7 0 0))] ∧
    Asks (listed (stocked { p0 with articles := [{ article0 with stackLimit := 3 }] } { bay0 with reserved := 0, incoming := 1 })
      [entry0]) kindDiscrepancyResolve
      [([255, 0], .resolve 255 .acceptFound), ([255, 2, 0, 0, 0, 7, 8, 253, 4], .resolve 255 (.set 7 2301 4)),
        ([255, 2, 0, 0, 0, 7, 8, 253, 3], .resolve 255 (.set 7 2301 3)),
        ([255, 2, 0, 0, 0, 7, 0, 1, 1], .resolve 255 (.set 7 1 1))] ∧
    Asks (listed picking0 [entry0]) kindDiscrepancyResolve [([255, 1], .resolve 255 .keepRecorded)] ∧
    Asks (listed p0 [{ entry0 with carousel := 1 }]) kindDiscrepancyResolve [([255, 1], .resolve 255 .keepRecorded)] ∧
    entry0 ∈ audited0.audit.list ∧ audited0.bayExists (audited0.bayAt 0 0) = true ∧ entry0.position < (audited0.baysOf 0).length ∧
    (audited0.bay (audited0.bayAt 0 0)).incoming = 0 ∧ audited0.stackLimit 7 = 4 ∧ (audited0.article 7).isSome = true ∧
    (audited0.car 0).state = .ready ∧ audited0.hasClaim 0 = false ∧ p0.bayExists (p0.bayAt 1 0) = false :=
  ⟨asks _ _ _ (by decide +kernel), asks _ _ _ (by decide +kernel), asks _ _ _ (by decide +kernel), asks _ _ _ (by decide +kernel), by decide +kernel⟩

/-- The part with the last task record parked. -/
def parked0 (t : Task) : State :=
  let s := part { state := .ready, index := some 0, parked := [127] }
  tasked (stocked s { bay0 with incoming := 1 }) 127 { t with state := .stalled, transit := 0 }

theorem wit_TasksStallAndAreSettled_requests :
    (∀ k ∈ [(kindTaskRepresent, Request.taskRepresent), (kindTaskAbandon, Request.taskAbandon)],
      (roomy (parked0 pick0) && tidyB (parked0 pick0)) = true ∧
      (readRequest (ask k.1 [127]) = some (k.2 127) ∧ readRequest (ask k.1 [128]) = some (k.2 128))) ∧
    Asks (parked0 pick0) kindTaskRepresent [([127], .taskRepresent 127), ([128], .taskRepresent 128), ([0], .taskRepresent 0)] ∧
    Asks (parked0 pick0) kindTaskAbandon [([127], .taskAbandon 127)] ∧
    Asks (parked0 (put0 .stalled .expired)) kindTaskAbandon [([127], .taskAbandon 127)] ∧
    (parked0 pick0).task 127 = some { pick0 with state := .stalled, transit := 0 } ∧ (parked0 pick0).task 0 = none ∧
    (parked0 pick0).position pick0.bay < ((parked0 pick0).baysOf 0).length :=
  ⟨by decide +kernel, asks _ _ _ (by decide +kernel), asks _ _ _ (by decide +kernel), asks _ _ _ (by decide +kernel),
    by decide +kernel⟩

theorem wit_BadFormatAnswered :
    (asking p0 (ask 0x58 [])).link.unitFree = true ∧ readRequest (ask 0x58 []) = none ∧
      readRequest (ask kindGradeCap [0]) = none ∧ p0.link.tx.length < 16 ∧
    Asks p0 kindLineProfile [([2, 0, 0, 0, 0, 0, 0, 0, 1, 0, 2], .outsideList kindLineProfile)] ∧
    (∀ k ∈ [kindPortClear, kindPortReset], Asks p0 k [([2], .outsideList k)]) ∧
    Asks p0 kindStatusFetch [([4], .outsideList kindStatusFetch)] ∧
    Asks p0 kindCarouselMode [([0, 3], .outsideList kindCarouselMode)] ∧
    Asks p0 kindOrderPlace [([0, 0, 0, 5, 2, 0, 0], .outsideList kindOrderPlace)] ∧
    Asks p0 kindAuditStart [([0, 0, 1, 2], .outsideList kindAuditStart)] ∧
    Asks p0 kindDiscrepancyResolve [([0, 3], .outsideList kindDiscrepancyResolve)] :=
  ⟨by decide +kernel, by decide +kernel, by decide +kernel, by decide +kernel, asks _ _ _ (by decide +kernel),
    fun k hk => by
      simp only [List.mem_cons, List.not_mem_nil, or_false] at hk
      rcases hk with rfl | rfl <;> exact asks _ _ _ (by decide +kernel),
    asks _ _ _ (by decide +kernel), asks _ _ _ (by decide +kernel), asks _ _ _ (by decide +kernel),
    asks _ _ _ (by decide +kernel), asks _ _ _ (by decide +kernel)⟩

end Sys2Proof.Tests
end

section
/-! The rooms and keys of the tables (O5): each change that `Closed` lists keeps them. -/

namespace Sys2Proof.Machine

/-! ## The article table (R3) -/

theorem mem_insertArticle (a x : Article) (l : List Article) (h : x ∈ insertArticle a l) : x = a ∨ x ∈ l := by
  induction l with
  | nil => exact .inl (List.mem_singleton.1 h)
  | cons y ys ih =>
    unfold insertArticle at h
    split at h
    · exact List.mem_cons.1 h
    · split at h
      · exact (List.mem_cons.1 h).imp_right (List.mem_cons_of_mem y)
      · rcases List.mem_cons.1 h with rfl | h
        · exact .inr List.mem_cons_self
        · exact (ih h).imp_right (List.mem_cons_of_mem y)

/-- A table in ascending order stays so. -/
theorem insertArticle_sorted (a : Article) (l : List Article) (h : l.Pairwise fun x y => x.code < y.code) :
    (insertArticle a l).Pairwise fun x y => x.code < y.code := by
  induction l with
  | nil => exact List.pairwise_singleton _ _
  | cons y ys ih =>
    obtain ⟨first, rest⟩ := List.pairwise_cons.1 h
    unfold insertArticle
    split
    · next lt =>
      refine List.pairwise_cons.2 ⟨fun x hx => ?_, h⟩
      rcases List.mem_cons.1 hx with rfl | hx
      · exact lt
      · exact lt.trans (first x hx)
    · split
      · next eq => exact List.pairwise_cons.2 ⟨fun x hx => eq ▸ first x hx, rest⟩
      · next ne =>
        refine List.pairwise_cons.2 ⟨fun x hx => ?_, ih rest⟩
        rcases mem_insertArticle a x ys hx with rfl | hx
        · omega
        · exact first x hx

/-- An entry of an ascending table is found by its code. -/
theorem find_insertArticle (a : Article) (l : List Article) (h : l.Pairwise fun x y => x.code < y.code) (code : Nat) :
    (insertArticle a l).find? (fun x => x.code == code) =
      if code = a.code then some a else l.find? fun x => x.code == code := by
  induction l with
  | nil => by_cases e : code = a.code <;> simp [insertArticle, e, Ne.symm]
  | cons y ys ih =>
    obtain ⟨first, rest⟩ := List.pairwise_cons.1 h
    unfold insertArticle
    split
    · by_cases e : code = a.code
      · simp [e]
      · rw [List.find?_cons_of_neg (by simpa using Ne.symm e), if_neg e]
    · split
      · next eq =>
        by_cases e : code = a.code
        · simp [e]
        · rw [List.find?_cons_of_neg (by simpa using Ne.symm e), if_neg e,
            List.find?_cons_of_neg (by simpa [← eq] using Ne.symm e)]
      · next ne =>
        rw [List.find?_cons, List.find?_cons, ih rest]
        by_cases e : y.code = code
        · have other : code ≠ a.code := by omega
          simp [e, other]
        · have : (y.code == code) = false := by simpa using e
          simp [this]

/-- An ascending table gains a place exactly for a code it does not hold. -/
theorem length_insertArticle (a : Article) (l : List Article) (h : l.Pairwise fun x y => x.code < y.code) :
    (insertArticle a l).length = if l.find? (fun x => x.code == a.code) = none then l.length + 1 else l.length := by
  induction l with
  | nil => rfl
  | cons y ys ih =>
    obtain ⟨first, rest⟩ := List.pairwise_cons.1 h
    unfold insertArticle
    split
    · next lt =>
      rw [if_pos]
      · rfl
      · refine List.find?_eq_none.2 fun x hx => ?_
        rcases List.mem_cons.1 hx with rfl | hx
        · simpa using lt.ne'
        · simpa using (lt.trans (first x hx)).ne'
    · split
      · next eq => simp [eq]
      · next ne =>
        rw [List.find?_cons_of_neg (by simpa using Ne.symm ne), List.length_cons, ih rest]
        split <;> rfl

/-! ## The discrepancy list (R150) -/

theorem nextNumber_lt (a : AuditUnit) : a.nextNumber < 256 := by
  unfold AuditUnit.nextNumber
  dsimp only
  cases e : List.find? (fun n => !(a.list.any fun x => x.number == n))
      ((List.range 256).map fun k => (a.entryCounter + 1 + k) % 256) with
  | none => exact Nat.mod_lt _ (by decide)
  | some n =>
    obtain ⟨k, _, rfl⟩ := List.mem_map.1 (List.mem_of_find?_eq_some e)
    exact Nat.mod_lt _ (by decide)

/-- A list with room leaves one of the 256 numbers free, and the next number is free. -/
theorem nextNumber_free (a : AuditUnit) (room : a.list.length < 256) : a.nextNumber ∉ a.list.map Discrepancy.number := by
  unfold AuditUnit.nextNumber
  dsimp only
  cases e : List.find? (fun n => !(a.list.any fun x => x.number == n))
      ((List.range 256).map fun k => (a.entryCounter + 1 + k) % 256) with
  | some n =>
    have free := List.find?_some e
    simpa using free
  | none =>
    have every : List.range 256 ⊆ a.list.map Discrepancy.number := by
      intro n hn
      have hn := List.mem_range.1 hn
      have taken := List.find?_eq_none.1 e n (List.mem_map.2
        ⟨(n + 256 - (a.entryCounter + 1) % 256) % 256, List.mem_range.2 (Nat.mod_lt _ (by decide)), by omega⟩)
      simpa using taken
    have := (List.nodup_range.subperm every).length_le
    simp only [List.length_range, List.length_map] at this
    omega

/-! ## Orders (R90, R93) -/

/-- A change of one order that keeps its number keeps every number. -/
theorem numbers_modOrder (s : State) (n : Nat) (f : Order → Order) (h : ∀ o, (f o).number = o.number) :
    (s.modOrder n f).orderUnit.orders.map Order.number = s.orderUnit.orders.map Order.number := by
  rw [State.modOrder_orderUnit, List.map_map]
  refine List.map_congr_left fun o _ => ?_
  simp only [Function.comp_apply]
  split
  · exact h o
  · rfl

/-! ## Every change -/

/-- A key that a list does not hold may join it. -/
theorem nodup_map_append {α β : Type} (key : α → β) (l : List α) (x : α) (h : (l.map key).Nodup)
    (new : key x ∉ l.map key) : ((l ++ [x]).map key).Nodup := by
  rw [List.map_append, List.map_singleton, ← List.concat_eq_append, List.nodup_concat]
  exact ⟨new, h⟩

theorem le_of_within {n m k : Nat} (h : n ≤ m ∨ n ≤ k) (hm : m ≤ k) : n ≤ k :=
  h.elim (·.trans hm) id

/-- The rooms and keys of the tables stand through every change a step is made of. -/
theorem closed_tables : Closed fun s => s.bounded ∧ s.keyed where
  now := fun _ _ ⟨b, k⟩ => ⟨{ b with }, { k with }⟩
  choices := fun _ _ ⟨b, k⟩ => ⟨{ b with }, { k with }⟩
  agenda := fun _ _ ⟨b, k⟩ => ⟨{ b with }, { k with }⟩
  pending := fun _ _ ⟨b, k⟩ => ⟨{ b with }, { k with }⟩
  putAway := fun _ _ ⟨b, k⟩ => ⟨{ b with }, { k with }⟩
  consolidation := fun _ _ lanes _ ⟨b, k⟩ => ⟨{ b with lanes := lanes.elim (·.le.trans b.lanes) id }, { k with }⟩
  cars := fun _ _ _ ⟨b, k⟩ => ⟨{ b with eight := by simpa using b.eight }, { k with }⟩
  bals := fun _ _ _ ⟨b, k⟩ => ⟨{ b with eight := by simpa using b.eight }, { k with }⟩
  bay := fun _ _ _ _ ⟨b, k⟩ => ⟨{ b with eight := by simpa using b.eight }, { k with }⟩
  formBays := fun _ _ _ ⟨b, k⟩ => ⟨{ b with eight := by simpa using b.eight }, { k with }⟩
  pool := fun _ _ _ ⟨b, k⟩ => ⟨{ b with pool := by simpa using b.pool }, { k with }⟩
  waiting := fun _ _ _ _ ⟨b, k⟩ => ⟨{ b with }, { k with }⟩
  modOrder := fun s n f h ⟨b, k⟩ =>
    ⟨{ b with orders := by simpa using b.orders }, { k with orders := by rw [numbers_modOrder s n f h]; exact k.orders }⟩
  removeOrder := fun s n ⟨b, k⟩ =>
    ⟨{ b with orders := (List.length_filter_le _ _).trans b.orders },
      { k with orders := k.orders.sublist (List.filter_sublist.map _) }⟩
  addOrder := fun s o room fresh ⟨b, k⟩ =>
    ⟨{ b with orders := by simpa using room },
      { k with
        orders := nodup_map_append _ _ _ k.orders fun h => by
          obtain ⟨x, hx, e⟩ := List.mem_map.1 h
          exact absurd e (by simpa using List.find?_eq_none.1 fresh x hx) }⟩
  dropWait := fun _ _ ⟨b, k⟩ => ⟨{ b with }, { k with }⟩
  addWait := fun _ _ _ _ _ ⟨b, k⟩ => ⟨{ b with }, { k with }⟩
  addClaim := fun _ _ _ _ ⟨b, k⟩ => ⟨{ b with }, { k with }⟩
  dropClaim := fun _ _ ⟨b, k⟩ => ⟨{ b with }, { k with }⟩
  target := fun _ _ ⟨b, k⟩ => ⟨{ b with }, { k with }⟩
  link := fun _ _ rx tx ⟨b, k⟩ =>
    ⟨{ b with linkRx := le_of_within rx b.linkRx, linkTx := le_of_within tx b.linkTx }, { k with }⟩
  line := fun _ _ rx _ ⟨b, k⟩ => ⟨{ b with lineRx := le_of_within rx b.lineRx }, { k with }⟩
  clear := fun _ _ rx _ ⟨b, k⟩ => ⟨{ b with lineRx := rx ▸ b.lineRx }, { k with }⟩
  hold := fun _ _ rx ⟨b, k⟩ => ⟨{ b with lineRx := rx ▸ b.lineRx, slots := by simpa using b.slots }, { k with }⟩
  outbox := fun _ _ slots fifo _ ⟨b, k⟩ =>
    ⟨{ b with slots := slots.trans b.slots, fifo := le_of_within fifo b.fifo }, { k with }⟩
  filter := fun _ _ _ ⟨b, k⟩ => ⟨{ b with filter := by simpa using b.filter }, { k with }⟩
  putArticle := fun s a room ⟨b, k⟩ =>
    ⟨{ b with
        articles := by
          show (insertArticle a s.articles).length ≤ 512
          rw [length_insertArticle a _ k.articles]
          split
          · next fresh => exact room fresh
          · exact b.articles },
      { k with articles := insertArticle_sorted a _ k.articles }⟩
  dropArticle := fun _ _ ⟨b, k⟩ =>
    ⟨{ b with articles := (List.length_filter_le _ _).trans b.articles },
      { k with articles := k.articles.filter _ }⟩
  audit := fun s x list sweeps ⟨b, k⟩ =>
    ⟨{ b with discrepancies := list ▸ b.discrepancies, eight := by simpa [sweeps] using b.eight },
      { k with discrepancies := list ▸ k.discrepancies, numbers := list ▸ k.numbers }⟩
  log := fun s e room ⟨b, k⟩ =>
    ⟨{ b with discrepancies := by simpa using room },
      { k with
        discrepancies := nodup_map_append _ _ _ k.discrepancies (nextNumber_free s.audit (by omega))
        numbers := fun x hx => by
          rcases List.mem_append.1 hx with hx | hx
          · exact k.numbers x hx
          · rw [List.mem_singleton.1 hx]
            exact nextNumber_lt s.audit }⟩
  markEntries := fun s f h ⟨b, k⟩ =>
    have e : (s.audit.list.map f).map Discrepancy.number = s.audit.list.map Discrepancy.number := by
      rw [List.map_map]
      exact List.map_congr_left fun x _ => h x
    ⟨{ b with discrepancies := by simpa using b.discrepancies },
      { k with
        discrepancies := e ▸ k.discrepancies
        numbers := fun x hx => by
          obtain ⟨y, hy, rfl⟩ := List.mem_map.1 hx
          exact h y ▸ k.numbers y hy }⟩
  dropEntries := fun _ _ _ ⟨b, k⟩ =>
    ⟨{ b with discrepancies := (List.length_filter_le _ _).trans b.discrepancies },
      { k with
        discrepancies := k.discrepancies.sublist (List.filter_sublist.map _)
        numbers := fun x hx => k.numbers x (List.mem_of_mem_filter hx) }⟩
  clearStore := fun _ ⟨b, k⟩ =>
    ⟨{ b with
        slots := by simpa [State.clearStore] using b.slots
        orders := by simp [State.clearStore]
        pool := by simp [State.clearStore]
        lanes := by simpa [State.clearStore] using b.lanes
        eight := by simpa [State.clearStore] using b.eight },
      { k with orders := List.nodup_nil }⟩
  powerOn := fun _ _ _ => by constructor <;> constructor <;> simp [State.powerOn]

/-- Settles O5: the tables are among what every elementary change keeps. -/
theorem tablesKept : Obligations.TablesKept :=
  fun _ t b k e => closed_tables.step ⟨b, k⟩ t e

end Sys2Proof.Machine
end

section
/-! The laws of bay records, transit list, power wait list and a held line (O6): each change that `Closed` lists keeps
them. -/

namespace Sys2Proof.Machine

/-! ## Bay records (R6, R14) -/

theorem Bay.lawful_empty : ({} : Bay).lawful :=
  ⟨by simp, Nat.le_refl _, fun _ => rfl⟩

theorem Bay.lawful_storeReset (b : Bay) (h : b.lawful) : b.storeReset.lawful := by
  unfold Bay.storeReset Bay.tidy
  split
  · next none_left =>
    simp only [Nat.add_zero] at none_left
    exact ⟨by simp [none_left], Nat.zero_le _, fun _ => rfl⟩
  · next some_left =>
    simp only [Nat.add_zero] at some_left
    exact ⟨by simp only [h.tyre]; omega, Nat.zero_le _, fun _ => rfl⟩

/-- A lawful change of one bay record keeps every record lawful. -/
theorem modBay_lawful (s : State) (id : BayId) (f : Bay → Bay) (one : (s.bay id).lawful → (f (s.bay id)).lawful)
    (h : ∀ l ∈ s.bays, ∀ b ∈ l, b.lawful) : ∀ l ∈ (s.modBay id f).bays, ∀ b ∈ l, b.lawful := by
  intro l hl b hb
  obtain ⟨i, hi, rfl⟩ := List.getElem_of_mem hl
  obtain ⟨j, hj, rfl⟩ := List.getElem_of_mem hb
  simp only [State.modBay_bays, List.length_modify] at hi
  simp only [State.modBay_bays, List.getElem_modify] at hj ⊢
  have old : ∀ (x : j < (s.bays[i]).length), ((s.bays[i])[j]).lawful := fun x =>
    h _ (List.getElem_mem hi) _ (List.getElem_mem x)
  split at hj
  · next c =>
    simp only [c, if_true, List.getElem_modify]
    simp only [List.length_modify] at hj
    split
    · next p =>
      have here : s.bay id = (s.bays[i])[j] := by
        simp [State.bay, State.baysOf, List.getD_eq_getElem?_getD, c, p, hi, hj]
      exact here ▸ one (here ▸ old hj)
    · exact old hj
  · next c =>
    simp only [c, if_false]
    exact old hj

/-! ## The power wait list (R36) -/

theorem insertWait_perm (e : WaitEntry) (l : List WaitEntry) : (insertWait e l).Perm (e :: l) := by
  induction l with
  | nil => exact List.Perm.refl _
  | cons x xs ih =>
    unfold insertWait
    split
    · exact (ih.cons x).trans (List.Perm.swap e x xs)
    · exact List.Perm.refl _

theorem Power.queued.sublist {p q : Power} (h : p.queued) (l : q.waitList.Sublist p.waitList) : q.queued :=
  ⟨h.once.sublist (l.map _), fun e he => h.range e (l.subset he)⟩

/-- A carousel that joins the list, its entry of before taken off, is on it once. -/
theorem Power.queued.insertWait {p q : Power} (h : p.queued) (e : WaitEntry) (c : e.carousel < 8)
    (l : q.waitList = insertWait e (p.waitList.filter fun x => x.carousel != e.carousel)) : q.queued := by
  have perm := insertWait_perm e (p.waitList.filter fun x => x.carousel != e.carousel)
  rw [← l] at perm
  constructor
  · rw [(perm.map _).nodup_iff, List.map_cons, List.nodup_cons]
    refine ⟨fun m => ?_, h.once.sublist (List.filter_sublist.map _)⟩
    obtain ⟨x, hx, same⟩ := List.mem_map.1 m
    exact absurd same (by simpa using (List.mem_filter.1 hx).2)
  · intro x hx
    rcases List.mem_cons.1 (perm.mem_iff.1 hx) with rfl | hx
    · exact c
    · exact h.range x (List.mem_of_mem_filter hx)

/-! ## Slots while the pair is held (R159) -/

/-- What the outbox holds in a slot once its unsent MOVEs are removed has been chosen. -/
theorem chosen_of_unsentRemoved (l : List (Option SlotMove)) (c : Nat) (m : SlotMove)
    (h : (l.map unsentRemoved).getD c none = some m) : m.chosen = true := by
  rw [show (none : Option SlotMove) = unsentRemoved none from rfl, List.getD_map] at h
  unfold unsentRemoved at h
  split at h
  · split at h
    · cases h; assumption
    · cases h
  · cases h

/-! ## Every change -/

/-- The laws of the device stand through every change a step is made of, in a part of eight carousels. -/
theorem closed_laws : Closed fun s => s.carousels.length = 8 ∧ s.laws where
  now := fun _ _ ⟨n, l⟩ => ⟨n, { l with }⟩
  choices := fun _ _ ⟨n, l⟩ => ⟨n, { l with }⟩
  agenda := fun _ _ ⟨n, l⟩ => ⟨n, { l with }⟩
  pending := fun _ _ ⟨n, l⟩ => ⟨n, { l with }⟩
  putAway := fun _ _ ⟨n, l⟩ => ⟨n, { l with }⟩
  consolidation := fun _ _ _ lawful ⟨n, l⟩ => ⟨n, { l with transit := lawful l.transit }⟩
  cars := fun _ _ _ ⟨n, l⟩ => ⟨by simpa using n, { l with }⟩
  bals := fun _ _ _ ⟨n, l⟩ => ⟨n, { l with }⟩
  bay := fun s id f one ⟨n, l⟩ => ⟨n, { l with bays := modBay_lawful s id f one l.bays }⟩
  formBays := fun s c m ⟨n, l⟩ =>
    ⟨n, { l with
      bays := fun r hr b hb => by
        obtain ⟨i, hi, rfl⟩ := List.getElem_of_mem hr
        simp only [List.length_modify] at hi
        simp only [List.getElem_modify] at hb
        split at hb
        · rw [List.eq_of_mem_replicate hb]
          exact Bay.lawful_empty
        · exact l.bays _ (List.getElem_mem hi) b hb }⟩
  pool := fun _ _ _ ⟨n, l⟩ => ⟨n, { l with }⟩
  waiting := fun _ _ _ _ ⟨n, l⟩ => ⟨n, { l with }⟩
  modOrder := fun _ _ _ _ ⟨n, l⟩ => ⟨n, { l with }⟩
  removeOrder := fun _ _ ⟨n, l⟩ => ⟨n, { l with }⟩
  addOrder := fun _ _ _ _ ⟨n, l⟩ => ⟨n, { l with }⟩
  dropWait := fun _ _ ⟨n, l⟩ => ⟨n, { l with waits := l.waits.sublist List.filter_sublist }⟩
  addWait := fun _ _ _ _ c ⟨n, l⟩ => ⟨n, { l with waits := l.waits.insertWait _ (n ▸ c) rfl }⟩
  addClaim := fun _ _ _ _ ⟨n, l⟩ => ⟨n, { l with waits := l.waits.sublist (List.Sublist.refl _) }⟩
  dropClaim := fun _ _ ⟨n, l⟩ => ⟨n, { l with waits := l.waits.sublist (List.Sublist.refl _) }⟩
  target := fun _ _ ⟨n, l⟩ => ⟨n, { l with waits := l.waits.sublist (List.Sublist.refl _) }⟩
  link := fun _ _ _ _ ⟨n, l⟩ => ⟨n, { l with }⟩
  line := fun _ _ _ same ⟨n, l⟩ => ⟨n, { l with unsent := fun held => l.unsent (same ▸ held) }⟩
  clear := fun _ _ _ clear ⟨n, l⟩ => ⟨n, { l with unsent := fun held => absurd (clear.symm.trans held) nofun }⟩
  hold := fun s _ _ ⟨n, l⟩ => ⟨n, { l with unsent := fun _ => chosen_of_unsentRemoved s.outbox.slots }⟩
  outbox := fun _ _ _ _ slots ⟨n, l⟩ =>
    ⟨n, { l with unsent := fun held c m e => (slots held c m e).elim id (l.unsent held c m) }⟩
  filter := fun _ _ _ ⟨n, l⟩ => ⟨n, { l with }⟩
  putArticle := fun _ _ _ ⟨n, l⟩ => ⟨n, { l with }⟩
  dropArticle := fun _ _ ⟨n, l⟩ => ⟨n, { l with }⟩
  audit := fun _ _ _ _ ⟨n, l⟩ => ⟨n, { l with }⟩
  log := fun _ _ _ ⟨n, l⟩ => ⟨n, { l with }⟩
  markEntries := fun _ _ _ ⟨n, l⟩ => ⟨n, { l with }⟩
  dropEntries := fun _ _ _ ⟨n, l⟩ => ⟨n, { l with }⟩
  clearStore := fun s ⟨n, l⟩ =>
    ⟨by simpa [State.clearStore] using n,
      { bays := fun r hr b hb => by
          obtain ⟨r, old, rfl⟩ := List.mem_map.1 hr
          obtain ⟨b, was, rfl⟩ := List.mem_map.1 hb
          exact b.lawful_storeReset (l.bays r old b was)
        transit := ⟨Nat.zero_le _, List.nodup_nil, nofun⟩
        waits := ⟨List.nodup_nil, nofun⟩
        unsent := fun _ => chosen_of_unsentRemoved s.outbox.slots }⟩
  powerOn := fun _ _ _ =>
    ⟨rfl,
      { bays := fun r hr b hb => by
          rw [List.eq_of_mem_replicate hr] at hb
          cases hb
        transit := ⟨Nat.zero_le _, List.nodup_nil, nofun⟩
        waits := ⟨List.nodup_nil, nofun⟩
        unsent := fun _ => chosen_of_unsentRemoved (List.replicate 8 none) }⟩

/-- Settles O6: the laws are among what every elementary change keeps. -/
theorem storeLawsKept : Obligations.StoreLawsKept :=
  fun _ t b l e => (closed_laws.step ⟨b.eight.1, l⟩ t e).2

end Sys2Proof.Machine
end

section
/-! What every block holds after a power-on reset (O2). -/

namespace Sys2Proof.Machine

theorem getD_replicate_self {α : Type} (n i : Nat) (a : α) : (List.replicate n a).getD i a = a := by
  rw [List.getD_eq_getElem?_getD, List.getElem?_replicate]
  split <;> rfl

/-- A pool of free records offers every id (R97). -/
theorem freeTasks_all (s : State) (h : s.orderUnit.pool = List.replicate 128 none) : s.freeTasks = List.range 128 := by
  unfold State.freeTasks
  refine List.filter_eq_self.2 fun id hid => ?_
  rw [h, List.getElem?_replicate, if_pos (List.mem_range.1 hid)]

/-- Settles O2: the straps, the hold of the other party and the two queues of the model's own are what a power-on reset
takes over from before; the rest is the record each block starts with. -/
theorem powerOnResetClears : Obligations.PowerOnResetClears := by
  intro station linkRate lineRate s
  refine ⟨_, rfl, rfl, fun c _ => ?_, rfl, rfl, rfl, rfl, rfl, rfl, rfl, rfl, rfl, rfl, rfl, rfl, rfl, rfl,
    fun e he => ?_, rfl, rfl, rfl, rfl, rfl, ?_, rfl, rfl, rfl, rfl, rfl, rfl, rfl, rfl, rfl, rfl⟩
  · simp only [State.car, State.bal, State.baysOf, State.slot, State.powerOn, getD_replicate_self]
    simp [Carousel.walkOrder, Balance.enabledGrades]
  · rw [List.eq_of_mem_replicate he]
  · rw [freeTasks_all _ rfl]
    rfl

end Sys2Proof.Machine
end

section
/-! Every step takes the follow-ups it raises, and what their taking does (O7). -/

namespace Sys2Proof.Machine

/-! ## What a step leaves noted -/

theorem State.quiet_of_notes {s t : State} (q : s.quiet) (h : t.notes = s.notes) : t.quiet :=
  ⟨(congrArg Prod.fst h).trans q.1, (congrArg Prod.snd h).trans q.2⟩

@[simp] theorem State.answer_notes (s : State) (f : Frame) (r : Reply) (b : Bool) : (s.answer f r b).notes = s.notes := by
  unfold State.answer
  dsimp only
  split <;> rfl

@[simp] theorem State.linkByte_notes (s : State) (b : Byte) : (s.linkByte b).notes = s.notes := by
  unfold State.linkByte State.takeLinkFrame
  dsimp only
  repeat' split
  all_goals rfl

@[simp] theorem State.lineByte_notes (s : State) (b : Byte) : (s.lineByte b).notes = s.notes := by
  unfold State.lineByte State.takeLineFrame
  dsimp only
  repeat' split
  all_goals rfl

theorem State.startTransmission_notes (s : State) : s.startTransmission.notes = s.notes := by
  unfold State.startTransmission
  repeat' split
  all_goals rfl

theorem State.endTransmission_notes (s : State) : s.endTransmission.notes = s.notes := by
  unfold State.endTransmission
  repeat' split
  all_goals rfl

theorem State.enterWaiting_notes (s : State) : s.enterWaiting.notes = s.notes := by
  unfold State.enterWaiting
  repeat' split
  all_goals rfl

theorem State.linkSent_notes (s : State) : s.linkSent.notes = s.notes := by
  unfold State.linkSent
  split
  · rfl
  · dsimp only
    split
    · rfl
    · exact State.enterWaiting_notes _

theorem State.linkGap_notes (s : State) : s.linkGap.notes = s.notes := by
  unfold State.linkGap
  dsimp only
  split <;> rfl

theorem State.lineGap_notes (s : State) : s.lineGap.notes = s.notes := by
  unfold State.lineGap
  dsimp only
  split <;> rfl

theorem State.otherPort_notes (s : State) (f : Frame) (kind : Byte) : (s.otherPort f kind).notes = s.notes := by
  unfold State.otherPort
  split
  · exact State.answer_notes _ _ _ _
  · rfl

/-- A request served leaves nothing noted: its follow-ups are taken before its RESULT (R174, log 8). -/
theorem State.serve_quiet (s : State) (f : Frame) (act : State → State × Reply) : (s.serve f act).quiet :=
  State.quiet_of_notes (State.settle_quiet _) (State.answer_notes _ _ _ _)

theorem State.onRequest_quiet {s : State} (q : s.quiet) (act : Frame → Request → Option (State → State × Reply)) :
    (s.onRequest act).quiet := by
  unfold State.onRequest
  split
  · split
    · exact s.serve_quiet _ _
    · exact q
  · exact q

/-- Every command leaves nothing noted. -/
theorem exec_quiet {s t : State} (q : s.quiet) (i : Instr) (e : exec i s = .next t) : t.quiet := by
  cases i
  case powerOnReset => cases e; exact ⟨rfl, rfl⟩
  case linkBreak =>
    simp only [exec, execLinkBreak] at e
    split at e <;> cases e <;> exact State.quiet_of_notes q rfl
  case linkFrameReceived =>
    cases e
    split
    · exact q
    · exact State.quiet_of_notes q (State.foldl_notes _ State.linkByte_notes _ _)
  case lineFrameReceived => cases e; exact State.quiet_of_notes q (State.foldl_notes _ State.lineByte_notes _ _)
  case receptionBreakOff port =>
    cases port <;> cases e
    · exact State.quiet_of_notes q s.linkGap_notes
    · exact State.quiet_of_notes q s.lineGap_notes
  case linkPairReturnsToIdle => cases e; exact State.quiet_of_notes q rfl
  case transmitStart => cases e; exact State.quiet_of_notes q s.startTransmission_notes
  case transmitEnd => cases e; exact State.quiet_of_notes q s.endTransmission_notes
  case linkFrameSent => cases e; exact State.quiet_of_notes q s.linkSent_notes
  case lineHoldSensed | lineHoldCleared | classifyFrame | infeedRead | passthrough | replyWindowExpiry =>
    cases e
    exact State.settle_quiet _
  case moveTimerExpiry | presentationTimerExpiry | ageTimerExpiry | dutyTimerExpiry | readTimerExpiry |
      transitDeadlineExpiry =>
    simp only [exec, execMoveTimerExpiry, execPresentationTimerExpiry, execAgeTimerExpiry, execDutyTimerExpiry,
      execReadTimerExpiry, execTransitDeadlineExpiry] at e
    split at e <;> cases e
    exact State.settle_quiet _
  case portResetLine =>
    simp only [exec, execPortResetLine] at e
    split at e <;> cases e
    · exact State.settle_quiet _
    · exact State.quiet_of_notes q (s.otherPort_notes _ _)
    · exact q
  case portResetLink =>
    simp only [exec, execPortResetLink] at e
    split at e <;> cases e
    · exact State.quiet_of_notes q (State.answer_notes _ _ _ _)
    · exact State.quiet_of_notes q (s.otherPort_notes _ _)
    · exact q
  case badFormatRequest =>
    simp only [exec, execBadFormatRequest] at e
    split at e <;> cases e
    · exact State.quiet_of_notes q (State.answer_notes _ _ _ _)
    · exact q
  all_goals
    cases e
    exact State.onRequest_quiet q _

theorem step_quiet {s t : State} (q : s.quiet) (e : step s = .next t) : t.quiet := by
  unfold step at e
  split at e
  · cases e
    exact State.quiet_of_notes q rfl
  · next rest _ => exact exec_quiet (s := s.withPending rest) (State.quiet_of_notes q rfl) _ e

/-! ## What the taking of follow-ups does -/

theorem State.idleReady_eq (s : State) (c : Nat) :
    s.idleReady c = decide ((s.car c).state = .ready ∧ (s.car c).inService = none) := by
  unfold State.idleReady
  cases (s.car c).inService <;> simp

/-- Service points of several carousels: those of the carousels READY with nothing in service, in an order left free. -/
theorem State.servicePoints_eq (s : State) (l : List Nat) : ∃ (order : List Nat) (choices : Nat),
    order.Perm (l.filter fun c => decide ((s.car c).state = .ready ∧ (s.car c).inService = none)) ∧
      s.servicePoints l = order.foldl State.servicePoint { s with choices } := by
  obtain ⟨perm, n, e⟩ := arrange_perm s (l.filter s.idleReady)
  refine ⟨(s.arrange (l.filter s.idleReady)).1, n, ?_, by rw [← e]; rfl⟩
  rw [← funext fun c => s.idleReady_eq c]
  exact perm

/-- One retry pass is taken for all that was noted, and it notes none (R106). -/
theorem State.runRetries_once (s : State) (n : Nat) (h : s.orderUnit.retry ≠ .none) :
    State.runRetries (n + 1) s = ({ s with orderUnit := { s.orderUnit with retry := .none } } : State).retryPass
      s.orderUnit.retry := by
  unfold State.runRetries
  split
  · next e => exact absurd e h
  · have quiet := State.retryPass_notes { s with orderUnit := { s.orderUnit with retry := .none } } s.orderUnit.retry
    cases n with
    | zero => rfl
    | succ n =>
      unfold State.runRetries
      rw [show (State.retryPass _ _).orderUnit.retry = Retry.none from congrArg Prod.snd quiet]

theorem State.runRetries_none (s : State) (n : Nat) (h : s.orderUnit.retry = .none) : State.runRetries n s = s := by
  cases n with
  | zero => rfl
  | succ n => simp only [State.runRetries, h]

theorem Retry.covers_iff (r : Retry) (article : Nat) :
    r.covers article = true ↔ r = .all ∨ ∃ l, r = .articles l ∧ article ∈ l := by
  cases r <;> simp [Retry.covers]

/-- Settles O7: every command ends with its follow-ups taken; the taking is `serveFreed`, `runRetries` and `servePoints` in
turn. -/
theorem followUpsTaken : Obligations.FollowUpsTaken := by
  refine ⟨fun s t q e => step_quiet q e, fun s => ?_⟩
  intro serves covers passes
  refine ⟨s.settle_quiet, s.serveFreed, State.runRetries 4 s.serveFreed, fun h => ?_, fun h => ?_,
    State.runRetries_none _ _, fun h => ?_, congrArg Prod.snd (State.runRetries_notes 3 _), ?_⟩
  · unfold State.serveFreed
    rw [if_pos h]
    exact State.servicePoints_eq _ _
  · unfold State.serveFreed
    rw [if_neg (by simp [h])]
  · refine ⟨State.retryGroup s.serveFreed.orderUnit.retry, fun x g on cov => ?_, fun x g off => ?_,
      State.runRetries_once _ _ h⟩
    · exact if_pos (by simpa using ⟨on, (Retry.covers_iff _ _).2 cov⟩)
    · refine if_neg fun both => ?_
      rw [Bool.and_eq_true, List.contains_iff_mem, Retry.covers_iff] at both
      exact off.elim (· both.1) (· both.2)
  · exact State.servicePoints_eq _ _

end Sys2Proof.Machine
end

section
/-! What the management unit does with a request that is asked (R174), and with a TABLE-LOAD of one entry (R176). -/

namespace Sys2Proof.Machine

variable {s : State}

/-- The row of a request that is asked serves it, if it has an action for it. -/
theorem onRequest_asked {f : Frame} {r : Request} {act : Frame → Request → Option (State → State × Reply)}
    {a : State → State × Reply} (h : s.asked f r) (own : act f r = some a) : s.onRequest act = s.serve f a := by
  unfold State.onRequest
  rw [show s.headRequest = some (f, some r) from h]
  simp only [own]

theorem takeRequest_quiet (q : s.quiet) : s.takeRequest.quiet := q

/-- A refusal changes nothing but the queues of the link (R175). -/
theorem serve_refused (q : s.quiet) (f : Frame) {act : State → State × Reply} {r : Reason}
    (h : act s.takeRequest = (s.takeRequest, .refused r)) : s.serve f act = s.takeRequest.answer f (.refused r) := by
  unfold State.serve
  rw [h]
  dsimp only
  rw [State.settle_of_quiet _ (takeRequest_quiet q)]

/-- A request carried out is answered after the follow-ups (R174, log 8). -/
theorem serve_done (f : Frame) {act : State → State × Reply} {v : State} {r : Reply}
    (h : act s.takeRequest = (v, r)) : s.serve f act = v.settle.answer f r := by
  unfold State.serve
  rw [h]

/-! ## A TABLE-LOAD of one entry (R176) -/

/-- A refused entry is the whole load's refusal. -/
theorem serve_tableLoad_error (q : s.quiet) (f : Frame) {load : State → Nat → List Byte → Except Reason State}
    {start : Nat} {bs : List Byte} {r : Reason} (h : load s.takeRequest start bs = .error r) :
    s.serve f (fun s => s.tableLoad load start [bs]) = s.takeRequest.answer f (.refused r) :=
  serve_refused q f (by simp [State.tableLoad, loadAll, h, Loaded.reply])

/-- An accepted entry is answered DONE with the count 1. -/
theorem serve_tableLoad_ok (f : Frame) {load : State → Nat → List Byte → Except Reason State}
    {start : Nat} {bs : List Byte} {v : State} (h : load s.takeRequest start bs = .ok v) :
    s.serve f (fun s => s.tableLoad load start [bs]) = v.settle.answer f (.done [1]) := by
  have load_one : s.takeRequest.tableLoad load start [bs] = (v.settle, .done [1]) := by
    simp only [State.tableLoad, loadAll, h, Loaded.reply]
    rfl
  rw [serve_done f load_one, State.settle_of_quiet _ v.settle_quiet]

/-- An accepted entry that notes nothing has no follow-ups. -/
theorem serve_tableLoad_ok_quiet (f : Frame) {load : State → Nat → List Byte → Except Reason State}
    {start : Nat} {bs : List Byte} {v : State} (h : load s.takeRequest start bs = .ok v) (q : v.quiet) :
    s.serve f (fun s => s.tableLoad load start [bs]) = v.answer f (.done [1]) := by
  rw [serve_tableLoad_ok f h, State.settle_of_quiet _ q]

end Sys2Proof.Machine
end

section
/-! One ARTICLE entry of a TABLE-LOAD (O40): the tests of R4 and R5, and the table after it. -/

namespace Sys2Proof.Machine

theorem recorded_iff (s : State) (code : Nat) :
    s.recorded code = true ↔ ∃ l ∈ s.bays, ∃ b ∈ l, b.tyre.map Tyre.article = some code ∧ 0 < b.count + b.incoming := by
  simp [State.recorded, Bay.records]

theorem ordered_iff (s : State) (code : Nat) :
    s.ordered code = true ↔ ∃ o ∈ s.orderUnit.orders, ∃ l ∈ o.lines, l.article = code := by
  simp [State.ordered]

theorem inTransit_iff (s : State) (code : Nat) :
    s.inTransit code = true ↔ ∃ e ∈ s.consolidation.transit, e.tyre.article = code := by
  simp [State.inTransit]

theorem Article.inRange_iff (a : Article) :
    a.inRange = true ↔ 1 ≤ a.code ∧ a.code ≤ 4294967294 ∧ 10 ≤ a.weight ∧ a.weight ≤ 1000 ∧ 1 ≤ a.stackLimit ∧
      a.stackLimit ≤ 4 ∧ a.tolerance ≤ 26 ∧ a.width ≤ 3 := by
  simp [Article.inRange, and_assoc]

theorem Article.isDeletion_iff (a : Article) :
    a.isDeletion = true ↔ a.weight = 0 ∧ a.stackLimit = 0 ∧ a.tolerance = 0 ∧ a.zone = 0 ∧ a.width = 0 := by
  simp [Article.isDeletion]

/-- The one entry a request carries is deleted, put into the table or refused by its form (R190). -/
theorem loadArticle_read (s : State) (n : Nat) (bs : List Byte) (a : Article) (read : readArticle bs = some a) :
    s.loadArticle n bs =
      if a.isDeletion then s.deleteArticle a.code else if a.inRange then s.putArticle a else .error .badValue := by
  unfold State.loadArticle
  rw [read]

/-- Settles O40: the row loads the one entry, and the tests of `putArticle` and `deleteArticle` are those of R4 and R5. -/
theorem articleEntryLoads : Obligations.ArticleEntryLoads := by
  intro s f start bs a keyed q asked read refused recorded ordered travels ranges deletion blocked
  have row : exec .tableLoadArticle s = .next (s.serve f fun s => s.tableLoad State.loadArticle start [bs]) :=
    congrArg _ (onRequest_asked asked rfl)
  have refuses : ∀ r, s.takeRequest.loadArticle start bs = .error r → refused r := fun r h =>
    row.trans (congrArg _ (serve_tableLoad_error q f h))
  have accepts : ∀ table, s.takeRequest.loadArticle start bs = .ok { s.takeRequest with articles := table } →
      exec .tableLoadArticle s = .next (({ s.takeRequest with articles := table }).answer f (.done [1])) := fun table h =>
    row.trans (congrArg _ (serve_tableLoad_ok_quiet f h q))
  rw [loadArticle_read _ _ _ _ read] at refuses accepts
  have isRange : ranges → a.isDeletion = false ∧ a.inRange = true := fun h =>
    ⟨by simp [Article.isDeletion]; omega, a.inRange_iff.2 h⟩
  have isDeletion : deletion → a.isDeletion = true := a.isDeletion_iff.2
  have code_ok : 1 ≤ a.code → a.code ≤ 4294967294 → ¬(a.code = 0 ∨ a.code = 4294967295) := by omega
  have blocks : ∀ old, blocked old ↔
      ((a.weight ≠ old.weight ∨ a.stackLimit ≠ old.stackLimit) ∧ s.takeRequest.recorded a.code = true) ∨
        (a.tolerance < old.tolerance ∧ s.takeRequest.ordered a.code = true) := fun old => by
    rw [recorded_iff, ordered_iff]
    rfl
  refine ⟨fun out notDel => ?_, fun rg new full => ?_, fun old rg found bl => ?_, fun rg room free => ?_,
    fun del lo hi new => ?_, fun old del lo hi found used => ?_, fun old del lo hi found unrec unord untr => ?_⟩
  · refine refuses _ ?_
    rw [if_neg (by rwa [Article.isDeletion_iff]), if_neg (by rwa [Article.inRange_iff])]
  · refine refuses _ ?_
    obtain ⟨nd, ir⟩ := isRange rg
    simp [nd, ir, State.putArticle, show s.takeRequest.article a.code = none from new, full]
  · refine refuses _ ?_
    obtain ⟨nd, ir⟩ := isRange rg
    rw [blocks] at bl
    simp only [nd, ir, State.putArticle, show s.takeRequest.article a.code = some old from found]
    rcases bl with ⟨differs, recd⟩ | ⟨narrower, ord⟩
    · simp [differs, recd]
    · simp [narrower, ord]
  · refine ⟨insertArticle a s.articles, accepts _ ?_, insertArticle_sorted a _ keyed.articles,
      find_insertArticle a _ keyed.articles⟩
    obtain ⟨nd, ir⟩ := isRange rg
    simp only [nd, ir, State.putArticle]
    cases found : s.article a.code with
    | none =>
      have := room found
      simp [show s.takeRequest.article a.code = none from found, this]
    | some old =>
      have free := free old found
      rw [blocks, not_or] at free
      simp only [show s.takeRequest.article a.code = some old from found, if_neg free.1, if_neg free.2]
      rfl
  · refine refuses _ ?_
    simp [isDeletion del, State.deleteArticle, code_ok lo hi, show s.takeRequest.article a.code = none from new]
  · refine refuses _ ?_
    have inUse : (s.takeRequest.recorded a.code || s.takeRequest.ordered a.code ||
        s.takeRequest.inTransit a.code) = true := by
      rw [Bool.or_eq_true, Bool.or_eq_true, recorded_iff, ordered_iff, inTransit_iff, or_assoc]
      exact used
    simp [isDeletion del, State.deleteArticle, code_ok lo hi, show s.takeRequest.article a.code = some old from found,
      inUse]
  · refine accepts _ ?_
    have unused : (s.takeRequest.recorded a.code || s.takeRequest.ordered a.code ||
        s.takeRequest.inTransit a.code) ≠ true := by
      rw [ne_eq, Bool.or_eq_true, Bool.or_eq_true, recorded_iff, ordered_iff, inTransit_iff]
      exact fun h => h.elim (·.elim unrec unord) untr
    simp only [isDeletion del, State.deleteArticle, if_neg (code_ok lo hi),
      show s.takeRequest.article a.code = some old from found, if_neg unused]
    rfl

end Sys2Proof.Machine
end

section
/-! What the load change of a claim, the withdrawal of tasks and the follow-ups leave of the store's records. -/

namespace Sys2Proof.Machine

/-- The store's records stand but for what is promised out of a bay: `s` is the part before, `t` after. -/
structure State.Shelved (s t : State) : Prop where
  bays : t.bays.map (List.map Bay.shelf) = s.bays.map (List.map Bay.shelf)
  profiles : ∀ c, (t.car c).profile = (s.car c).profile
  articles : t.articles = s.articles
  balances : t.balances = s.balances
  transit : t.consolidation.transit = s.consolidation.transit
  audit : { t.audit with sweeps := [] } = { s.audit with sweeps := [] }
  target : t.power.target = s.power.target

namespace State.Shelved

theorem refl (s : State) : s.Shelved s := ⟨rfl, fun _ => rfl, rfl, rfl, rfl, rfl, rfl⟩

theorem trans {s t u : State} (a : s.Shelved t) (b : t.Shelved u) : s.Shelved u where
  bays := b.bays.trans a.bays
  profiles := fun c => (b.profiles c).trans (a.profiles c)
  articles := b.articles.trans a.articles
  balances := b.balances.trans a.balances
  transit := b.transit.trans a.transit
  audit := b.audit.trans a.audit
  target := b.target.trans a.target

theorem of_keeps {p : Nat → Prop} {s t : State} (k : s.Keeps p t) : s.Shelved t where
  bays := k.bays
  profiles := keeps_profile k
  articles := k.articles
  balances := k.balances
  transit := k.transit
  audit := k.audit
  target := k.power.1

theorem foldl {α : Type} (f : State → α → State) (h : ∀ (s : State) a, s.Shelved (f s a)) (l : List α) (s : State) :
    s.Shelved (l.foldl f s) := by
  induction l generalizing s with
  | nil => exact refl s
  | cons a l ih => exact (h s a).trans (ih _)

section Read

variable {s t : State} (h : s.Shelved t)
include h

theorem position (id : BayId) : t.position id = s.position id := by
  unfold State.position State.baysPerCarrier
  rw [h.profiles]

theorem bayAt (c p : Nat) : t.bayAt c p = s.bayAt c p := by
  unfold State.bayAt State.baysPerCarrier
  rw [h.profiles]

theorem baysOf (c : Nat) : (t.baysOf c).map Bay.shelf = (s.baysOf c).map Bay.shelf := by
  have all := congrArg (fun l : List (List Bay) => l.getD c (List.map Bay.shelf [])) h.bays
  simp only [List.getD_map] at all
  exact all

theorem getD_baysOf (c p : Nat) : ((t.baysOf c).getD p {}).shelf = ((s.baysOf c).getD p {}).shelf := by
  have all := congrArg (fun l : List Bay => l.getD p (Bay.shelf {})) (h.baysOf c)
  simp only [List.getD_map] at all
  exact all

theorem bay (id : BayId) : (t.bay id).shelf = (s.bay id).shelf := by
  unfold State.bay
  rw [h.position]
  exact h.getD_baysOf _ _

theorem count (id : BayId) : (t.bay id).count = (s.bay id).count :=
  (congrArg Bay.count (h.bay id) :)

theorem holds (id : BayId) : (t.bay id).holds = (s.bay id).holds :=
  (congrArg Bay.holds (h.bay id) :)

theorem bal (c : Nat) : t.bal c = s.bal c := by
  unfold State.bal
  rw [h.balances]

theorem list : t.audit.list = s.audit.list :=
  (congrArg AuditUnit.list h.audit :)

theorem listFull : t.audit.listFull = s.audit.listFull :=
  (congrArg AuditUnit.listFull h.audit :)

end Read

/-! ## Single changes -/

section Single

variable (s : State)

theorem orderUnit (o : OrderUnit) : s.Shelved { s with orderUnit := o } := ⟨rfl, fun _ => rfl, rfl, rfl, rfl, rfl, rfl⟩
theorem modTask (id : Nat) (f : Task → Task) : s.Shelved (s.modTask id f) := orderUnit s _
theorem setTask (id : Nat) (t : Option Task) : s.Shelved (s.setTask id t) := orderUnit s _
theorem taskState (id : Nat) (st : TaskState) : s.Shelved (s.taskState id st) := orderUnit s _
theorem modOrder (n : Nat) (f : Order → Order) : s.Shelved (s.modOrder n f) := orderUnit s _
theorem noteRetry (r : Retry) : s.Shelved (s.noteRetry r) := orderUnit s _
theorem leaveWait (c : Nat) : s.Shelved (s.leaveWait c) := ⟨rfl, fun _ => rfl, rfl, rfl, rfl, rfl, rfl⟩
theorem takeRequest : s.Shelved s.takeRequest := ⟨rfl, fun _ => rfl, rfl, rfl, rfl, rfl, rfl⟩

theorem notePoint (c : Nat) : s.Shelved (s.notePoint c) := by
  unfold State.notePoint
  split
  · exact refl s
  · exact ⟨rfl, fun _ => rfl, rfl, rfl, rfl, rfl, rfl⟩

theorem modCar (c : Nat) (f : Carousel → Carousel) (h : ∀ k, (f k).profile = k.profile) : s.Shelved (s.modCar c f) where
  bays := rfl
  profiles := fun d => by
    rw [State.car_modCar]
    split
    · exact h _
    · rfl
  articles := rfl
  balances := rfl
  transit := rfl
  audit := rfl
  target := rfl

theorem giveBack (n : Nat) : s.Shelved (s.giveBack n) := by
  obtain ⟨_, e⟩ := giveBack_frame s n
  rw [e]
  exact ⟨rfl, fun _ => rfl, rfl, rfl, rfl, rfl, rfl⟩

theorem giveBackTask (id : Nat) : s.Shelved (s.giveBackTask id) := by
  unfold State.giveBackTask
  split
  · exact (modTask s _ _).trans (giveBack _ _)
  · exact refl s

theorem joinHead (id : Nat) (st : TaskState) : s.Shelved (s.joinHead id st) := by
  unfold State.joinHead
  split
  · exact (taskState s _ _).trans (modCar _ _ _ fun k =>
      (congrArg Carousel.profile (modQueue_unqueued k _ _) :))
  · exact refl s

theorem notify (n : Notice) : s.Shelved (s.notify n) := by
  rw [notify_frame]
  exact ⟨rfl, fun _ => rfl, rfl, rfl, rfl, rfl, rfl⟩

theorem offerPass : s.Shelved s.offerPass := of_keeps (offerPass_spec s).1

theorem settle : s.Shelved s.settle := of_keeps s.settle_follows

end Single

end State.Shelved

/-! ## Load changes (R24, R25) -/

/-- A change that leaves the item it is made to leaves the list. -/
theorem modify_eq_self {α : Type} (l : List α) (i : Nat) (f : α → α) (d : α) (h : f (l.getD i d) = l.getD i d) :
    l.modify i f = l := by
  refine List.ext_getElem (List.length_modify ..) fun j _ hj => ?_
  rw [List.getElem_modify]
  split
  · next e =>
    subst e
    rwa [List.getD_eq_getElem _ _ hj] at h
  · rfl

theorem retestTask_shelved (s : State) (id : Nat) : s.Shelved (s.retestTask id) := by
  unfold State.retestTask
  split
  · split
    · exact State.Shelved.taskState s _ _
    · exact State.Shelved.refl s
  · exact State.Shelved.refl s

theorem retestWaiting_shelved (s : State) (c : Nat) : s.Shelved (s.retestWaiting c) := by
  unfold State.retestWaiting
  split
  · split
    · split
      · refine State.Shelved.trans ?_ (State.Shelved.notePoint _ _)
        refine State.Shelved.trans ?_ (State.Shelved.modCar _ _ _ fun _ => rfl)
        exact ((State.Shelved.leaveWait s c).trans (State.Shelved.giveBackTask _ _)).trans (State.Shelved.joinHead _ _ _)
      · exact State.Shelved.refl s
    · exact State.Shelved.refl s
  · exact State.Shelved.refl s

/-- What the check at a load change does: the fault flag of one carousel, and its notice. -/
theorem balanceCheck_frame (s : State) (c : Nat) (check : Bool) : ∃ (flag : Bool) (l : LinkPort),
    s.balanceCheck c check = { s.modBal c (fun b => { b with fault := flag }) with link := l } := by
  have same : s = { s.modBal c (fun b => { b with fault := (s.bal c).fault }) with link := s.link } := by
    show s = { s with balances := s.balances.modify c _ }
    rw [modify_eq_self s.balances c (fun b => { b with fault := (s.bal c).fault }) {} rfl]
  unfold State.balanceCheck
  dsimp only
  split
  · split
    · exact ⟨false, s.link, rfl⟩
    · exact ⟨_, _, same⟩
  · split
    · unfold State.raiseBalanceFault
      split
      · exact ⟨_, _, same⟩
      · exact ⟨true, _, notify_frame _ _⟩
    · exact ⟨_, _, same⟩

/-- What a load change of `δ` on carousel `c` does: the record of `c` in the balance unit, and no other record of the
store but what is promised. -/
structure State.LoadShifted (s t : State) (c : Nat) (δ : Int) : Prop where
  kept : ({ s with balances := t.balances } : State).Shelved t
  total : c < s.balances.length → (t.bal c).total = (s.bal c).total + δ
  others : ∀ d, d ≠ c → t.bal d = s.bal d

theorem loadChange_shifted (s : State) (c i : Nat) (δ : Int) (check : Bool) :
    s.LoadShifted (s.loadChange c i δ check) c δ := by
  obtain ⟨flag, l, e⟩ := balanceCheck_frame (s.modBal c fun b => b.applyChange i δ) c check
  unfold State.loadChange
  dsimp only
  generalize (s.modBal c fun b => b.applyChange i δ).balanceCheck c check = s1 at e ⊢
  have retested := (State.Shelved.foldl State.retestTask retestTask_shelved (s1.car c).walkOrder s1).trans
    (retestWaiting_shelved _ c)
  generalize ((s1.car c).walkOrder.foldl State.retestTask s1).retestWaiting c = s3 at retested ⊢
  have offered : s3.Shelved (if ((s.bal c).fault && !(s3.bal c).fault || s3.power.waitList.any fun e => e.carousel == c) then
      s3.offerPass else s3) := by
    split
    · exact State.Shelved.offerPass s3
    · exact State.Shelved.refl s3
  have kept := (retested.trans offered).trans (State.Shelved.notePoint _ c)
  generalize State.notePoint _ c = t at kept ⊢
  have start : ({ s with balances := t.balances } : State).Shelved s1 := by
    rw [e]
    exact ⟨rfl, fun _ => rfl, rfl, by rw [kept.balances, e], rfl, rfl, rfl⟩
  have changed : ∀ d, s1.bal d = if c = d ∧ d < s.balances.length then { (s.bal d).applyChange i δ with fault := flag }
      else s.bal d := fun d => by
    rw [e]
    show ((s.modBal c fun b => b.applyChange i δ).modBal c fun b => { b with fault := flag }).bal d = _
    rw [bal_modBal, bal_modBal, State.modBal_balances, List.length_modify]
    split <;> rfl
  refine ⟨start.trans kept, fun len => ?_, fun d ne => ?_⟩
  · rw [kept.bal, changed, if_pos ⟨rfl, len⟩]
    rfl
  · rw [kept.bal, changed, if_neg fun h => ne h.1.symm]

end Sys2Proof.Machine
end

section
/-! One STOCK entry of a TABLE-LOAD (O43): the tests of R19, and the record written whole. -/

namespace Sys2Proof.Machine

theorem bayExists_iff (s : State) (id : BayId) : s.bayExists id = true ↔
    ∃ p, (s.car id.carousel).profile = some p ∧ id.carrier < p.carriers ∧ id.bay < p.bays := by
  unfold State.bayExists
  cases (s.car id.carousel).profile <;> simp

/-- Test 2 of R19. -/
theorem stockWritable_iff (s : State) (c : Nat) : s.stockWritable c = true ↔
    (s.car c).state = .offline ∨ (s.car c).state = .manual ∨ ((s.bal c).fault = true ∧ s.hasClaim c = false ∧
      ¬((s.car c).state = .presenting ∧ ∃ id, (s.car c).inService = some (.task id))) := by
  unfold State.stockWritable
  rcases h : (s.car c).inService with _ | _ | _ <;> simp [h, or_assoc, and_assoc, and_comm]

/-- The record a STOCK entry writes in the place of `old` (R19). -/
def StockEntry.record (e : StockEntry) (s : State) (old : Bay) : Bay :=
  { old with
    tyre := if e.count = 0 then none else some { article := e.article, batch := e.batch }
    count := e.count
    holds := s.stockHolds e old.holds }

theorem bayLoad_record (e : StockEntry) (s : State) (old : Bay) :
    s.bayLoad (e.record s old) = (e.count * s.weight e.article : Int) := by
  unfold State.bayLoad StockEntry.record
  by_cases h : e.count = 0 <;> simp [h]

/-- The load change of STOCK-WRITE, before a hold cleared is reported (R19). -/
def State.stockShift (s : State) (e : StockEntry) : State :=
  (s.modBay e.bay fun _ => e.record s (s.bay e.bay)).loadChange e.bay.carousel e.bay.carrier
    (s.bayLoad (e.record s (s.bay e.bay)) - s.bayLoad (s.bay e.bay)) true

theorem stockWrite_eq (s : State) (e : StockEntry) : s.stockWrite e =
    if (s.bay e.bay).holds.any && !(s.stockHolds e (s.bay e.bay).holds).any then (s.stockShift e).noteRetry .all
    else s.stockShift e := rfl

/-- What STOCK-WRITE does: the record written, the load of its carousel, and nothing else but what is promised. -/
structure State.StockWritten (s t : State) (e : StockEntry) : Prop where
  kept : ({ s.modBay e.bay (fun _ => e.record s (s.bay e.bay)) with balances := t.balances } : State).Shelved t
  total : e.bay.carousel < s.balances.length → (t.bal e.bay.carousel).total =
    (s.bal e.bay.carousel).total + (e.count * s.weight e.article - s.bayLoad (s.bay e.bay))
  others : ∀ d, d ≠ e.bay.carousel → t.bal d = s.bal d

theorem stockWrite_written (s : State) (e : StockEntry) : s.StockWritten (s.stockWrite e) e := by
  have shifted : State.LoadShifted _ (s.stockShift e) _ _ := loadChange_shifted _ _ _ _ _
  rw [bayLoad_record] at shifted
  rw [stockWrite_eq]
  split
  · exact ⟨shifted.kept.trans (State.Shelved.noteRetry _ _), shifted.total, shifted.others⟩
  · exact ⟨shifted.kept, shifted.total, shifted.others⟩

/-- Test 4 of R19, part by part. -/
theorem stockRefusal_cases (s : State) (e : StockEntry) :
    (4 < e.count → s.stockRefusal e = some .badValue) ∧
    (e.count = 0 → e.article ≠ 0 ∨ e.batch ≠ 0 → s.stockRefusal e = some .badValue) ∧
    (0 < e.count → e.count ≤ 4 → s.article e.article = none → s.stockRefusal e = some .unknownItem) ∧
    (0 < e.count → e.count ≤ 4 → s.article e.article ≠ none → s.stackLimit e.article < e.count →
      s.stockRefusal e = some .badValue) ∧
    ((e.count = 0 ∧ e.article = 0 ∧ e.batch = 0) ∨
        (e.count ≤ 4 ∧ 0 < e.count ∧ (s.article e.article).isSome = true ∧ e.count ≤ s.stackLimit e.article) →
      (∀ h, e.holds = some h → 8 ≤ h ∨ h % 2 = 1 → s.stockRefusal e = some .badValue) ∧
      ((∀ h, e.holds = some h → h < 8 ∧ h % 2 = 0) → s.stockRefusal e = none)) := by
  unfold State.stockRefusal
  refine ⟨fun big => if_pos big, fun zero named => ?_, fun pos le new => ?_, fun pos le known full => ?_, fun fits => ?_⟩
  · rw [if_neg (by omega), if_pos ⟨zero, named⟩]
  · rw [if_neg (by omega), if_neg (by omega), if_pos ⟨pos, by simp [new]⟩]
  · rw [if_neg (by omega), if_neg (by omega), if_neg (by simp [known]), if_pos ⟨pos, full⟩]
  · have known : ¬(0 < e.count ∧ (s.article e.article).isNone = true) := by
      rintro ⟨pos, new⟩
      rcases fits with ⟨zero, _⟩ | ⟨_, _, known, _⟩
      · omega
      · simp [Option.isNone_iff_eq_none.1 new] at known
    rw [if_neg (by omega), if_neg (by omega), if_neg known, if_neg (by omega)]
    constructor
    · intro h carried bad
      rw [carried]
      exact if_pos bad
    · intro good
      cases carried : e.holds with
      | none => rfl
      | some h => exact if_neg (by have := good h carried; omega)

/-- Settles O43: the tests of `loadStock` in turn; an accepted entry is `StockWritten`, and the follow-ups keep it. -/
theorem stockEntryLoads : Obligations.StockEntryLoads := by
  intro s f start bs e bounded q asked read refused c b open_ room
  have row : exec .tableLoadStock s = .next (s.serve f fun s => s.tableLoad State.loadStock start [bs]) :=
    congrArg _ (onRequest_asked asked rfl)
  have load : s.takeRequest.loadStock start bs =
      if s.takeRequest.bayExists e.bay = false then .error .badValue
      else if s.takeRequest.stockWritable c = false then .error .wrongState
      else if b.reserved ≠ 0 ∨ b.incoming ≠ 0 then .error .wrongState
      else match s.takeRequest.stockRefusal e with
        | some r => .error r
        | none => .ok (s.takeRequest.stockWrite e) := by
    unfold State.loadStock
    rw [read]
    rfl
  have refuses : ∀ r, s.takeRequest.loadStock start bs = .error r → refused r := fun r h =>
    row.trans (congrArg _ (serve_tableLoad_error q f h))
  have exists_iff : s.takeRequest.bayExists e.bay = true ↔ room := bayExists_iff s.takeRequest e.bay
  have writable_iff : s.takeRequest.stockWritable c = true ↔ open_ := stockWritable_iff s.takeRequest c
  rw [load] at refuses
  refine ⟨fun no => refuses _ ?_, fun rm no => refuses _ ?_, fun rm op busy => refuses _ ?_, fun rm op res inc => ?_⟩
  · rw [if_pos (by simpa using mt exists_iff.1 no)]
  · rw [if_neg (by simpa using exists_iff.2 rm), if_pos (by simpa using mt writable_iff.1 no)]
  · rw [if_neg (by simpa using exists_iff.2 rm), if_neg (by simpa using writable_iff.2 op), if_pos busy]
  · have tested : ∀ r, s.takeRequest.stockRefusal e = some r → refused r := fun r h => by
      refine refuses _ ?_
      rw [if_neg (by simpa using exists_iff.2 rm), if_neg (by simpa using writable_iff.2 op),
        if_neg (by simp [res, inc]), h]
    obtain ⟨big, zero, unknown, full, fits⟩ := stockRefusal_cases s.takeRequest e
    refine ⟨fun h => tested _ (big h), fun h n => tested _ (zero h n), fun h l n => tested _ (unknown h l n),
      fun h l k x => tested _ (full h l k x), fun ok => ⟨fun h w bad => tested _ ((fits ok).1 h w bad), fun good lt pos => ?_⟩⟩
    have accepted : s.takeRequest.loadStock start bs = .ok (s.takeRequest.stockWrite e) := by
      rw [load, if_neg (by simpa using exists_iff.2 rm), if_neg (by simpa using writable_iff.2 op),
        if_neg (by simp [res, inc]), (fits ok).2 good]
    have written := stockWrite_written s.takeRequest e
    have kept := written.kept.trans (State.Shelved.settle _)
    generalize s.takeRequest.stockWrite e = w at accepted written kept
    have settled := State.Shelved.settle w
    refine ⟨w.settle, row.trans (congrArg _ (serve_tableLoad_ok f accepted)), ?_, fun id other => ?_, ?_, fun d ne => ?_,
      kept.articles, kept.list, kept.transit, kept.target⟩
    · rw [kept.bay]
      show (State.bay (s.modBay e.bay fun _ => e.record s b) e.bay).shelf = _
      rw [bay_modBay_same s e.bay _ (by rw [bounded.eight.2.1]; exact lt) pos]
      simp only [Bay.shelf, StockEntry.record, inc]
      unfold State.stockHolds
      cases e.holds <;> rfl
    · rw [kept.bay]
      show (State.bay (s.modBay e.bay fun _ => e.record s b) id).shelf = _
      rw [State.bay_modBay_other s e.bay id _ (Ne.symm other)]
    · rw [settled.bal, written.total (by show c < s.balances.length; rw [bounded.eight.2.2.1]; exact lt)]
      show (s.bal c).total + (e.count * s.weight e.article - s.bayLoad b) = _
      omega
    · exact (settled.bal d).trans (written.others d ne)

end Sys2Proof.Machine
end

section
/-! DISCREPANCY-RESOLVE (O58): the tests of R153, the CORRECT claim of R13 and the settling of the entry (R154). -/

namespace Sys2Proof.Machine

/-! ## Bays read back -/

/-- A bay of the store has its record before as after. -/
theorem State.Shelved.room {s t : State} (h : s.Shelved t) {id : BayId} (c : id.carousel < s.bays.length)
    (p : s.position id < (s.baysOf id.carousel).length) :
    id.carousel < t.bays.length ∧ t.position id < (t.baysOf id.carousel).length := by
  have carousels := congrArg List.length h.bays
  have positions := congrArg List.length (h.baysOf id.carousel)
  simp only [List.length_map] at carousels positions
  exact ⟨carousels ▸ c, by rw [h.position, positions]; exact p⟩

/-- HOLD-CLEAR clears the reason and reports a set that becomes empty (R14). -/
theorem holdClear_eq (s : State) (id : BayId) (r : HoldReason) : s.holdClear id r =
    if (s.bay id).holds.any && !((s.bay id).holds.put r false).any then
      (s.modBay id fun b => { b with holds := b.holds.put r false }).noteRetry .all
    else s.modBay id fun b => { b with holds := b.holds.put r false } := rfl

theorem holdClear_shelved (s : State) (id : BayId) (r : HoldReason) :
    (s.modBay id fun b => { b with holds := b.holds.put r false }).Shelved (s.holdClear id r) := by
  rw [holdClear_eq]
  split
  · exact State.Shelved.noteRetry _ _
  · exact State.Shelved.refl _

/-! ## The CORRECT claim (R13) -/

/-- The record that a CORRECT claim writes in the place of `b`. -/
def Bay.corrected (b : Bay) (found : Option Found) : Bay :=
  match found with
  | none => { b with tyre := if b.incoming = 0 then none else b.tyre, count := 0, reserved := 0 }
  | some z => { b with tyre := some z.tyre, count := z.count, reserved := 0 }

/-- A found state fits a bay: within the stack limit with what is incoming, and of the incoming article and batch. -/
def State.fits (s : State) (b : Bay) (found : Option Found) : Prop :=
  ∀ z, found = some z → 0 < z.count ∧ z.count + b.incoming ≤ s.stackLimit z.tyre.article ∧
    (0 < b.incoming → b.tyre = some z.tyre)

theorem correct_ok (s : State) (id : BayId) (found : Option Found) (h : s.fits (s.bay id) found) :
    s.correct id found = .ok ((s.modBay id fun _ => (s.bay id).corrected found).loadChange id.carousel id.carrier
      (s.bayLoad ((s.bay id).corrected found) - s.bayLoad (s.bay id)) true) := by
  cases found with
  | none =>
    have record : ({ s.bay id with count := 0, reserved := 0 } : Bay).tidy = (s.bay id).corrected none := by
      unfold Bay.tidy Bay.corrected
      dsimp only
      by_cases i : (s.bay id).incoming = 0 <;> simp [i]
    unfold State.correct
    simp only [record]
  | some z =>
    obtain ⟨pos, limit, same⟩ := h z rfl
    unfold State.correct
    dsimp only
    by_cases i : (s.bay id).incoming = 0
    · have record : ({ s.bay id with tyre := some z.tyre, count := z.count, reserved := 0 } : Bay).tidy =
          (s.bay id).corrected (some z) := if_neg (show ¬z.count + (s.bay id).incoming = 0 by omega)
      rw [if_pos i, if_neg (by omega), record]
    · have record : ({ s.bay id with count := z.count, reserved := 0 } : Bay) = (s.bay id).corrected (some z) := by
        rw [Bay.corrected, ← same (by omega)]
      rw [if_neg i, if_pos ⟨same (by omega), limit⟩, record]

theorem correct_stackLimit (s : State) (id : BayId) (z : Found) (h : s.stackLimit z.tyre.article < z.count) :
    s.correct id (some z) = .error .stackLimit := by
  have misfit : ¬((s.bay id).tyre = some z.tyre ∧ z.count + (s.bay id).incoming ≤ s.stackLimit z.tyre.article) := by omega
  unfold State.correct
  simp only [h, misfit, if_true, if_false, ite_self]

theorem correct_incoming (s : State) (id : BayId) (z : Found) (le : z.count ≤ s.stackLimit z.tyre.article)
    (pos : 0 < (s.bay id).incoming)
    (h : (s.bay id).tyre ≠ some z.tyre ∨ s.stackLimit z.tyre.article < z.count + (s.bay id).incoming) :
    s.correct id (some z) = .error .incoming := by
  unfold State.correct
  dsimp only
  rw [if_neg (by omega), if_neg, if_neg (by omega)]
  rintro ⟨same, fits⟩
  exact h.elim (· same) (by omega)

/-- What the claim of a resolve does: `w` is the record of bay `id` after it. -/
structure State.Claimed (s t : State) (id : BayId) (w : Bay) : Prop where
  room : id.carousel < t.bays.length ∧ t.position id < (t.baysOf id.carousel).length
  bay : (t.bay id).shelf = w.shelf
  total : (t.bal id.carousel).total = (s.bal id.carousel).total + s.bayLoad w - s.bayLoad (s.bay id)
  others : ∀ d, d ≠ id.carousel → t.bal d = s.bal d
  articles : t.articles = s.articles
  list : t.audit.list = s.audit.list
  listFull : t.audit.listFull = s.audit.listFull
  transit : t.consolidation.transit = s.consolidation.transit

theorem claimed_refl (s : State) (id : BayId) (c : id.carousel < s.bays.length)
    (p : s.position id < (s.baysOf id.carousel).length) : s.Claimed s id (s.bay id) :=
  ⟨⟨c, p⟩, rfl, by omega, fun _ _ => rfl, rfl, rfl, rfl, rfl⟩

theorem claimed_loadChange (s : State) (id : BayId) (w : Bay) (c : id.carousel < s.bays.length)
    (b : id.carousel < s.balances.length) (p : s.position id < (s.baysOf id.carousel).length) :
    s.Claimed ((s.modBay id fun _ => w).loadChange id.carousel id.carrier (s.bayLoad w - s.bayLoad (s.bay id)) true) id w := by
  have shifted := loadChange_shifted (s.modBay id fun _ => w) id.carousel id.carrier
    (s.bayLoad w - s.bayLoad (s.bay id)) true
  generalize State.loadChange _ _ _ _ _ = t at shifted ⊢
  have kept := shifted.kept
  have same : (s.modBay id fun _ => w).bay id = w := bay_modBay_same s id _ c p
  have room : (s.modBay id fun _ => w).position id < ((s.modBay id fun _ => w).baysOf id.carousel).length := by
    show s.position id < _
    simpa [State.baysOf, getD_modify, c] using p
  refine ⟨kept.room (by simpa using c) room, (kept.bay id).trans (congrArg Bay.shelf same), ?_,
    shifted.others, kept.articles, kept.list, kept.listFull, kept.transit⟩
  rw [shifted.total b]
  show (s.bal id.carousel).total + _ = _
  omega

/-! ## The tests (R153) -/

theorem resolveBlocked_iff (s : State) (id : BayId) : s.resolveBlocked id = true ↔
    (s.car id.carousel).state = .moving ∨ s.hasClaim id.carousel = true ∨ ((s.car id.carousel).state = .presenting ∧
      ((∃ t, (s.car id.carousel).inService = some (.task t)) ∨
        ((s.car id.carousel).inService = some .step ∧
          (s.car id.carousel).sweep.map SweepContext.next = some id.carrier))) := by
  unfold State.resolveBlocked
  rcases h : (s.car id.carousel).inService with _ | _ | _ <;> simp [h, or_assoc]

/-- An entry of a list of different numbers is found by its own. -/
theorem find_number (l : List Discrepancy) (e : Discrepancy) (n : (l.map Discrepancy.number).Nodup) (m : e ∈ l) :
    l.find? (fun x => x.number == e.number) = some e := by
  induction l with
  | nil => cases m
  | cons x l ih =>
    obtain ⟨new, rest⟩ := List.nodup_cons.1 (List.map_cons ▸ n)
    rcases List.mem_cons.1 m with rfl | m
    · simp
    · rw [List.find?_cons_of_neg, ih rest m]
      have : x.number ≠ e.number := fun h => new (h ▸ List.mem_map_of_mem m)
      simpa using this

/-- The found or explicit state that an action writes (R154), where the tests of R153 pass. -/
theorem resolveState_ok (s : State) (e : Discrepancy) (action : ResolveAction) (found : Option (Option Found))
    (h : (action = .keepRecorded ∧ found = none) ∨
      (action = .acceptFound ∧ e.kind ≠ .unread ∧ e.found.length ≤ 1 ∧ found = some e.found.head?) ∨
      (∃ x y n, action = .set x y n ∧
        found = some (if n = 0 then none else some { tyre := { article := x, batch := y }, count := n })))
    (known : ∀ z, found = some (some z) → 0 < z.count ∧ (s.article z.tyre.article).isSome = true) :
    s.resolveState e action = .ok found := by
  rcases h with ⟨rfl, rfl⟩ | ⟨rfl, read, one, rfl⟩ | ⟨x, y, n, rfl, rfl⟩
  · rfl
  · unfold State.resolveState
    rw [if_neg read]
    rcases list : e.found with _ | ⟨z, _ | ⟨z', rest⟩⟩
    · rfl
    · exact if_pos (known z (by rw [list]; rfl)).2
    · simp [list] at one
  · unfold State.resolveState
    by_cases zero : n = 0
    · simp [zero]
    · simp only [if_neg zero] at known ⊢
      exact if_pos (known _ rfl).2

/-- The rest of a resolve once the entry is found and its bay `id` may be touched: test 5 of R153, and R154. -/
def State.resolveFree (s : State) (id : BayId) (e : Discrepancy) (action : ResolveAction) : State × Reply :=
  match s.resolveState e action with
  | .error r => (s, .refused r)
  | .ok found =>
    match s.resolveClaim id found with
    | .error .stackLimit => (s, .refused .badValue)
    | .error .incoming => (s, .refused .inUse)
    | .ok t =>
      ((t.removeEntry id e).1, { (t.removeEntry id e).2 with
        fields := [byte e.number, resolveCode action] ++ (t.removeEntry id e).2.fields })

section Tests

variable {s : State} {e : Discrepancy} {action : ResolveAction} {id : BayId} (inRange : action.inRange = true)
  (listed : s.audit.list.find? (fun x => x.number == e.number) = some e) (at_ : s.bayAt e.carousel e.position = id)
include inRange listed at_

/-- Tests 3 and 4 of R153 on the bay of an entry found. -/
theorem resolve_listed : s.resolve e.number action =
    if s.bayExists id = false then (s, .refused .badValue)
    else if s.resolveBlocked id then (s, .refused .wrongState) else s.resolveFree id e action := by
  subst at_
  unfold State.resolve
  rw [if_neg (by simp [inRange]), listed]
  rfl

variable (ex : s.bayExists id = true) (free : ¬s.resolveBlocked id = true)
include ex free

theorem resolve_noState {r : Reason} (state : s.resolveState e action = .error r) :
    s.resolve e.number action = (s, .refused r) := by
  rw [resolve_listed inRange listed at_, if_neg (by simp [ex]), if_neg free, State.resolveFree, state]

variable {found : Option (Option Found)} (state : s.resolveState e action = .ok found)
include state

theorem resolve_stackLimit (claim : s.resolveClaim id found = .error .stackLimit) :
    s.resolve e.number action = (s, .refused .badValue) := by
  simp [resolve_listed inRange listed at_, ex, free, State.resolveFree, state, claim]

theorem resolve_incoming (claim : s.resolveClaim id found = .error .incoming) :
    s.resolve e.number action = (s, .refused .inUse) := by
  simp [resolve_listed inRange listed at_, ex, free, State.resolveFree, state, claim]

theorem resolve_done {t : State} (claim : s.resolveClaim id found = .ok t) :
    s.resolve e.number action = ((t.removeEntry id e).1,
      { (t.removeEntry id e).2 with fields := [byte e.number, resolveCode action] ++ (t.removeEntry id e).2.fields }) := by
  simp [resolve_listed inRange listed at_, ex, free, State.resolveFree, state, claim]

end Tests

/-- Test 5 of R153 on ACCEPT-FOUND. -/
theorem resolveState_unread (s : State) (e : Discrepancy)
    (bad : e.kind = .unread ∨ 2 ≤ e.found.length ∨ ∃ z ∈ e.found, s.article z.tyre.article = none) :
    s.resolveState e .acceptFound = .error .badValue := by
  unfold State.resolveState
  rcases list : e.found with _ | ⟨z, _ | ⟨z', rest⟩⟩
  · exact if_pos (by simpa [list] using bad)
  · have bad : e.kind = .unread ∨ s.article z.tyre.article = none := by simpa [list] using bad
    rcases bad with unread | new
    · exact if_pos unread
    · simp [new]
  · simp

/-- Test 5 of R153 on SET. -/
theorem resolveState_unknown (s : State) (e : Discrepancy) (x y n : Nat) (pos : 0 < n) (new : s.article x = none) :
    s.resolveState e (.set x y n) = .error .unknownItem := by
  simp [State.resolveState, Nat.ne_of_gt pos, new]

/-! ## The entry goes (R154) -/

/-- The removal of entry `e` after its claim: what it leaves of the bay and what it answers. -/
theorem removeEntry_spec (t : State) (id : BayId) (e : Discrepancy)
    (room : id.carousel < t.bays.length ∧ t.position id < (t.baysOf id.carousel).length) :
    let rest := t.audit.list.filter fun x => x.number != e.number
    let named := ∃ x ∈ rest, x.carousel = e.carousel ∧ x.position = e.position
    let v := (t.removeEntry id e).1
    (t.removeEntry id e).2 = .done ([flagByte (decide (¬named) && (t.bay id).holds.audit), byte (t.bay id).count] ++
      tyreOptBytes (t.bay id).tyre) ∧
    v.audit.list = rest ∧ v.audit.listFull = (t.audit.listFull && decide (t.audit.list.length < 32)) ∧
    (named → (v.bay id).shelf = (t.bay id).shelf) ∧
    (¬named → (v.bay id).shelf = { (t.bay id).shelf with holds := { (t.bay id).holds with audit := false } }) ∧
    v.balances = t.balances ∧ v.articles = t.articles ∧ v.consolidation.transit = t.consolidation.transit := by
  intro rest named
  have named_iff : (rest.any fun x => x.carousel == e.carousel && x.position == e.position) = true ↔ named := by
    simp [named]
  have full : (t.audit.listFull && !decide (32 ≤ t.audit.list.length)) =
      (t.audit.listFull && decide (t.audit.list.length < 32)) := by
    rw [← decide_not]
    simp
  unfold State.removeEntry
  dsimp only
  rw [show t.audit.list.filter (fun x => x.number != e.number) = rest from rfl, full]
  by_cases n : named
  · simp only [named_iff.2 n, n, if_true]
    exact ⟨by simp; rfl, trivial, trivial, fun _ => rfl, fun h => absurd trivial h, trivial, trivial, trivial⟩
  · have nb : (rest.any fun x => x.carousel == e.carousel && x.position == e.position) = false := by
      simpa using mt named_iff.1 n
    simp only [nb, n, Bool.false_eq_true, if_false]
    generalize hu : ({ t with audit := { t.audit with
      list := rest, listFull := t.audit.listFull && decide (t.audit.list.length < 32) } } : State) = u
    have bay : u.bay id = t.bay id := by rw [← hu]; rfl
    have kept := holdClear_shelved u id .audit
    have cleared : (u.modBay id fun b => { b with holds := b.holds.put .audit false }).bay id =
        { t.bay id with holds := { (t.bay id).holds with audit := false } } := by
      rw [bay_modBay_same u id _ (by rw [← hu]; exact room.1) (by rw [← hu]; exact room.2), bay]
      rfl
    have shelf := (kept.bay id).trans (congrArg Bay.shelf cleared)
    have count : ((u.holdClear id .audit).bay id).count = (t.bay id).count := (congrArg Bay.count shelf :)
    have tyre : ((u.holdClear id .audit).bay id).tyre = (t.bay id).tyre := (congrArg Bay.tyre shelf :)
    rw [count, tyre, kept.list, kept.listFull, kept.balances, kept.articles, kept.transit]
    refine ⟨by simp, ?_, ?_, fun h => h.elim, fun _ => shelf, ?_, ?_, ?_⟩ <;> rw [← hu] <;> rfl

/-! ## The request -/

/-- The row of each action serves a resolve of that action. -/
theorem resolve_row {s : State} {f : Frame} {number : Nat} {action : ResolveAction} {i : Instr}
    (asked : s.asked f (.resolve number action))
    (row : (i = .discrepancyResolveKeepRecorded ∧ action = .keepRecorded) ∨
      (i = .discrepancyResolveAcceptFound ∧ action = .acceptFound) ∨
      (i = .discrepancyResolveSet ∧ ∃ a b n, action = .set a b n)) :
    exec i s = .next (s.serve f fun s => s.resolve number action) := by
  rcases row with ⟨rfl, rfl⟩ | ⟨rfl, rfl⟩ | ⟨rfl, a, b, n, rfl⟩ <;> exact congrArg _ (onRequest_asked asked rfl)

/-- Settles O58: the tests of `resolve` in turn; then the claim (`Claimed`), the removal of the entry and the follow-ups. -/
theorem resolveRemovesEntry : Obligations.ResolveRemovesEntry := by
  refine ⟨fun s f number a b n q asked out => ?_, fun s f number action i e bounded keyed q asked rows => ?_⟩
  · rw [resolve_row asked (.inr (.inr ⟨rfl, a, b, n, rfl⟩)), serve_refused q]
    refine if_pos ?_
    simp only [ResolveAction.inRange, Bool.and_eq_false_iff, Bool.or_eq_false_iff, decide_eq_false_iff_not]
    omega
  have row := resolve_row asked (rows.imp_right (Or.imp_right (And.imp_right
    fun ⟨a, b, n, h, _⟩ => ⟨a, b, n, h⟩)))
  have inRange : action.inRange = true := by
    rcases rows with ⟨_, rfl⟩ | ⟨_, rfl⟩ | ⟨_, a, b, n, rfl, le, zero⟩
    · rfl
    · rfl
    · simp only [ResolveAction.inRange, Bool.and_eq_true, Bool.or_eq_true, decide_eq_true_eq]
      omega
  have refuses : ∀ r, s.takeRequest.resolve number action = (s.takeRequest, .refused r) →
      exec i s = .next (s.takeRequest.answer f (.refused r)) := fun r h => by rw [row, serve_refused q f h]
  refine ⟨fun absent => refuses _ ?_, ?_⟩
  · have none_found : s.takeRequest.audit.list.find? (fun x => x.number == number) = none :=
      List.find?_eq_none.2 fun x hx => by simpa using absent x hx
    unfold State.resolve
    rw [if_neg (by simp [inRange]), none_found]
  rintro member rfl id b k blocked
  have listed : s.takeRequest.audit.list.find? (fun x => x.number == e.number) = some e :=
    find_number s.audit.list e keyed.discrepancies member
  have at_ : s.takeRequest.bayAt e.carousel e.position = id := rfl
  have blocked_iff : s.takeRequest.resolveBlocked id = true ↔ blocked := resolveBlocked_iff s.takeRequest id
  have tests := resolve_listed inRange listed at_
  refine ⟨fun no => refuses _ (tests.trans (if_pos no)),
    fun ex bl => refuses _ (tests.trans ((if_neg fun no => Bool.false_ne_true (no.symm.trans ex)).trans
      (if_pos (blocked_iff.2 bl)))), fun ex free acc bad => ?_, fun x y n ex free set pos new => ?_,
    fun found ex free place hfound known => ?_⟩
  · exact refuses _ (resolve_noState inRange listed at_ ex (mt blocked_iff.1 free)
      (acc ▸ resolveState_unread s.takeRequest e bad))
  · exact refuses _ (resolve_noState inRange listed at_ ex (mt blocked_iff.1 free)
      (set ▸ resolveState_unknown s.takeRequest e x y n pos new))
  have state := resolveState_ok s.takeRequest e action found hfound known
  refine ⟨fun z hz above => ?_, fun z hz le pos misfit => ?_, fun fit => ?_⟩
  · subst hz
    exact refuses _ (resolve_stackLimit inRange listed at_ ex (mt blocked_iff.1 free) state
      (correct_stackLimit s.takeRequest id z above))
  · subst hz
    exact refuses _ (resolve_incoming inRange listed at_ ex (mt blocked_iff.1 free) state
      (correct_incoming s.takeRequest id z le pos misfit))
  intro written rest named
  have carousel : e.carousel < 8 := by
    by_contra out
    simp [State.baysOf, List.getD_eq_getElem?_getD, List.getElem?_eq_none (bounded.eight.2.1.le.trans (not_lt.1 out))] at place
  have position : s.position id < (s.baysOf id.carousel).length := by
    rw [show s.position id = e.position from congrArg Prod.snd (s.place_bayAt e.carousel e.position)]
    exact place
  have claim : ∃ t, s.takeRequest.resolveClaim id found = .ok t ∧ ∃ w, s.takeRequest.Claimed t id w ∧
      w.shelf = written.shelf ∧ s.bayLoad w = s.bayLoad written := by
    have in_bays : id.carousel < s.takeRequest.bays.length := by
      show e.carousel < s.bays.length
      rwa [bounded.eight.2.1]
    have in_balances : id.carousel < s.takeRequest.balances.length := by
      show e.carousel < s.balances.length
      rwa [bounded.eight.2.2.1]
    rcases found with _ | found
    · exact ⟨_, rfl, b, claimed_refl s.takeRequest id in_bays position, rfl, rfl⟩
    · refine ⟨_, correct_ok s.takeRequest id found fun z hz => ?_, _,
        claimed_loadChange s.takeRequest id _ in_bays in_balances position, ?_, ?_⟩
      · obtain ⟨limit, same⟩ := fit z (congrArg some hz)
        exact ⟨(known z (congrArg some hz)).1, limit, same⟩
      · cases found <;> rfl
      · cases found <;> rfl
  obtain ⟨t, ok, w, claimed, shelf, load⟩ := claim
  obtain ⟨reply, list, listFull, kept, cleared, balances, articles, transit⟩ := removeEntry_spec t id e claimed.room
  have resolve := resolve_done inRange listed at_ ex (mt blocked_iff.1 free) state ok
  have settled := State.Shelved.settle (t.removeEntry id e).1
  have bay := claimed.bay.trans shelf
  have holds : (t.bay id).holds = b.holds := by
    have h : (t.bay id).holds = written.holds := (congrArg Bay.holds bay :)
    rw [h]
    rcases found with _ | _ | z <;> rfl
  have count : (t.bay id).count = written.count := (congrArg Bay.count bay :)
  have tyre : (t.bay id).tyre = written.tyre := (congrArg Bay.tyre bay :)
  have bals : ∀ d, (t.removeEntry id e).1.settle.bal d = t.bal d := fun d =>
    (settled.bal d).trans (by unfold State.bal; rw [balances])
  rw [claimed.list] at reply list listFull kept cleared
  rw [count, tyre, holds] at reply
  refine ⟨(t.removeEntry id e).1.settle, ?_, settled.list.trans list, ?_, fun n => ?_, fun n => ?_, ?_, fun d ne => ?_,
    (settled.articles.trans articles).trans claimed.articles,
    (settled.transit.trans transit).trans claimed.transit⟩
  · rw [row, serve_done f resolve]
    dsimp only
    rw [reply]
    rfl
  · rw [settled.listFull, listFull, claimed.listFull]
    rfl
  · rw [settled.bay, kept n, bay]
  · rw [settled.bay, cleared n, bay, holds]
  · rw [bals]
    exact claimed.total.trans (by rw [show s.takeRequest.bayLoad w = _ from load]; rfl)
  · rw [bals]
    exact claimed.others d ne

end Sys2Proof.Machine
end

section
/-! What a HOLD-SET with its withdrawals can do (R14, R15). -/

namespace Sys2Proof.Machine

/-! ## Bays under a change -/

theorem map_modify_comm {α β : Type} (g : α → β) (f : α → α) (h : β → β) (e : ∀ a, g (f a) = h (g a)) (l : List α)
    (i : Nat) : (l.modify i f).map g = (l.map g).modify i h := by
  induction l generalizing i with
  | nil => cases i <;> rfl
  | cons a l ih => cases i with
    | zero => simp [e]
    | succ i => simp [ih]

/-- Changes of one bay that agree but for what is promised keep the store's records alike. -/
theorem State.Shelved.modBay {s t : State} (k : s.Shelved t) (id : BayId) (f g h : Bay → Bay)
    (hf : ∀ b, (f b).shelf = h b.shelf) (hg : ∀ b, (g b).shelf = h b.shelf) :
    (s.modBay id f).Shelved (t.modBay id g) where
  bays := by
    simp only [State.modBay_bays]
    rw [map_modify_comm (List.map Bay.shelf) _ (fun l => l.modify (t.position id) h) fun l => map_modify_comm _ _ _ hg _ _,
      map_modify_comm (List.map Bay.shelf) _ (fun l => l.modify (s.position id) h) fun l => map_modify_comm _ _ _ hf _ _,
      k.bays, k.position]
  profiles := k.profiles
  articles := k.articles
  balances := k.balances
  transit := k.transit
  audit := k.audit
  target := k.target

/-! ## The end of a pick task -/

/-- The end of a pick task changes no record of the store but what is promised (R54). -/
theorem endTask_shelved (s : State) (id : Nat) (b : Bool) (k : Task) (e : s.task id = some k) (pick : k.kind = .pick) :
    s.Shelved (s.endTask id b) := by
  unfold State.endTask
  rw [e]
  dsimp only
  rw [pick]
  dsimp only
  refine State.Shelved.trans ?_ (State.Shelved.noteRetry _ _)
  refine State.Shelved.trans ?_ (State.Shelved.setTask _ _ _)
  have left : ∀ u : State, u.Shelved (u.leaveGroup id k) := fun u => by
    obtain ⟨_, e, _⟩ := leaveGroup_ended u id k
    rw [e]
    exact State.Shelved.orderUnit u _
  refine State.Shelved.trans ?_ (left _)
  refine (State.Shelved.giveBack s k.transit).trans ?_
  split
  · exact State.Shelved.of_keeps (State.keeps_reserveRelease (fun _ => True) _ _ _)
  · exact State.Shelved.refl _

/-! ## A task leaves where it stands (R15, R67) -/

theorem detach_shelved (s : State) (id : Nat) (k : Task) : s.Shelved (s.detach id k) := by
  unfold State.detach
  dsimp only
  split
  · refine State.Shelved.trans ?_ (State.Shelved.notePoint _ _)
    exact (State.Shelved.leaveWait s _).trans (State.Shelved.modCar _ _ _ fun _ => rfl)
  · exact State.Shelved.modCar s _ _ fun _ => rfl
  · refine State.Shelved.trans ?_ (State.Shelved.modOrder _ _ _)
    exact State.Shelved.modCar s _ _ fun _ => rfl

theorem notePoint_frame (s : State) (c : Nat) : s.notePoint c = { s with agenda := (s.notePoint c).agenda } := by
  unfold State.notePoint
  split <;> rfl

theorem detach_pool (s : State) (id : Nat) (k : Task) : (s.detach id k).orderUnit.pool = s.orderUnit.pool := by
  unfold State.detach
  dsimp only
  split
  · rw [notePoint_frame]
    rfl
  · rfl
  · rfl

theorem detach_task (s : State) (id : Nat) (k : Task) (j : Nat) : (s.detach id k).task j = s.task j := by
  unfold State.task
  rw [detach_pool]

/-- Only a task in POWER-WAIT takes the work in service with it. -/
theorem detach_inService (s : State) (id : Nat) (k : Task) (c : Nat) :
    ((s.detach id k).car c).inService = (s.car c).inService ∨
      ((s.detach id k).car c).inService = none ∧ k.state = .powerWait ∧ k.bay.carousel = c := by
  unfold State.detach
  dsimp only
  split
  · next waiting =>
    rw [notePoint_frame]
    show (((s.leaveWait k.bay.carousel).modCar k.bay.carousel _).car c).inService = _ ∨
      (((s.leaveWait k.bay.carousel).modCar k.bay.carousel _).car c).inService = none ∧ _
    rw [State.car_modCar]
    split
    · next e => exact .inr ⟨rfl, waiting, e.1⟩
    · exact .inl rfl
  · rw [State.car_modCar]
    split <;> exact .inl rfl
  · show ((s.modCar k.bay.carousel _).car c).inService = _ ∨ _
    rw [State.car_modCar]
    split <;> exact .inl rfl

/-! ## Withdrawal (R15) -/

/-- A pick task that a hold on bay `id` withdraws. -/
def Task.drawsOn (t : Task) (id : BayId) : Prop :=
  t.kind = .pick ∧ t.bay = id ∧ t.withdrawable = true

/-- The tasks listed in `l` that draw on bay `id` are withdrawn: `s` is the part before, `t` after. -/
structure State.Withdrawn (id : BayId) (l : List Nat) (s t : State) : Prop where
  shelved : s.Shelved t
  old : ∀ k x, t.task k = some x → s.task k = some x
  stays : ∀ k x, s.task k = some x → ¬x.drawsOn id → t.task k = some x
  gone : ∀ k ∈ l, ∀ x, t.task k = some x → ¬x.drawsOn id
  service : ∀ c, (t.car c).inService = (s.car c).inService ∨
    (t.car c).inService = none ∧ ∃ k x, s.task k = some x ∧ x.state = .powerWait ∧ x.bay.carousel = c

theorem State.Withdrawn.refl (id : BayId) (s : State) : State.Withdrawn id [] s s :=
  ⟨State.Shelved.refl s, fun _ _ h => h, fun _ _ h _ => h, nofun, fun _ => .inl rfl⟩

theorem State.Withdrawn.trans {id : BayId} {l m : List Nat} {s t u : State} (a : State.Withdrawn id l s t)
    (b : State.Withdrawn id m t u) : State.Withdrawn id (l ++ m) s u where
  shelved := a.shelved.trans b.shelved
  old := fun k x h => a.old k x (b.old k x h)
  stays := fun k x h n => b.stays k x (a.stays k x h n) n
  gone := fun k hk x h => (List.mem_append.1 hk).elim (fun hk => a.gone k hk x (b.old k x h)) fun hk => b.gone k hk x h
  service := fun c => by
    rcases b.service c with same | ⟨none_left, k, x, task, wait, bay⟩
    · rw [same]
      exact a.service c
    · exact .inr ⟨none_left, k, x, a.old k x task, wait, bay⟩

theorem withdrawFrom_withdrawn (id : BayId) (s : State) (k : Nat) : State.Withdrawn id [k] s (s.withdrawFrom id k) := by
  have untouched : (∀ x, s.task k = some x → ¬x.drawsOn id) → State.Withdrawn id [k] s s := fun no =>
    { State.Withdrawn.refl id s with gone := fun j hj x h => no x (List.mem_singleton.1 hj ▸ h) }
  unfold State.withdrawFrom
  split
  · next x task =>
    split
    · next draws =>
      have ended := endTask_ended (s.detach k x) k true
      have others : ∀ j, j ≠ k → ((s.detach k x).endTask k).task j = s.task j := fun j ne =>
        (ended.others j ne).trans (detach_task s k x j)
      refine ⟨(detach_shelved s k x).trans
        (endTask_shelved _ k true x ((detach_task s k x k).trans task) draws.1), fun j y h => ?_, fun j y h no => ?_,
        fun j hj y h => ?_, fun c => ?_⟩
      · by_cases e : j = k
        · rw [e, ended.task] at h
          cases h
        · rwa [others j e] at h
      · by_cases e : j = k
        · rw [e, task] at h
          cases h
          exact absurd draws no
        · rwa [others j e]
      · rw [List.mem_singleton.1 hj, ended.task] at h
        cases h
      · unfold State.car
        rw [ended.carousels]
        exact (detach_inService s k x c).imp_right fun ⟨none_left, wait, bay⟩ => ⟨none_left, k, x, task, wait, bay⟩
    · next no =>
      refine untouched fun y h => ?_
      rw [task] at h
      cases h
      exact no
  · next none_there =>
    refine untouched fun y h => ?_
    rw [none_there] at h
    cases h

theorem withdrawAll_withdrawn (id : BayId) (l : List Nat) (s : State) :
    State.Withdrawn id l s (l.foldl (State.withdrawFrom id) s) := by
  induction l generalizing s with
  | nil => exact State.Withdrawn.refl id s
  | cons k l ih => exact (withdrawFrom_withdrawn id s k).trans (ih _)

/-! ## HOLD-SET -/

/-- The withdrawals of a HOLD-SET: those of a bay's first reason (R15). -/
def State.withdrawn (s : State) (id : BayId) : State :=
  if (s.bay id).holds.any then s else (List.range 128).foldl (State.withdrawFrom id) s

theorem withdrawn_spec (s : State) (id : BayId) :
    State.Withdrawn id (if (s.bay id).holds.any then [] else List.range 128) s (s.withdrawn id) := by
  unfold State.withdrawn
  split
  · exact State.Withdrawn.refl id s
  · exact withdrawAll_withdrawn id _ s

/-- A HOLD-SET withdraws, and then changes its bay's record alone: the reason is set, and reserved is 0 after a first one. -/
theorem holdSet_eq (s : State) (id : BayId) (r : HoldReason) : ∃ f : Bay → Bay,
    (∀ b, (f b).shelf = { b.shelf with holds := b.holds.put r true }) ∧ s.holdSet id r = (s.withdrawn id).modBay id f := by
  unfold State.holdSet State.withdrawn
  split
  · exact ⟨_, fun _ => rfl, rfl⟩
  · exact ⟨_, fun _ => rfl, rfl⟩

/-- What a HOLD-SET does to the store's records: its reason, and what is promised. -/
theorem holdSet_shelved (s : State) (id : BayId) (r : HoldReason) :
    (s.modBay id fun b => { b with holds := b.holds.put r true }).Shelved (s.holdSet id r) := by
  obtain ⟨f, shelf, e⟩ := holdSet_eq s id r
  rw [e]
  exact (withdrawn_spec s id).shelved.modBay id _ _ (fun b => { b with holds := b.holds.put r true })
    (fun _ => rfl) shelf

theorem holdSet_task (s : State) (id : BayId) (r : HoldReason) (k : Nat) :
    (s.holdSet id r).task k = (s.withdrawn id).task k := by
  obtain ⟨f, _, e⟩ := holdSet_eq s id r
  rw [e]
  rfl

theorem holdSet_car (s : State) (id : BayId) (r : HoldReason) (c : Nat) :
    (s.holdSet id r).car c = (s.withdrawn id).car c := by
  obtain ⟨f, _, e⟩ := holdSet_eq s id r
  rw [e]
  rfl

end Sys2Proof.Machine
end

section
/-! A held bay gets no new task: the follow-ups of a step draw on bays without a hold alone (R98, R100). -/

namespace Sys2Proof.Machine

/-- Every task on bay `id`, held, is one that the part had before, on the same bay: `s` is the part before, `t` after. -/
structure State.Shuns (id : BayId) (s t : State) : Prop where
  holds : (t.bay id).holds = (s.bay id).holds
  tasks : (s.bay id).holds.any = true → ∀ k x, t.task k = some x → x.bay = id →
    ∃ y, s.task k = some y ∧ y.bay = id ∧ y.kind = x.kind

/-- No record that was free holds a task. -/
def State.NoNewTask (s t : State) : Prop :=
  ∀ k, s.task k = none → t.task k = none

theorem State.Shuns.refl (id : BayId) (s : State) : State.Shuns id s s :=
  ⟨rfl, fun _ _ x h e => ⟨x, h, e, rfl⟩⟩

theorem State.Shuns.trans {id : BayId} {s t u : State} (a : State.Shuns id s t) (b : State.Shuns id t u) :
    State.Shuns id s u where
  holds := b.holds.trans a.holds
  tasks := fun held k x h e => by
    obtain ⟨y, task, bay, kind⟩ := b.tasks (by rwa [a.holds]) k x h e
    obtain ⟨z, task, bay, same⟩ := a.tasks held k y task bay
    exact ⟨z, task, bay, same.trans kind⟩

theorem State.Shuns.of_keeps {p : Nat → Prop} (id : BayId) {s t : State} (k : s.Keeps p t) (n : s.NoNewTask t) :
    State.Shuns id s t where
  holds := (congrArg Bay.holds (keeps_bay k id) :)
  tasks := fun _ j x h e => by
    cases task : s.task j with
    | none =>
      rw [n j task] at h
      cases h
    | some y =>
      obtain ⟨st, m, after⟩ := k.tasks j y task
      rw [after] at h
      cases h
      exact ⟨y, rfl, e, rfl⟩

theorem State.Shuns.foldl {α : Type} (id : BayId) (f : State → α → State) (h : ∀ (s : State) a, State.Shuns id s (f s a))
    (l : List α) (s : State) : State.Shuns id s (l.foldl f s) := by
  induction l generalizing s with
  | nil => exact State.Shuns.refl id s
  | cons a l ih => exact (h s a).trans (ih _)

namespace State.NoNewTask

theorem trans {s t u : State} (a : s.NoNewTask t) (b : t.NoNewTask u) : s.NoNewTask u := fun k h => b k (a k h)

theorem of_pool {s t : State} (h : t.orderUnit.pool = s.orderUnit.pool) : s.NoNewTask t := fun k n => by
  rw [State.task, h]
  exact n

theorem of_sole {l : List Nat} {s t : State} (a : s.Sole l t) (h : ∀ j ∈ l, s.task j ≠ none) : s.NoNewTask t :=
  fun k n => (a k fun m => h k m n).trans n

end State.NoNewTask

/-! ## Service points -/

theorem State.walk_noNewTask (c : Nat) (l : List Nat) (s : State) (i : (s.car c).inService = none) :
    s.NoNewTask (State.walk c l s).1 := by
  induction l generalizing s with
  | nil => exact fun _ h => h
  | cons id rest ih =>
    unfold State.walk
    split
    · exact ih s i
    · next k task =>
      split
      · have a : s.NoNewTask (s.attemptRelease c id k).1 :=
          .of_sole (s.sole_attemptRelease c id k i) fun j hj => by simp [List.mem_singleton.1 hj, task]
        have failed := s.attemptRelease_failed c id k
        split
        · next r =>
          rw [r] at a
          exact a
        · next r =>
          rw [r] at a failed
          exact a.trans (ih _ (by rw [State.car, failed rfl]; exact i))
      · exact ih s i

theorem State.servicePoint_noNewTask (s : State) (c : Nat) : s.NoNewTask (s.servicePoint c) := by
  unfold State.servicePoint
  split
  · next idle =>
    have i : (s.car c).inService = none := by
      simp only [State.idleReady, Bool.and_eq_true, Option.isNone_iff_eq_none] at idle
      exact idle.2
    have w := State.walk_noNewTask c (s.car c).walkOrder s i
    have still := (State.settled_walk c (s.car c).walkOrder s i).2
    split
    · next e =>
      rw [e] at w
      exact w
    · next u e =>
      rw [e] at w still
      have n : (u.car c).inService = none := by rw [State.car, still rfl]; exact i
      refine w.trans ?_
      unfold State.releaseStep
      split
      · split
        · exact .of_sole (State.sole_beginWork u c .step 0 _ [] nofun fun id h => by rw [n] at h; cases h) nofun
        · exact fun _ h => h
      · exact fun _ h => h
  · exact fun _ h => h

section FollowUps

variable (id : BayId)

theorem State.shuns_servicePoint (s : State) (c : Nat) : State.Shuns id s (s.servicePoint c) :=
  .of_keeps id (s.follows_servicePoint c) (s.servicePoint_noNewTask c)

theorem State.shuns_servicePoints (s : State) (l : List Nat) : State.Shuns id s (s.servicePoints l) :=
  (State.Shuns.of_keeps id (s.follows_arrange _) (.of_pool (by unfold State.arrange; split <;> rfl))).trans
    (.foldl id _ (State.shuns_servicePoint id) _ _)

/-! ## Allocation -/

theorem State.shuns_joinTail (s : State) (k : Nat) : State.Shuns id s (s.joinTail k) := by
  unfold State.joinTail
  split
  · refine State.Shuns.trans ?_ (State.shuns_servicePoint id _ _)
    exact .of_keeps id (s.keeps_queues (fun _ => True) _ _ fun k => modQueue_unqueued k _ _) (.of_pool rfl)
  · exact .refl id s

theorem State.shuns_placeTask (o : Order) (s : State) (k : Nat) : State.Shuns id s (s.placeTask o k) := by
  unfold State.placeTask
  split
  · exact .of_keeps id (s.keeps_modOrder (fun _ => True) _ _ fun _ => rfl) (.of_pool rfl)
  · exact State.shuns_joinTail id s k

/-- New tasks of bays without a hold. -/
theorem State.shuns_setTasks (g : Nat × Draw → Task) (l : List (Nat × Draw)) (s : State)
    (unheld : ∀ x ∈ l, (s.bay (g x).bay).holds.any = false) :
    State.Shuns id s (l.foldl (fun s x => s.setTask x.1 (some (g x))) s) := by
  induction l generalizing s with
  | nil => exact .refl id s
  | cons x l ih =>
    refine State.Shuns.trans (t := s.setTask x.1 (some (g x))) ⟨rfl, fun held k y h e => ?_⟩
      (ih _ fun y hy => unheld y (List.mem_cons_of_mem x hy))
    rw [State.task_setTask] at h
    split at h
    · cases h
      have := unheld x List.mem_cons_self
      rw [e, held] at this
      cases this
    · exact ⟨y, h, e, rfl⟩

/-- Every draw of a plan is on a bay without a hold (R98). -/
theorem State.plan_unheld (s : State) (article need : Nat) (w : Option Window) (out : List BayId) (x t : Nat) (d : Draw)
    (h : d ∈ planDraws need (drawOrder (s.candidates article need w out) x t)) : (s.bay d.bay).holds.any = false := by
  obtain ⟨c, ordered, bay, _⟩ := (planDraws_from need _).2 d h
  have listed := (List.mem_filter.1 ((sortByKey_perm _ _).mem_iff.1 ordered)).1
  rw [bay]
  exact ((s.candidates_place article need w out).2 c listed).1

theorem State.shuns_allocated (s : State) (o : Order) (ref : GroupRef) (plan : List Draw) (ids : List Nat)
    (unheld : ∀ d ∈ plan, (s.bay d.bay).holds.any = false) : State.Shuns id s (s.allocated o ref plan ids) := by
  unfold State.allocated
  refine State.Shuns.trans ?_ (.foldl id _ (State.shuns_placeTask id o) _ _)
  have made := State.shuns_setTasks id (fun x => pickTask o ref x.2) (ids.zip plan) s fun x hx =>
    unheld x.2 (List.of_mem_zip hx).2
  exact ⟨made.holds, made.tasks⟩

theorem State.shuns_allocate (ref : GroupRef) (fuel : Nat) (out : List BayId) (s : State) :
    State.Shuns id s (State.allocate ref fuel out s).1 := by
  induction fuel generalizing s out with
  | zero => exact .refl id s
  | succ fuel ih =>
    unfold State.allocate
    split
    · next o g _ _ =>
      dsimp only
      split
      · exact .refl id s
      · next x _ =>
        split
        · exact .refl id s
        · have unheld := s.plan_unheld (s.groupArticle ref) g.need g.window out x (s.tolerance (s.groupArticle ref))
          generalize planDraws g.need _ = plan at unheld ⊢
          have kept := State.keeps_reservePlan (fun _ => True) (s.groupArticle ref) plan [] s
          have pool := State.reservePlan_pool (s.groupArticle ref) plan [] s
          revert kept pool
          cases s.reservePlan (s.groupArticle ref) plan [] with
          | ok u =>
            intro kept pool
            refine (State.Shuns.of_keeps id kept.1 (.of_pool pool)).trans
              (State.shuns_allocated id u o ref plan _ fun d hd => ?_)
            rw [State.Shelved.holds (.of_keeps kept.1)]
            exact unheld d hd
          | error y =>
            intro kept pool
            exact (State.Shuns.of_keeps id kept (.of_pool pool)).trans (ih _ _)
    · exact .refl id s

/-! ## The follow-ups of a step -/

theorem State.shuns_runRetries (n : Nat) (s : State) : State.Shuns id s (State.runRetries n s) := by
  induction n generalizing s with
  | zero => exact .refl id s
  | succ n ih =>
    unfold State.runRetries
    split
    · exact .refl id s
    · refine State.Shuns.trans ?_ (ih _)
      refine State.Shuns.trans ?_ (.foldl id (State.retryGroup s.orderUnit.retry) (fun u ref => ?_) _ _)
      · exact .of_keeps id (s.keeps_retry (fun _ => True) _) (.of_pool rfl)
      · unfold State.retryGroup
        split
        · exact State.shuns_allocate id ref _ _ u
        · exact .refl id u

/-- The follow-ups of a step make no task of a held bay. -/
theorem State.settle_shuns (s : State) : State.Shuns id s s.settle := by
  have agenda : ∀ (u : State) (g : Agenda), State.Shuns id u { u with agenda := g } := fun u g =>
    .of_keeps id (u.keeps_agenda (fun _ => True) g) (.of_pool rfl)
  unfold State.settle State.servePoints
  refine State.Shuns.trans (State.Shuns.trans ?_ (State.shuns_runRetries id _ _))
    ((agenda _ _).trans (State.shuns_servicePoints id _ _))
  unfold State.serveFreed
  split
  · exact (agenda _ _).trans (State.shuns_servicePoints id _ _)
  · exact .refl id s

end FollowUps

end Sys2Proof.Machine
end

section
/-! BAY-SEIZE and BAY-UNSEIZE (O56): the SERVICE reason and its withdrawals (R14, R15, R17, R18). -/

namespace Sys2Proof.Machine

/-! ## A reason set -/

theorem Holds.any_put (h : Holds) (r : HoldReason) : (h.put r true).any = true := by
  cases r <;> simp [Holds.put, Holds.any]

theorem Holds.any_of_service {h : Holds} (e : h.service = true) : h.any = true := by
  simp [Holds.any, e]

section HoldSet

variable (s : State) (id : BayId) (r : HoldReason)

theorem holdSet_count (j : BayId) : ((s.holdSet id r).bay j).count = (s.bay j).count := by
  rw [(holdSet_shelved s id r).count]
  exact bay_modBay_field Bay.count s id (fun b => { b with holds := b.holds.put r true }) (fun _ => rfl) j

theorem holdSet_holds_other (j : BayId) (h : s.place j ≠ s.place id) :
    ((s.holdSet id r).bay j).holds = (s.bay j).holds := by
  rw [(holdSet_shelved s id r).holds, State.bay_modBay_other s id j _ (Ne.symm h)]

theorem holdSet_holds (c : id.carousel < s.bays.length) (p : s.position id < (s.baysOf id.carousel).length) :
    ((s.holdSet id r).bay id).holds = (s.bay id).holds.put r true := by
  rw [(holdSet_shelved s id r).holds, bay_modBay_same s id _ c p]

/-- A change that leaves the record of its bay leaves the part. -/
theorem modBay_eq_self (f : Bay → Bay) (h : f (s.bay id) = s.bay id) : s.modBay id f = s := by
  have bays : (s.baysOf id.carousel).modify (s.position id) f = s.baysOf id.carousel := modify_eq_self _ _ f {} h
  have all : s.bays.modify id.carousel (fun l => l.modify (s.position id) f) = s.bays := modify_eq_self _ _ _ [] bays
  unfold State.modBay
  rw [all]

/-- A reason that stands is set again without effect. -/
theorem holdSet_set (h : (s.bay id).holds.put r true = (s.bay id).holds) : s.holdSet id r = s := by
  have held : (s.bay id).holds.any = true := h ▸ Holds.any_put _ r
  unfold State.holdSet
  rw [if_pos held]
  exact modBay_eq_self s id _ (by rw [h])

/-- After the first reason of a bay no pick task draws on it but one in MOVING or PRESENTING, the follow-ups of the step
with it: those the bay had are withdrawn (R15), and a held bay gets no new one (R98). -/
theorem holdSet_settle_draws (pool : s.orderUnit.pool.length = 128) (c : id.carousel < s.bays.length)
    (p : s.position id < (s.baysOf id.carousel).length) (first : (s.bay id).holds.any = false) (k : Nat) (t : Task)
    (task : (s.holdSet id r).settle.task k = some t) (pick : t.kind = .pick) (bay : t.bay = id) :
    t.withdrawable = false := by
  have held : ((s.holdSet id r).bay id).holds.any = true := by
    rw [holdSet_holds s id r c p]
    exact Holds.any_put _ r
  obtain ⟨y, old, at_, kind⟩ := ((s.holdSet id r).settle_shuns id).tasks held k t task bay
  have spec := withdrawn_spec s id
  rw [if_neg (by simp [first])] at spec
  have before : (s.withdrawn id).task k = some y := by rwa [← holdSet_task s id r]
  have number : k < 128 := by
    by_contra out
    have := spec.old k y before
    simp [State.task, List.getD_eq_getElem?_getD, List.getElem?_eq_none (pool.le.trans (not_lt.1 out))] at this
  have kept : y.withdrawable = false := by
    by_contra h
    exact spec.gone k (List.mem_range.2 number) y before ⟨kind.trans pick, at_, by simpa using h⟩
  have busy : y.state ≠ .queued := fun q => by simp [Task.withdrawable, q] at kept
  have same := State.settle_task _ k y old busy
  rw [task] at same
  cases same
  exact kept

end HoldSet

theorem withdrawable_eq_false {t : Task} (h : t.withdrawable = false) :
    t.state = .moving ∨ t.state = .presenting ∨ t.state = .ended := by
  unfold Task.withdrawable at h
  cases e : t.state <;> simp [e] at h ⊢

/-! ## The requests -/

theorem seize_absent (s : State) (id : BayId) (h : s.bayExists id = false) : s.seize id = (s, .refused .badValue) :=
  if_pos h

theorem unseize_absent (s : State) (id : BayId) (h : s.bayExists id = false) : s.unseize id = (s, .refused .badValue) :=
  if_pos h

/-- A bay of a carousel above 7 does not exist, nor one past the last of its carousel. -/
theorem bayExists_false (s : State) (id : BayId) (eight : s.carousels.length = 8)
    (h : ¬(id.carousel < 8 ∧ ∃ p, (s.car id.carousel).profile = some p ∧ id.carrier < p.carriers ∧ id.bay < p.bays)) :
    s.bayExists id = false := by
  rw [← Bool.not_eq_true, bayExists_iff]
  rintro ⟨p, profile, room⟩
  refine h ⟨?_, p, profile, room⟩
  by_contra out
  simp [State.car, List.getD_eq_getElem?_getD, List.getElem?_eq_none (eight.le.trans (not_lt.1 out))] at profile

/-- Settles O56: BAY-SEIZE is `holdSet` and the follow-ups, BAY-UNSEIZE `holdClear`. -/
theorem seizeAndUnseize : Obligations.SeizeAndUnseize := by
  intro s f id bounded q exists_
  have seizes : s.asked f (.baySeize id) → exec .baySeize s = .next (s.serve f fun s => s.seize id) := fun asked =>
    congrArg _ (onRequest_asked asked rfl)
  have unseizes : s.asked f (.bayUnseize id) → exec .bayUnseize s = .next (s.serve f fun s => s.unseize id) :=
    fun asked => congrArg _ (onRequest_asked asked rfl)
  have noSeize : s.asked f (.baySeize id) → s.bayExists id = false →
      exec .baySeize s = .next (s.takeRequest.answer f (.refused .badValue)) := fun asked h => by
    rw [seizes asked, serve_refused q f (seize_absent s.takeRequest id h)]
  have noUnseize : s.asked f (.bayUnseize id) → s.bayExists id = false →
      exec .bayUnseize s = .next (s.takeRequest.answer f (.refused .badValue)) := fun asked h => by
    rw [unseizes asked, serve_refused q f (unseize_absent s.takeRequest id h)]
  refine ⟨fun absent => ?_, fun position => ?_⟩
  · have no := bayExists_false s id bounded.eight.1 absent
    exact ⟨fun asked => noSeize asked no, fun asked => noUnseize asked no⟩
  have carousel : id.carousel < s.bays.length := by
    by_contra out
    simp [State.baysOf, List.getD_eq_getElem?_getD, List.getElem?_eq_none (not_lt.1 out)] at position
  intro b
  refine ⟨fun asked => ⟨noSeize asked, fun ex serving => ?_, fun ex idle => ?_⟩,
    fun asked => ⟨noUnseize asked, fun ex => ?_⟩⟩
  · have refused : s.takeRequest.seize id = (s.takeRequest, .refused .wrongState) :=
      (if_neg fun no => Bool.false_ne_true (no.symm.trans ex)).trans (if_pos serving)
    rw [seizes asked, serve_refused q f refused]
  · have done : s.takeRequest.seize id = (s.takeRequest.holdSet id .service, .done [flagByte b.holds.service, byte b.count,
        byte (if b.holds.service then 0 else b.reserved)]) :=
      (if_neg fun no => Bool.false_ne_true (no.symm.trans ex)).trans (if_neg idle)
    have kept := State.Shelved.settle (s.takeRequest.holdSet id .service)
    have withdrawn := (holdSet_shelved s.takeRequest id .service).trans kept
    refine ⟨(s.takeRequest.holdSet id .service).settle, ?_, ?_, fun set => ?_, fun first k t task pick bay => ?_,
      fun j => ?_, fun j ne => ?_, withdrawn.balances, withdrawn.articles, withdrawn.transit⟩
    · rw [seizes asked, serve_done f done, apply_ite byte]
      rfl
    · rw [kept.holds]
      exact holdSet_holds s.takeRequest id .service carousel position
    · have again : b.holds.put .service true = b.holds := by simp [Holds.put, ← set]
      rw [holdSet_set s.takeRequest id .service again]
      exact State.settle_of_quiet _ (takeRequest_quiet q)
    · exact withdrawable_eq_false (holdSet_settle_draws s.takeRequest id .service bounded.pool carousel position first k t
        task pick bay)
    · rw [kept.count]
      exact holdSet_count s.takeRequest id .service j
    · rw [kept.holds]
      exact holdSet_holds_other s.takeRequest id .service j ne
  · intro u free
    have done : s.takeRequest.unseize id = (s.takeRequest.holdClear id .service, .done [flagByte b.holds.service]) :=
      if_neg fun no => Bool.false_ne_true (no.symm.trans ex)
    have empties : (b.holds.any && !(b.holds.put .service false).any) = true ↔ free := by
      simp only [free, Holds.any, Holds.put, Bool.and_eq_true, Bool.or_eq_true, Bool.not_eq_true', Bool.or_eq_false_iff]
      cases b.holds.audit <;> cases b.holds.mgmt <;> simp
    have settled : (s.takeRequest.holdClear id .service).settle = if free then (u.noteRetry .all).settle else u := by
      rw [holdClear_eq, show s.takeRequest.bay id = b from rfl]
      by_cases h : free
      · rw [if_pos (empties.2 h), if_pos h]
        rfl
      · rw [if_neg (mt empties.1 h), if_neg h]
        exact State.settle_of_quiet u q
    rw [unseizes asked, serve_done f done, settled]

end Sys2Proof.Machine
end

section
/-! HOLD-RANGE (O55): MGMT set or cleared over a range of positions of one carousel (R16). -/

namespace Sys2Proof.Machine

/-! ## The MGMT reason over a list of positions -/

/-- The bay record with MGMT set or cleared. -/
def Bay.marked (b : Bay) (on : Bool) : Bay :=
  { b with holds := b.holds.put .mgmt on }

/-- MGMT set or cleared at each of the positions `ps` of carousel `c`. -/
def State.marked (s : State) (c : Nat) (ps : List Nat) (on : Bool) : State :=
  ps.foldl (fun s p => s.modBay (s.bayAt c p) fun b => b.marked on) s

theorem Holds.put_put (h : Holds) (r : HoldReason) (v w : Bool) : (h.put r v).put r w = h.put r w := by
  cases r <;> rfl

theorem Bay.marked_marked (b : Bay) (on : Bool) : (b.marked on).marked on = b.marked on :=
  congrArg (fun h => { b with holds := h }) (b.holds.put_put .mgmt on on)

theorem mapIdx_modify (l : List Bay) (p : Nat) (ps : List Nat) (on : Bool) :
    (l.modify p (·.marked on)).mapIdx (fun q b => if q ∈ ps then b.marked on else b) =
      l.mapIdx fun q b => if q ∈ p :: ps then b.marked on else b := by
  refine List.ext_getElem (by simp) fun q _ _ => ?_
  rw [List.getElem_mapIdx, List.getElem_mapIdx, List.getElem_modify]
  by_cases e : p = q
  · subst e
    by_cases m : p ∈ ps <;> simp [m, Bay.marked_marked]
  · simp [e, Ne.symm e]

/-- The bays after MGMT is set or cleared at positions `ps`. -/
theorem marked_eq (s : State) (c : Nat) (ps : List Nat) (on : Bool) : s.marked c ps on =
    { s with bays := s.bays.modify c fun l => l.mapIdx fun q b => if q ∈ ps then b.marked on else b } := by
  induction ps generalizing s with
  | nil =>
    have same : (fun l : List Bay => l.mapIdx fun q b => if q ∈ ([] : List Nat) then b.marked on else b) = id := by
      funext l
      exact List.ext_getElem (by simp) fun q _ _ => by simp
    rw [same, List.modify_id]
    rfl
  | cons p ps ih =>
    have start : s.marked c (p :: ps) on = (s.modBay (s.bayAt c p) fun b => b.marked on).marked c ps on := rfl
    have position : s.position (s.bayAt c p) = p := congrArg Prod.snd (s.place_bayAt c p)
    rw [start, ih, State.modBay, position, show (s.bayAt c p).carousel = c from rfl]
    simp only [List.modify_modify_eq, Function.comp_def, mapIdx_modify]

/-- The bays after MGMT is set or cleared over a range of positions. -/
theorem marked_range (s : State) (c : Nat) (ps : List Nat) (on : Bool) (first stop : Nat)
    (mem : ∀ p < (s.baysOf c).length, p ∈ ps ↔ first ≤ p ∧ p < stop) : s.marked c ps on =
    { s with bays := s.bays.modify c fun l => l.mapIdx fun p b => if first ≤ p ∧ p < stop then b.marked on else b } := by
  rw [marked_eq]
  have same : s.bays.modify c (fun l => l.mapIdx fun p b => if p ∈ ps then b.marked on else b) =
      s.bays.modify c fun l => l.mapIdx fun p b => if first ≤ p ∧ p < stop then b.marked on else b := by
    refine List.ext_getElem (by simp) fun d hd _ => ?_
    rw [List.getElem_modify, List.getElem_modify]
    split
    · next e =>
      subst e
      have listed : s.baysOf c = s.bays[c]'(by simpa using hd) := List.getD_eq_getElem _ _ _
      refine List.ext_getElem (by simp) fun p hp _ => ?_
      have lt : p < (s.baysOf c).length := by
        rw [listed]
        simpa using hp
      simp only [List.getElem_mapIdx, mem p lt]
    · rfl
  rw [same]

theorem marked_append (s : State) (c : Nat) (ps qs : List Nat) (on : Bool) :
    s.marked c (ps ++ qs) on = (s.marked c ps on).marked c qs on :=
  List.foldl_append

/-- Positions marked in states that agree but for what is promised. -/
theorem State.Shelved.marked {s t : State} (k : s.Shelved t) (c : Nat) (ps : List Nat) (on : Bool) :
    (s.marked c ps on).Shelved (t.marked c ps on) := by
  induction ps generalizing s t with
  | nil => exact k
  | cons p ps ih =>
    refine ih ?_
    show (s.modBay (s.bayAt c p) _).Shelved (t.modBay (t.bayAt c p) _)
    rw [k.bayAt]
    exact k.modBay _ _ _ (·.marked on) (fun _ => rfl) fun _ => rfl

section Read

variable (s : State) (c : Nat) (ps : List Nat) (on : Bool)

theorem marked_baysOf_other (d : Nat) (h : d ≠ c) : (s.marked c ps on).baysOf d = s.baysOf d := by
  rw [marked_eq]
  show (s.bays.modify c _).getD d [] = _
  rw [getD_modify, if_neg fun e => h e.1.symm]
  rfl

theorem marked_baysOf (h : c < s.bays.length) : (s.marked c ps on).baysOf c =
    (s.baysOf c).mapIdx fun q b => if q ∈ ps then b.marked on else b := by
  rw [marked_eq]
  show (s.bays.modify c _).getD c [] = _
  rw [getD_modify, if_pos ⟨rfl, h⟩]
  rfl

theorem marked_getD (h : c < s.bays.length) (p : Nat) (lt : p < (s.baysOf c).length) :
    ((s.marked c ps on).baysOf c).getD p {} =
      if p ∈ ps then ((s.baysOf c).getD p {}).marked on else (s.baysOf c).getD p {} := by
  rw [marked_baysOf s c ps on h, List.getD_eq_getElem _ _ (by simpa using lt), List.getElem_mapIdx,
    List.getD_eq_getElem _ _ lt]

theorem marked_count (d p : Nat) : (((s.marked c ps on).baysOf d).getD p {}).count = ((s.baysOf d).getD p {}).count := by
  have counts : (s.marked c ps on).bays.map (List.map Bay.count) = s.bays.map (List.map Bay.count) := by
    induction ps generalizing s with
    | nil => rfl
    | cons q ps ih =>
      refine (ih (s.modBay (s.bayAt c q) (·.marked on))).trans ?_
      exact map_modify_same _ _ (fun _ => map_modify_same Bay.count (·.marked on) (fun _ => rfl) _ _) _ _
  have carousel : ((s.marked c ps on).baysOf d).map Bay.count = (s.baysOf d).map Bay.count := by
    have all := congrArg (fun l : List (List Nat) => l.getD d (List.map Bay.count [])) counts
    simp only [List.getD_map] at all
    exact all
  have position := congrArg (fun l : List Nat => l.getD p 0) carousel
  rwa [show (0 : Nat) = Bay.count {} from rfl, List.getD_map, List.getD_map] at position

theorem bay_bayAt (p : Nat) : s.bay (s.bayAt c p) = (s.baysOf c).getD p {} := by
  have position : s.position (s.bayAt c p) = p := congrArg Prod.snd (s.place_bayAt c p)
  unfold State.bay
  rw [position]
  rfl

end Read

/-! ## The bay of the task in service -/

theorem inServiceBay_iff (s : State) (c : Nat) (b : BayId) : s.inServiceBay c = some b ↔
    ∃ k x, (s.car c).inService = some (.task k) ∧ s.task k = some x ∧ (x.state = .moving ∨ x.state = .presenting) ∧
      x.bay = b := by
  unfold State.inServiceBay
  split
  · next k serving =>
    split
    · next x task =>
      simp [serving, task]
    · next none_there => simp [serving, none_there]
  · next other =>
    refine ⟨nofun, ?_⟩
    rintro ⟨k, _, serving, _⟩
    exact absurd serving (other k)

/-- A HOLD-SET gives no carousel a bay in service. -/
theorem holdSet_inServiceBay (s : State) (id : BayId) (r : HoldReason) (c : Nat) (b : BayId)
    (h : (s.holdSet id r).inServiceBay c = some b) : s.inServiceBay c = some b := by
  obtain ⟨k, x, serving, task, busy, bay⟩ := (inServiceBay_iff _ _ _).1 h
  have spec := withdrawn_spec s id
  rw [holdSet_car] at serving
  rw [holdSet_task] at task
  refine (inServiceBay_iff _ _ _).2 ⟨k, x, ?_, spec.old k x task, busy, bay⟩
  rcases spec.service c with same | ⟨none_left, _⟩
  · exact same ▸ serving
  · rw [serving] at none_left
    cases none_left

/-- A HOLD-SET takes the bay in service from no carousel, but by the end of a task in POWER-WAIT. -/
theorem holdSet_inServiceBay_kept (s : State) (id : BayId) (r : HoldReason) (c : Nat) (b : BayId)
    (h : s.inServiceBay c = some b) (wait : ∀ k x, s.task k = some x → x.state = .powerWait → x.bay.carousel ≠ c) :
    (s.holdSet id r).inServiceBay c = some b := by
  obtain ⟨k, x, serving, task, busy, bay⟩ := (inServiceBay_iff _ _ _).1 h
  have spec := withdrawn_spec s id
  refine (inServiceBay_iff _ _ _).2 ⟨k, x, ?_, ?_, busy, bay⟩
  · rw [holdSet_car]
    rcases spec.service c with same | ⟨_, j, y, task, waits, carousel⟩
    · rw [same, serving]
    · exact absurd carousel (wait j y task waits)
  · rw [holdSet_task]
    refine spec.stays k x task fun draws => ?_
    have := draws.2.2
    rcases busy with e | e <;> simp [Task.withdrawable, e] at this

/-! ## SET -/

/-- A SET over positions none of which is in service (R16). -/
theorem holdPositions_through (c : Nat) (ps : List Nat) (n : Nat) (s : State)
    (free : ∀ p ∈ ps, s.inServiceBay c ≠ some (s.bayAt c p)) :
    ∃ t, State.holdPositions c ps n s = (t, n + ps.length, none) ∧ (s.marked c ps true).Shelved t := by
  induction ps generalizing n s with
  | nil => exact ⟨s, rfl, State.Shelved.refl s⟩
  | cons p ps ih =>
    have kept := holdSet_shelved s (s.bayAt c p) .mgmt
    have bayAt : ∀ q, (s.holdSet (s.bayAt c p) .mgmt).bayAt c q = s.bayAt c q := kept.bayAt c
    obtain ⟨t, held, shelved⟩ := ih (n + 1) (s.holdSet (s.bayAt c p) .mgmt) fun q hq serving =>
      free q (List.mem_cons_of_mem p hq) (bayAt q ▸ holdSet_inServiceBay s _ _ c _ serving)
    refine ⟨t, ?_, (kept.marked c ps true).trans shelved⟩
    unfold State.holdPositions
    rw [if_neg (free p List.mem_cons_self), held, List.length_cons, Nat.add_right_comm]
    rfl

/-- A SET that meets the bay of the task in service stops there (R16). -/
theorem holdPositions_stop (c : Nat) (ps rest : List Nat) (q n : Nat) (s : State)
    (free : ∀ p ∈ ps, s.inServiceBay c ≠ some (s.bayAt c p)) (serving : s.inServiceBay c = some (s.bayAt c q))
    (wait : ∀ k x, s.task k = some x → x.state = .powerWait → x.bay.carousel ≠ c) :
    ∃ t, State.holdPositions c (ps ++ q :: rest) n s = (t, n + ps.length, some q) ∧ (s.marked c ps true).Shelved t := by
  induction ps generalizing n s with
  | nil =>
    refine ⟨s, ?_, State.Shelved.refl s⟩
    rw [List.nil_append, State.holdPositions]
    exact if_pos serving
  | cons p ps ih =>
    have kept := holdSet_shelved s (s.bayAt c p) .mgmt
    have bayAt : ∀ q, (s.holdSet (s.bayAt c p) .mgmt).bayAt c q = s.bayAt c q := kept.bayAt c
    obtain ⟨t, held, shelved⟩ := ih (n + 1) (s.holdSet (s.bayAt c p) .mgmt)
      (fun q hq serving =>
        free q (List.mem_cons_of_mem p hq) (bayAt q ▸ holdSet_inServiceBay s _ _ c _ serving))
      (bayAt q ▸ holdSet_inServiceBay_kept s _ _ c _ serving wait)
      fun k x task => wait k x ((withdrawn_spec s _).old k x (holdSet_task s _ _ k ▸ task))
    refine ⟨t, ?_, (kept.marked c ps true).trans shelved⟩
    rw [List.cons_append, State.holdPositions]
    rw [if_neg (free p List.mem_cons_self), held, List.length_cons, Nat.add_right_comm]
    rfl

/-! ## CLEAR -/

theorem holdClear_cases (s : State) (id : BayId) : s.holdClear id .mgmt = s.modBay id (·.marked false) ∨
    s.holdClear id .mgmt = (s.modBay id (·.marked false)).noteRetry .all ∧
      ((s.bay id).holds.put .mgmt false).any = false := by
  rw [holdClear_eq]
  split
  · next h =>
    rw [Bool.and_eq_true, Bool.not_eq_true'] at h
    exact .inr ⟨rfl, h.2⟩
  · exact .inl rfl

theorem noteRetry_all_twice (s : State) : (s.noteRetry .all).noteRetry .all = s.noteRetry .all := by
  unfold State.noteRetry
  cases s.orderUnit.retry <;> rfl

/-- A CLEAR over positions clears MGMT at each, and notes a retry only where a hold set is empty after it (R14, R16). -/
theorem holdClears (s : State) (c : Nat) (ps : List Nat) (h : c < s.bays.length) (lt : ∀ p ∈ ps, p < (s.baysOf c).length) :
    let t := ps.foldl (fun s p => s.holdClear (s.bayAt c p) .mgmt) s
    t = s.marked c ps false ∨ t = (s.marked c ps false).noteRetry .all ∧
      ∃ p ∈ ps, (((s.baysOf c).getD p {}).holds.put .mgmt false).any = false := by
  induction ps using List.reverseRecOn with
  | nil => exact .inl rfl
  | append_singleton ps p ih =>
    have ih := ih fun q hq => lt q (List.mem_append_left _ hq)
    have mem : p ∈ ps ++ [p] := by simp
    have wider : (∃ q ∈ ps, (((s.baysOf c).getD q {}).holds.put .mgmt false).any = false) →
        ∃ q ∈ ps ++ [p], (((s.baysOf c).getD q {}).holds.put .mgmt false).any = false :=
      fun ⟨q, hq, e⟩ => ⟨q, List.mem_append_left _ hq, e⟩
    have emptied : (((s.marked c ps false).bay ((s.marked c ps false).bayAt c p)).holds.put .mgmt false).any = false →
        ∃ q ∈ ps ++ [p], (((s.baysOf c).getD q {}).holds.put .mgmt false).any = false := fun e => by
      refine ⟨p, mem, ?_⟩
      rw [bay_bayAt, marked_getD s c ps false h p (lt p mem)] at e
      split at e
      · rwa [Bay.marked, Holds.put_put] at e
      · exact e
    rw [List.foldl_append, marked_append]
    rcases ih with ih | ⟨ih, found⟩
    · rw [ih]
      exact (holdClear_cases _ _).imp_right (And.imp_right emptied)
    · rw [ih]
      rcases holdClear_cases ((s.marked c ps false).noteRetry .all) ((s.marked c ps false).bayAt c p) with e | ⟨e, _⟩
      · exact .inr ⟨e, wider found⟩
      · exact .inr ⟨e.trans (noteRetry_all_twice ((s.marked c ps false).marked c [p] false)), wider found⟩

/-! ## The positions of a range -/

theorem rangeOf_eq (s : State) (c first count : Nat) :
    s.rangeOf c first count = List.range' first (min count ((s.baysOf c).length - first)) := by
  unfold State.rangeOf
  induction count with
  | zero => simp
  | succ n ih =>
    rw [List.range_succ, List.filterMap_append, ih]
    by_cases h : first + n < (s.baysOf c).length
    · rw [show min (n + 1) ((s.baysOf c).length - first) = n + 1 by omega,
        show min n ((s.baysOf c).length - first) = n by omega, List.range'_1_concat]
      simp [h]
    · rw [show min (n + 1) ((s.baysOf c).length - first) = (s.baysOf c).length - first by omega,
        show min n ((s.baysOf c).length - first) = (s.baysOf c).length - first by omega]
      simp [h]

theorem Holds.any_eq_false (h : Holds) : h.any = false ↔ h = {} := by
  obtain ⟨audit, mgmt, service⟩ := h
  simp [Holds.any, and_assoc]

theorem mem_rangeOf (s : State) (c first count p : Nat) : p ∈ s.rangeOf c first count ↔
    first ≤ p ∧ p < first + count ∧ p < (s.baysOf c).length := by
  rw [rangeOf_eq, List.mem_range'_1]
  omega

theorem length_rangeOf (s : State) (c first count : Nat) :
    (s.rangeOf c first count).length = min count ((s.baysOf c).length - first) := by
  rw [rangeOf_eq, List.length_range']

/-- A range up to one of its positions, and from there on. -/
theorem rangeOf_split (s : State) (c first count q : Nat) (h : q ∈ s.rangeOf c first count) :
    ∃ rest, s.rangeOf c first count = List.range' first (q - first) ++ q :: rest := by
  rw [mem_rangeOf] at h
  have before : first + (q - first) = q := by omega
  obtain ⟨n, after⟩ : ∃ n, min count ((s.baysOf c).length - first) = (q - first) + (n + 1) :=
    ⟨min count ((s.baysOf c).length - first) - (q - first) - 1, by omega⟩
  refine ⟨List.range' (q + 1) n, ?_⟩
  rw [rangeOf_eq, after, ← List.range'_append_1, before, List.range'_succ]

/-! ## The request -/

section Requests

variable (s : State) (c first count : Nat)

theorem rangeRefusal_iff : (8 ≤ c → s.rangeRefusal c first count = some .badValue) ∧
    (c < 8 → (s.car c).profile = none → s.rangeRefusal c first count = some .wrongState) ∧
    (c < 8 → (s.car c).profile ≠ none → count < 1 ∨ 240 < count ∨ (s.baysOf c).length ≤ first →
      s.rangeRefusal c first count = some .badValue) ∧
    (c < 8 → (s.car c).profile ≠ none → 1 ≤ count → count ≤ 240 → first < (s.baysOf c).length →
      s.rangeRefusal c first count = none) := by
  unfold State.rangeRefusal
  refine ⟨fun out => if_pos out, fun c8 none_there => ?_, fun c8 known out => ?_, fun c8 known pos le lt => ?_⟩
  · rw [if_neg (by omega), if_pos (by simp [none_there])]
  · rw [if_neg (by omega), if_neg (by simpa using known), if_pos out]
  · rw [if_neg (by omega), if_neg (by simpa using known), if_neg (by omega)]

theorem holdRange_refused (r : Reason) (h : s.rangeRefusal c first count = some r) :
    s.holdRangeSet c first count = (s, .refused r) ∧ s.holdRangeClear c first count = (s, .refused r) := by
  unfold State.holdRangeSet State.holdRangeClear
  rw [h]
  exact ⟨rfl, rfl⟩

variable (accepted : s.rangeRefusal c first count = none)
include accepted

theorem holdRangeSet_done (t : State) (n : Nat)
    (h : State.holdPositions c (s.rangeOf c first count) 0 s = (t, n, none)) :
    s.holdRangeSet c first count = (t, .done [countByte n]) := by
  unfold State.holdRangeSet
  rw [accepted]
  simp only [h]

theorem holdRangeSet_partly (t : State) (n q : Nat)
    (h : State.holdPositions c (s.rangeOf c first count) 0 s = (t, n, some q)) :
    s.holdRangeSet c first count = (t, .partly (countByte n :: beBytes 2 q)) := by
  unfold State.holdRangeSet
  rw [accepted]
  simp only [h]

/-- What a CLEAR leaves, and that it notes its retry just where a bay of the range is empty of reasons (R16). -/
theorem holdRangeClear_done (h : c < s.bays.length) :
    let range := s.rangeOf c first count
    let t := s.marked c range false
    s.holdRangeClear c first count =
      (if ∃ p ∈ range, ((t.baysOf c).getD p {}).holds = {} then t.noteRetry .all else t, .done [countByte range.length]) := by
  intro range t
  have inside : ∀ p ∈ range, p < (s.baysOf c).length := fun p hp => by
    exact ((mem_rangeOf s c first count p).1 hp).2.2
  have read : ∀ p ∈ range, (t.baysOf c).getD p {} = ((s.baysOf c).getD p {}).marked false := fun p hp =>
    (marked_getD s c range false h p (inside p hp)).trans (if_pos hp)
  have emptied : (∃ p ∈ range, ((t.baysOf c).getD p {}).holds = {}) ↔
      ∃ p ∈ range, (((s.baysOf c).getD p {}).holds.put .mgmt false).any = false :=
    exists_congr fun p => and_congr_right fun hp => by
      rw [read p hp, ← Holds.any_eq_false]
      rfl
  have tested : ∀ u : State, u.bays = t.bays → ((range.any fun p => !(u.bay (u.bayAt c p)).holds.any) = true ↔
      ∃ p ∈ range, ((t.baysOf c).getD p {}).holds = {}) := fun u bays => by
    have bay : ∀ p, u.bay (u.bayAt c p) = (t.baysOf c).getD p {} := fun p => by
      rw [bay_bayAt, State.baysOf, bays]
      rfl
    simp [bay, Holds.any_eq_false]
  unfold State.holdRangeClear
  rw [accepted]
  dsimp only
  rcases holdClears s c range h inside with e | ⟨e, found⟩
  · rw [e]
    by_cases free : ∃ p ∈ range, ((t.baysOf c).getD p {}).holds = {}
    · rw [if_pos ((tested (s.marked c range false) rfl).2 free), if_pos free]
    · rw [if_neg (mt (tested (s.marked c range false) rfl).1 free), if_neg free]
  · have free := emptied.2 found
    rw [e]
    rw [if_pos ((tested ((s.marked c range false).noteRetry .all) rfl).2 free), if_pos free, noteRetry_all_twice]

end Requests

/-- Settles O55: a SET is `marked` at the positions before the one in service, a CLEAR at all of the range. -/
theorem holdRangeCoversRange : Obligations.HoldRangeCoversRange := by
  refine ⟨fun s f c i q set_or_clear asked => ?_, fun s f c first count on i bounded q row asked => ?_⟩
  · have row : exec i s = .next (s.serve f fun s => s.otherRange c) := by
      rcases set_or_clear with rfl | rfl
      · exact congrArg _ (onRequest_asked asked rfl)
      · exact congrArg _ (onRequest_asked asked rfl)
    refine ⟨fun c8 none_there => ?_, fun other => ?_⟩
    · have refused : s.takeRequest.otherRange c = (s.takeRequest, .refused .wrongState) :=
        if_pos ⟨c8, Option.isNone_iff_eq_none.2 none_there⟩
      rw [row, serve_refused q f refused]
    · have refused : s.takeRequest.otherRange c = (s.takeRequest, .refused .badValue) :=
        if_neg fun h => other.elim (fun out => absurd h.1 (not_lt.2 out)) fun known =>
          known (Option.isNone_iff_eq_none.1 h.2)
      rw [row, serve_refused q f refused]
  have sets : on = true → exec i s = .next (s.serve f fun s => s.holdRangeSet c first count) := fun e => by
    subst e
    obtain ⟨_, rfl⟩ := row.resolve_right nofun
    exact congrArg _ (onRequest_asked asked rfl)
  have clears : on = false → exec i s = .next (s.serve f fun s => s.holdRangeClear c first count) := fun e => by
    subst e
    obtain ⟨_, rfl⟩ := row.resolve_left nofun
    exact congrArg _ (onRequest_asked asked rfl)
  intro last refused covers
  obtain ⟨out, unknown, range, accepted⟩ := rangeRefusal_iff s.takeRequest c first count
  have refuses : ∀ r, s.takeRequest.rangeRefusal c first count = some r → refused r := fun r h => by
    obtain ⟨set, clear⟩ := holdRange_refused s.takeRequest c first count r h
    cases on with
    | true => exact (sets rfl).trans (by rw [serve_refused q f set])
    | false => exact (clears rfl).trans (by rw [serve_refused q f clear])
  refine ⟨fun h => refuses _ (out h), fun h k => refuses _ (unknown h k), fun h k x => refuses _ (range h k x),
    fun c8 known pos le lt => ?_⟩
  have accepted := accepted c8 known pos le lt
  have room : c < s.bays.length := by rw [bounded.eight.2.1]; exact c8
  let ps := s.takeRequest.rangeOf c first count
  have mem : ∀ p, p ∈ ps ↔ first ≤ p ∧ p < first + count ∧ p < last := mem_rangeOf s.takeRequest c first count
  have length : ps.length = min count (last - first) := length_rangeOf s.takeRequest c first count
  have number : ∀ n, n ≤ 240 → countByte n = byte n := fun n h => if_pos (by omega)
  have covered : ∀ (qs : List Nat) (stop : Nat) (v : State), (s.takeRequest.marked c qs on).Shelved v →
      (∀ p < last, p ∈ qs ↔ first ≤ p ∧ p < stop) → covers v stop := fun qs stop v kept mem => by
    have counts : ∀ d p, ((v.baysOf d).getD p {}).count = (((s.takeRequest.marked c qs on).baysOf d).getD p {}).count :=
      fun d p => (congrArg Bay.count (kept.getD_baysOf d p) :)
    have holds : ∀ d p, ((v.baysOf d).getD p {}).holds = (((s.takeRequest.marked c qs on).baysOf d).getD p {}).holds :=
      fun d p => (congrArg Bay.holds (kept.getD_baysOf d p) :)
    rw [marked_eq] at kept
    refine ⟨fun p lt => ?_, fun d p => (counts d p).trans (marked_count s.takeRequest c qs on d p), fun d p ne => ?_,
      kept.articles, kept.balances, kept.transit, kept.list, kept.target⟩
    · rw [holds, marked_getD s.takeRequest c qs on room p lt]
      simp only [mem p lt]
      split <;> rfl
    · rw [holds, marked_baysOf_other s.takeRequest c qs on d ne]
      rfl
  have cleared := holdRangeClear_done s.takeRequest c first count accepted room
  have whole : ∀ p < last, p ∈ ps ↔ first ≤ p ∧ p < first + count := fun p lt => by
    rw [mem]
    omega
  refine ⟨fun through => ?_, fun off => ?_, fun q' on_ ge lt' lt serving wait => ?_⟩
  · cases on with
    | false =>
      have kept : (s.takeRequest.marked c ps false).Shelved (if ∃ p ∈ ps,
          (((s.takeRequest.marked c ps false).baysOf c).getD p {}).holds = {} then
            (s.takeRequest.marked c ps false).noteRetry .all else s.takeRequest.marked c ps false) := by
        split
        · exact State.Shelved.noteRetry _ _
        · exact State.Shelved.refl _
      refine ⟨_, ?_, covered ps (first + count) _ (kept.trans (State.Shelved.settle _)) whole⟩
      rw [clears rfl, serve_done f cleared, length, number _ (by omega)]
    | true =>
      have free : ∀ p ∈ ps, s.takeRequest.inServiceBay c ≠ some (s.takeRequest.bayAt c p) := fun p hp =>
        through.resolve_left nofun p ((mem p).1 hp).1 ((mem p).1 hp).2.1
      obtain ⟨t, held, kept⟩ := holdPositions_through c ps 0 s.takeRequest free
      refine ⟨t.settle, ?_, covered ps (first + count) _ (kept.trans (State.Shelved.settle t)) whole⟩
      rw [sets rfl, serve_done f (holdRangeSet_done s.takeRequest c first count accepted t _ held), Nat.zero_add, length,
        number _ (by omega)]
  · intro u answered
    subst off
    have unmarked : s.takeRequest.marked c ps false = u := marked_range s.takeRequest c ps false first (first + count) whole
    have empty_iff : (∃ p ∈ ps, ((u.baysOf c).getD p {}).holds = {}) ↔
        ∃ p, first ≤ p ∧ p < first + count ∧ p < last ∧ ((u.baysOf c).getD p {}).holds = {} :=
      exists_congr fun p => by rw [mem, and_assoc, and_assoc]
    dsimp only at cleared
    rw [show s.takeRequest.rangeOf c first count = ps from rfl, unmarked, length, number _ (by omega)] at cleared
    refine ⟨fun some_empty => ?_, fun none_empty => ?_⟩
    · rw [if_pos (empty_iff.2 some_empty)] at cleared
      exact (clears rfl).trans (by rw [serve_done f cleared])
    · rw [if_neg fun h => by
        obtain ⟨p, ge, lt, inside, empty⟩ := empty_iff.1 h
        exact none_empty p ge lt inside empty] at cleared
      refine (clears rfl).trans ?_
      rw [serve_done f cleared, State.settle_of_quiet u q]
  · subst on_
    obtain ⟨rest, split⟩ := rangeOf_split s.takeRequest c first count q' ((mem q').2 ⟨ge, lt', lt⟩)
    have before : ∀ p, p ∈ List.range' first (q' - first) ↔ first ≤ p ∧ p < q' := fun p => by
      rw [List.mem_range'_1]
      omega
    have free : ∀ p ∈ List.range' first (q' - first), s.takeRequest.inServiceBay c ≠ some (s.takeRequest.bayAt c p) :=
      fun p hp same => by
        have place := congrArg s.place (Option.some.inj (serving.symm.trans same))
        rw [show s.takeRequest.bayAt c p = s.bayAt c p from rfl, s.place_bayAt, s.place_bayAt] at place
        have := ((before p).1 hp).2
        simp only [Prod.mk.injEq] at place
        omega
    obtain ⟨t, held, kept⟩ := holdPositions_stop c (List.range' first (q' - first)) rest q' 0 s.takeRequest free serving wait
    rw [← split, Nat.zero_add, List.length_range'] at held
    refine ⟨t.settle, ?_, covered _ q' _ (kept.trans (State.Shelved.settle t)) fun p _ => before p⟩
    rw [sets rfl, serve_done f (holdRangeSet_partly s.takeRequest c first count accepted t _ q' held), number _ (by omega)]

end Sys2Proof.Machine
end

section
/-! The condition flags reviewed at a profile load (R41, R43), with the offer passes they make. -/

namespace Sys2Proof.Machine

/-! ## An offer pass and the bays -/

theorem startMove_bays (s t : State) (c l n : Nat) (h : s.startMove c l n = some t) : t.bays = s.bays := by
  unfold State.startMove at h
  split at h
  · dsimp only at h
    split at h <;> cases h <;> rfl
  · cases h

theorem offerEntry_bays (s : State) (e : WaitEntry) :
    (s.offerEntry e).bays = s.bays ∧ (s.offerEntry e).notes = s.notes := by
  unfold State.offerEntry
  split
  · exact ⟨rfl, rfl⟩
  · split
    · split
      · next h =>
        have bays := startMove_bays _ _ _ _ _ h
        have notes := State.startMove_notes _ _ _ _ _ h
        exact ⟨bays, notes⟩
      · exact ⟨rfl, rfl⟩
    · exact ⟨rfl, rfl⟩

/-- An offer pass changes no bay and notes no follow-up. -/
theorem offerPass_bays (s : State) : s.offerPass.bays = s.bays ∧ s.offerPass.notes = s.notes := by
  unfold State.offerPass
  generalize s.power.waitList = l
  induction l generalizing s with
  | nil => exact ⟨rfl, rfl⟩
  | cons e l ih =>
    obtain ⟨bays, notes⟩ := offerEntry_bays s e
    obtain ⟨bays', notes'⟩ := ih (s.offerEntry e)
    exact ⟨bays'.trans bays, notes'.trans notes⟩

/-! ## What a review can do -/

/-- What the review of the flags of carousel `c` can do: `s` is the part before, `t` after. Where `c` has no entry on the
power wait list, its own record stands. -/
structure State.Reviewed (c : Nat) (s t : State) : Prop where
  bays : t.bays = s.bays
  articles : t.articles = s.articles
  target : t.power.target = s.power.target
  orders : t.orderUnit.orders.map Order.fixed = s.orderUnit.orders.map Order.fixed
  profiles : ∀ d, (t.car d).profile = (s.car d).profile
  car : s.waits c = false → t.car c = s.car c ∧ t.waits c = false
  balances : t.balances.length = s.balances.length
  others : ∀ d, d ≠ c → t.bal d = s.bal d
  own : t.bal c = { s.bal c with cooling := (t.bal c).cooling, fault := (t.bal c).fault }
  notes : t.agenda.freed = s.agenda.freed ∧ t.orderUnit.retry = s.orderUnit.retry ∧
    ∀ d ∈ t.agenda.points, d ∈ s.agenda.points ∨ d = c

namespace State.Reviewed

variable {c : Nat}

theorem refl (s : State) : State.Reviewed c s s :=
  ⟨rfl, rfl, rfl, rfl, fun _ => rfl, fun h => ⟨rfl, h⟩, rfl, fun _ _ => rfl, rfl, rfl, rfl, fun _ h => .inl h⟩

theorem trans {s t u : State} (a : State.Reviewed c s t) (b : State.Reviewed c t u) : State.Reviewed c s u where
  bays := b.bays.trans a.bays
  articles := b.articles.trans a.articles
  target := b.target.trans a.target
  orders := b.orders.trans a.orders
  profiles := fun d => (b.profiles d).trans (a.profiles d)
  car := fun h => by
    obtain ⟨car, waits⟩ := a.car h
    obtain ⟨car', waits'⟩ := b.car waits
    exact ⟨car'.trans car, waits'⟩
  balances := b.balances.trans a.balances
  others := fun d h => (b.others d h).trans (a.others d h)
  own := by rw [b.own, a.own]
  notes := by
    obtain ⟨freed, retry, points⟩ := a.notes
    obtain ⟨freed', retry', points'⟩ := b.notes
    exact ⟨freed'.trans freed, retry'.trans retry, fun d h => (points' d h).elim (points d) .inr⟩

theorem modBal (s : State) (f : Balance → Balance)
    (h : ∀ b, f b = { b with cooling := (f b).cooling, fault := (f b).fault }) : State.Reviewed c s (s.modBal c f) :=
  { refl s with
    car := fun h => ⟨rfl, h⟩
    balances := List.length_modify ..
    others := fun d ne => by rw [bal_modBal, if_neg fun e => ne e.1.symm]
    own := by
      rw [bal_modBal]
      split
      · exact h _
      · rfl }

theorem notify (s : State) (n : Notice) : State.Reviewed c s (s.notify n) := by
  rw [notify_frame]
  exact ⟨rfl, rfl, rfl, rfl, fun _ => rfl, fun h => ⟨rfl, h⟩, rfl, fun _ _ => rfl, rfl, rfl, rfl, fun _ h => .inl h⟩

theorem offerPass (s : State) : State.Reviewed c s s.offerPass := by
  obtain ⟨keeps, waits, _, _, cars⟩ := offerPass_spec s
  obtain ⟨bays, notes⟩ := offerPass_bays s
  have agenda : s.offerPass.agenda = s.agenda := congrArg Prod.fst notes
  have bal : ∀ d, s.offerPass.bal d = s.bal d := fun d => by rw [State.bal, keeps.balances]; rfl
  refine ⟨bays, keeps.articles, keeps.power.1, keeps.orders, keeps_profile keeps, fun h => ⟨cars c h, ?_⟩,
    congrArg List.length keeps.balances, fun d _ => bal d, ?_, congrArg Agenda.freed agenda, congrArg Prod.snd notes,
    fun d h => .inl (agenda ▸ h)⟩
  · unfold State.waits at h ⊢
    rw [List.any_eq_false] at h ⊢
    exact fun e he => h e (waits e he)
  · rw [bal]

theorem notePoint (s : State) : State.Reviewed c s (s.notePoint c) := by
  unfold State.notePoint
  split
  · exact refl s
  · refine ⟨rfl, rfl, rfl, rfl, fun _ => rfl, fun h => ⟨rfl, h⟩, rfl, fun _ _ => rfl, rfl, rfl, rfl, fun d h => ?_⟩
    exact (List.mem_append.1 h).imp_right List.mem_singleton.1

end State.Reviewed

theorem offerPass_bal (s : State) (c : Nat) : s.offerPass.bal c = s.bal c := by
  rw [State.bal, (offerPass_spec s).1.balances]
  rfl

theorem notePoint_bal (s : State) (c d : Nat) : (s.notePoint c).bal d = s.bal d := by
  rw [notePoint_frame]
  rfl

theorem notify_bal (s : State) (n : Notice) (c : Nat) : (s.notify n).bal c = s.bal c := by
  rw [notify_frame]
  rfl

section Review

variable (s : State) (c : Nat) (len : c < s.balances.length)
include len

theorem setCooling_reviewed (on : Bool) : State.Reviewed c s (s.setCooling c on) ∧
    ((s.setCooling c on).bal c).cooling = on := by
  unfold State.setCooling
  split
  · next same => exact ⟨.refl s, same⟩
  · refine ⟨(State.Reviewed.modBal s _ fun _ => rfl).trans (.notify _ _), ?_⟩
    rw [notify_bal, bal_modBal, if_pos ⟨rfl, len⟩]

/-- The COOLING flag after a review (R41). -/
theorem reviewCooling_reviewed (p : Profile) : State.Reviewed c s (s.reviewCooling c p) ∧
    ((s.reviewCooling c p).bal c).cooling = if p.hot ≤ (s.bal c).duty then true
      else if (s.bal c).duty ≤ p.warm then false else (s.bal c).cooling := by
  unfold State.reviewCooling
  split
  · exact setCooling_reviewed s c len true
  · split
    · unfold State.clearCooling
      split
      · obtain ⟨reviewed, cleared⟩ := setCooling_reviewed s c len false
        refine ⟨(reviewed.trans (.offerPass _)).trans (.notePoint _), ?_⟩
        rw [notePoint_bal, offerPass_bal, cleared]
      · next clear => exact ⟨.refl s, by simpa using clear⟩
    · exact ⟨.refl s, rfl⟩

/-- The balance-fault flag after a review (R43). -/
theorem reviewFault_reviewed : State.Reviewed c s (s.reviewFault c) ∧
    (s.reviewFault c).bal c = { s.bal c with fault := (s.bal c).unadmitted } := by
  have same : ∀ v, (s.bal c).unadmitted = v → (s.bal c).fault = v →
      s.bal c = { s.bal c with fault := (s.bal c).unadmitted } := fun v h h' => by rw [h, ← h']
  unfold State.reviewFault
  dsimp only
  split
  · next bad =>
    unfold State.raiseBalanceFault
    split
    · next set => exact ⟨.refl s, same true bad set⟩
    · refine ⟨(State.Reviewed.modBal s _ fun _ => rfl).trans (.notify _ _), ?_⟩
      rw [notify_bal, bal_modBal, if_pos ⟨rfl, len⟩, bad]
  · next good =>
    rw [Bool.not_eq_true] at good
    split
    · refine ⟨((State.Reviewed.modBal s _ fun _ => rfl).trans (.offerPass _)).trans (.notePoint _), ?_⟩
      rw [notePoint_bal, offerPass_bal, bal_modBal, if_pos ⟨rfl, len⟩, good]
    · next clear => exact ⟨.refl s, same false good (by simpa using clear)⟩

end Review

/-! ## Follow-ups where only service points are noted -/

/-- Service points of carousels that take none are no more than dropped (R57). -/
theorem settle_of_idle (s : State) (freed : s.agenda.freed = false) (retry : s.orderUnit.retry = .none)
    (idle : ∀ d ∈ s.agenda.points, s.idleReady d = false) :
    s.settle = { s with agenda := { s.agenda with points := [] } } := by
  have none_idle : s.agenda.points.filter
      ({ s with agenda := { s.agenda with points := [] } } : State).idleReady = [] :=
    List.filter_eq_nil_iff.2 fun d h => by
      rw [show ({ s with agenda := { s.agenda with points := [] } } : State).idleReady d = s.idleReady d from rfl, idle d h]
      exact Bool.false_ne_true
  unfold State.settle State.serveFreed
  rw [if_neg (by simp [freed]), State.runRetries_none s 4 retry]
  unfold State.servePoints State.servicePoints
  rw [none_idle]
  rfl

end Sys2Proof.Machine
end

section
/-! One CAROUSEL entry of a TABLE-LOAD (O41): the tests of R1 and R48, and the profile loaded with bays, loads and flags. -/

namespace Sys2Proof.Machine

/-! ## Loads formed of equal carriers (R22, R23) -/

theorem halfSum_replicate (n : Nat) (t : Int) (r : Nat) : halfSum (List.replicate n t) r = (n / 2 : Nat) * t := by
  have load : ∀ j ∈ List.range (n / 2), (List.replicate n t).getD ((r + j) % n) 0 = t := fun j hj => by
    have := List.mem_range.1 hj
    rw [List.getD_eq_getElem _ _ (by rw [List.length_replicate]; exact Nat.mod_lt _ (by omega)), List.getElem_replicate]
  unfold halfSum
  rw [List.length_replicate, List.map_congr_left load, List.map_const', List.sum_replicate, List.length_range, nsmul_eq_mul]

theorem largest_zeros (n : Nat) : largest (List.replicate n 0) = 0 := by
  cases n with
  | zero => rfl
  | succ n =>
    show (List.replicate n (0 : Int)).foldl max 0 = 0
    induction n with
    | zero => rfl
    | succ n ih => exact ih

/-- Equal carriers on a loop of an even number balance (R22, R23). -/
theorem worstOf_replicate (n : Nat) (t : Int) (even : n % 2 = 0) :
    worstOf (halfSumsOf (List.replicate n t)) (List.replicate n t).sum = 0 := by
  have sums : (halfSumsOf (List.replicate n t)).map (fun x => 2 * x - (List.replicate n t).sum) = List.replicate n 0 := by
    have halves : ((2 * (n / 2) : Nat) : Int) = n := by rw [show 2 * (n / 2) = n by omega]
    unfold halfSumsOf
    rw [List.map_map, List.length_replicate, List.sum_replicate, nsmul_eq_mul]
    refine (List.map_congr_left fun r _ => ?_).trans (by rw [List.map_const', List.length_range])
    rw [Function.comp_apply, halfSum_replicate, ← halves]
    push_cast
    ring
  unfold worstOf
  rw [sums, largest_zeros]

/-! ## The tests (R1, R48) -/

theorem distinctStations_iff (l others : List Byte) : distinctStations l others = true ↔
    (∀ x ∈ l, x ≠ 255 ∧ x ∉ others) ∧ l.Nodup := by
  simp [distinctStations, broadcast]

theorem sameGeometry_iff (s : State) (c : Nat) (p : Profile) : s.sameGeometry c p = true ↔
    ∃ q, (s.car c).profile = some q ∧ q.carriers = p.carriers ∧ q.bays = p.bays := by
  unfold State.sameGeometry
  cases (s.car c).profile <;> simp

theorem Profile.even_of_inRange {p : Profile} (h : p.inRange = true) : p.carriers % 2 = 0 := by
  simp only [Profile.inRange, Bool.and_eq_true, decide_eq_true_eq] at h
  exact h.1.1.1.1.1.1.1.1.1.2.2

theorem geometryRefusal_cases (s : State) (c : Nat) (p : Profile) :
    (1920 < s.bayTotal c p → s.geometryRefusal c p = some .noSpace) ∧
    (s.bayTotal c p ≤ 1920 → s.sameGeometry c p ≠ true → (∃ b ∈ s.baysOf c, b.state ≠ .empty ∨ b.holds.any = true) →
      s.geometryRefusal c p = some .inUse) ∧
    (s.bayTotal c p ≤ 1920 → (s.sameGeometry c p = true ∨ ∀ b ∈ s.baysOf c, b.state = .empty ∧ b.holds.any = false) →
      s.geometryRefusal c p = none) := by
  unfold State.geometryRefusal
  refine ⟨fun over_ => if_pos over_, fun room new ⟨b, mem, used⟩ => ?_, fun room fits => ?_⟩
  · rw [if_neg (by omega), if_neg new, if_neg]
    rw [List.all_eq_true]
    intro all
    have := all b mem
    simp only [Bool.and_eq_true, decide_eq_true_eq, Bool.not_eq_true'] at this
    rcases used with used | used
    · exact used this.1
    · rw [this.2] at used
      cases used
  · rw [if_neg (by omega)]
    by_cases same : s.sameGeometry c p = true
    · rw [if_pos same]
    · rw [if_neg same, if_pos]
      rw [List.all_eq_true]
      intro b mem
      simpa using fits.resolve_left same b mem

/-! ## What the entry forms (R1, R22, R32) -/

/-- The part with the bays and loads of carousel `c` formed, its profile loaded and its grades derived, before the review of
its flags. -/
def State.profiled (s : State) (c : Nat) (p : Profile) : State :=
  ((s.formCarousel c p).modCar c fun k => { k with profile := some p }).modBal c fun b =>
    { b with grades := deriveEnabled p.feed b.grades }

theorem acceptProfile_eq (s : State) (c : Nat) (p : Profile) :
    s.acceptProfile c p = ((s.profiled c p).reviewCooling c p).reviewFault c := rfl

/-- The bays after an accepted profile (R1). -/
def State.formedBays (s : State) (c : Nat) (p : Profile) : List (List Bay) :=
  if s.sameGeometry c p then s.bays else s.bays.modify c fun _ => List.replicate (p.carriers * p.bays) {}

/-- What an accepted profile does to the balance record `b` of its carousel, before its grades are derived (R22). -/
def State.formedLoads (s : State) (c : Nat) (p : Profile) (b : Balance) : Balance :=
  if s.sameGeometry c p then b.changeTare ((p.tare : Int) - ((s.car c).profile.map Profile.tare).getD 0)
  else b.formLoads (List.replicate p.carriers (p.tare : Int))

theorem changeTare_zero (b : Balance) : b.changeTare 0 = b := by
  simp [Balance.changeTare]

theorem formCarousel_eq (s : State) (c : Nat) (p : Profile) : s.formCarousel c p =
    ({ s with bays := s.formedBays c p } : State).modBal c (s.formedLoads c p) := by
  unfold State.formCarousel State.formedBays State.formedLoads
  by_cases same : s.sameGeometry c p = true
  · obtain ⟨q, profile, _⟩ := (sameGeometry_iff s c p).1 same
    simp only [same, profile, if_true, Option.map_some, Option.getD_some]
    split
    · next tare =>
      show s = { s with balances := s.balances.modify c _ }
      rw [modify_eq_self s.balances c _ {} (by rw [tare, sub_self, changeTare_zero])]
    · rfl
  · rw [Bool.not_eq_true] at same
    simp only [same, Bool.false_eq_true, if_false]

/-- The part after an accepted profile, before the review of its flags. -/
theorem profiled_eq (s : State) (c : Nat) (p : Profile) : s.profiled c p = { s with
    bays := s.formedBays c p
    carousels := s.carousels.modify c fun k => { k with profile := some p }
    balances := s.balances.modify c fun b =>
      { s.formedLoads c p b with grades := deriveEnabled p.feed (s.formedLoads c p b).grades } } := by
  unfold State.profiled
  rw [formCarousel_eq]
  show ({ s with bays := _, carousels := _, balances := (s.balances.modify c _).modify c _ } : State) = _
  rw [List.modify_modify_eq]
  rfl

/-- Everything but the loads stands in a balance record. -/
theorem formedLoads_frame (s : State) (c : Nat) (p : Profile) (b : Balance) : s.formedLoads c p b =
    { b with
      loads := (s.formedLoads c p b).loads
      halfSums := (s.formedLoads c p b).halfSums
      total := (s.formedLoads c p b).total
      worst := (s.formedLoads c p b).worst } := by
  unfold State.formedLoads
  split <;> rfl

section Profiled

variable (s : State) (c : Nat) (p : Profile)

theorem profiled_bal_other (d : Nat) (h : d ≠ c) : (s.profiled c p).bal d = s.bal d := by
  rw [profiled_eq]
  exact (getD_modify _ _ _ _ _).trans (if_neg fun e => h e.1.symm)

theorem profiled_bal (len : c < s.balances.length) : (s.profiled c p).bal c =
    { s.formedLoads c p (s.bal c) with grades := deriveEnabled p.feed (s.bal c).grades } := by
  have grades : (s.formedLoads c p (s.bal c)).grades = (s.bal c).grades := (congrArg Balance.grades (formedLoads_frame s c p _) :)
  rw [← grades, profiled_eq]
  exact (getD_modify _ _ _ _ _).trans (if_pos ⟨rfl, len⟩)

theorem profiled_car (d : Nat) (len : c < s.carousels.length) : (s.profiled c p).car d =
    if d = c then { s.car d with profile := some p } else s.car d := by
  rw [profiled_eq]
  refine (getD_modify _ _ _ _ _).trans ?_
  by_cases e : d = c
  · subst e
    rw [if_pos ⟨rfl, len⟩, if_pos rfl]
    rfl
  · rw [if_neg fun h => e h.1.symm, if_neg e]
    rfl

end Profiled

/-! ## The request -/

theorem loadCarousel_unread (s : State) (c : Nat) (bs : List Byte) (c8 : c < 8) (off : (s.car c).state = .offline)
    (bad : readProfile bs = none) : s.loadCarousel c bs = .error .badValue := by
  unfold State.loadCarousel
  rw [if_neg (by omega), if_neg (not_not_intro off), bad]

theorem loadCarousel_read (s : State) (c : Nat) (bs : List Byte) (p : Profile) (c8 : c < 8) (off : (s.car c).state = .offline)
    (read : readProfile bs = some p) :
    let passes := p.inRange = true ∧ distinctStations p.stations (s.carouselStations (· != c) ++ s.ownLine) = true
    (¬passes → s.loadCarousel c bs = .error .badValue) ∧
    (passes → ∀ r, s.geometryRefusal c p = some r → s.loadCarousel c bs = .error r) ∧
    (passes → s.geometryRefusal c p = none → s.loadCarousel c bs = .ok (s.acceptProfile c p)) := by
  unfold State.loadCarousel
  rw [if_neg (by omega), if_neg (by simp [off]), read]
  simp only [Bool.and_eq_true]
  refine ⟨fun fails => if_neg fails, fun passes r refused => ?_, fun passes accepted => ?_⟩
  · rw [if_pos passes, refused]
  · rw [if_pos passes, accepted]

/-- What an accepted profile leaves when its follow-ups are taken: the part `profiled`, and the review of its flags. -/
theorem acceptProfile_reviewed (s : State) (c : Nat) (p : Profile) (q : s.quiet) (len : c < s.balances.length)
    (cars : c < s.carousels.length) (off : (s.car c).state = .offline) (idle : s.waits c = false) :
    State.Reviewed c (s.profiled c p) (s.acceptProfile c p).settle ∧
    ((s.acceptProfile c p).settle.bal c).cooling = (if p.hot ≤ (s.bal c).duty then true
      else if (s.bal c).duty ≤ p.warm then false else (s.bal c).cooling) ∧
    ((s.acceptProfile c p).settle.bal c).fault = ((s.acceptProfile c p).settle.bal c).unadmitted := by
  have here : c < (s.profiled c p).balances.length := by
    rw [profiled_eq]
    simpa using len
  obtain ⟨cooled, cooling⟩ := reviewCooling_reviewed (s.profiled c p) c here p
  obtain ⟨faulted, fault⟩ := reviewFault_reviewed ((s.profiled c p).reviewCooling c p) c (cooled.balances ▸ here)
  have reviewed := cooled.trans faulted
  rw [← acceptProfile_eq] at reviewed faulted fault
  obtain ⟨freed, retry, points⟩ := reviewed.notes
  obtain ⟨agenda, none_noted⟩ := q
  have profiled_notes : (s.profiled c p).agenda = {} ∧ (s.profiled c p).orderUnit.retry = .none := by
    rw [profiled_eq]
    exact ⟨agenda, none_noted⟩
  rw [profiled_notes.1] at freed points
  rw [profiled_notes.2] at retry
  have at_rest : (s.profiled c p).idleReady c = false := by
    simp [State.idleReady, profiled_car s c p c cars, off]
  have waits : (s.profiled c p).waits c = false := by
    rw [profiled_eq]
    exact idle
  have settled := settle_of_idle _ freed retry fun d hd => by
    rw [(points d hd).resolve_left nofun, State.idleReady, (reviewed.car waits).1]
    exact at_rest
  have bal : (s.acceptProfile c p).settle.bal c = (s.acceptProfile c p).bal c := by
    rw [settled]
    rfl
  refine ⟨?_, ?_, ?_⟩
  · rw [settled]
    exact reviewed.trans ⟨rfl, rfl, rfl, rfl, fun _ => rfl, fun h => ⟨rfl, h⟩, rfl, fun _ _ => rfl, rfl, rfl, rfl, nofun⟩
  · have read : ((s.profiled c p).bal c).duty = (s.bal c).duty ∧ ((s.profiled c p).bal c).cooling = (s.bal c).cooling := by
      rw [profiled_bal s c p len, formedLoads_frame]
      exact ⟨rfl, rfl⟩
    rw [read.1, read.2] at cooling
    rw [bal, fault]
    exact cooling
  · rw [bal, fault]
    rfl

/-- Settles O41: the tests of `loadCarousel` in turn; an accepted profile is `profiled`, and its flags are reviewed. -/
theorem carouselEntryLoads : Obligations.CarouselEntryLoads := by
  intro s f c bs bounded q asked refused
  have row : exec .tableLoadCarousel s = .next (s.serve f fun s => s.tableLoad State.loadCarousel c [bs]) :=
    congrArg _ (onRequest_asked asked rfl)
  have refuses : ∀ r, s.takeRequest.loadCarousel c bs = .error r → refused r := fun r h =>
    row.trans (congrArg _ (serve_tableLoad_error q f h))
  refine ⟨fun out => refuses _ (if_pos out), fun c8 on_ => refuses _ ((if_neg (by omega)).trans (if_pos on_)),
    fun c8 off bad => refuses _ (loadCarousel_unread s.takeRequest c bs c8 off bad), fun p c8 off read => ?_⟩
  obtain ⟨fails, refuses_geometry, accepts⟩ := loadCarousel_read s.takeRequest c bs p c8 off read
  obtain ⟨noSpace, inUse, fits⟩ := geometryRefusal_cases s.takeRequest c p
  refine ⟨fun out => refuses _ (fails fun h => Bool.false_ne_true (out.symm.trans h.1)), ?_⟩
  intro others distinct kept
  have distinct_iff : distinctStations p.stations (s.takeRequest.carouselStations (· != c) ++ s.takeRequest.ownLine) = true ↔
      distinct := distinctStations_iff _ _
  have kept_iff : s.takeRequest.sameGeometry c p = true ↔ kept := sameGeometry_iff _ _ _
  refine ⟨fun range clash => refuses _ (fails fun h => clash (distinct_iff.1 h.2)),
    fun range distinct full => refuses _ (refuses_geometry ⟨range, distinct_iff.2 distinct⟩ _ (noSpace full)),
    fun range distinct room new used => refuses _ (refuses_geometry ⟨range, distinct_iff.2 distinct⟩ _
      (inUse room (mt kept_iff.1 new) used)), fun range distinct room idle free => ?_⟩
  have accepted := accepts ⟨range, distinct_iff.2 distinct⟩ (fits room (free.imp_left kept_iff.2))
  have len : c < s.takeRequest.balances.length := by
    show c < s.balances.length
    rwa [bounded.eight.2.2.1]
  have cars : c < s.takeRequest.carousels.length := by
    show c < s.carousels.length
    rwa [bounded.eight.1]
  have bays : c < s.bays.length := by rwa [bounded.eight.2.1]
  obtain ⟨reviewed, cooling, fault⟩ := acceptProfile_reviewed s.takeRequest c p (takeRequest_quiet q) len cars off idle
  have own := reviewed.own
  rw [profiled_bal s.takeRequest c p len] at own
  have frame := formedLoads_frame s.takeRequest c p (s.takeRequest.bal c)
  have same_bays : (s.takeRequest.acceptProfile c p).settle.bays = s.takeRequest.formedBays c p := by
    rw [reviewed.bays, profiled_eq]
  have waits : (s.takeRequest.profiled c p).waits c = false := by
    rw [profiled_eq]
    exact idle
  refine ⟨(s.takeRequest.acceptProfile c p).settle, row.trans (congrArg _ (serve_tableLoad_ok f accepted)),
    (reviewed.car waits).1.trans ((profiled_car _ c p c cars).trans (if_pos rfl)), fun d ne => ?_, ?_, ?_, ?_, ?_, ?_, ?_, ?_,
    cooling, fault, fun d ne => (reviewed.others d ne).trans (profiled_bal_other _ c p d ne), fun new => ?_,
    fun old profile carriers per => ?_⟩
  · rw [reviewed.profiles, profiled_car _ c p d cars, if_neg ne]
    rfl
  · rw [reviewed.articles, profiled_eq]
    rfl
  · rw [reviewed.orders, profiled_eq]
    rfl
  · rw [reviewed.target, profiled_eq]
    rfl
  · rw [own, frame]
    rfl
  · rw [own, frame]
    rfl
  · rw [own, frame]
    rfl
  · rw [own]
    rfl
  · have formed : s.takeRequest.formedLoads c p (s.takeRequest.bal c) =
        (s.takeRequest.bal c).formLoads (List.replicate p.carriers (p.tare : Int)) := if_neg (mt kept_iff.1 new)
    refine ⟨?_, ?_, ?_, ?_⟩
    · rw [State.baysOf, same_bays, State.formedBays, if_neg (mt kept_iff.1 new)]
      exact (getD_modify _ _ _ _ _).trans (if_pos ⟨rfl, bays⟩)
    · rw [own, formed]
      rfl
    · rw [own, formed]
      show (List.replicate p.carriers (p.tare : Int)).sum = _
      rw [List.sum_replicate, nsmul_eq_mul]
    · rw [own, formed]
      exact worstOf_replicate _ _ (Profile.even_of_inRange range)
  · have same : s.takeRequest.sameGeometry c p = true := kept_iff.2 ⟨old, profile, carriers, per⟩
    have formed : s.takeRequest.formedLoads c p (s.takeRequest.bal c) =
        (s.takeRequest.bal c).changeTare ((p.tare : Int) - old.tare) := by
      rw [State.formedLoads, if_pos same, show (s.takeRequest.car c).profile = some old from profile]
      rfl
    refine ⟨?_, ?_, ?_⟩
    · rw [State.baysOf, same_bays, State.formedBays, if_pos same]
      rfl
    · rw [own, formed]
      rfl
    · rw [own, formed]
      rfl

end Sys2Proof.Machine
end

section
/-! A tyre taken at the mouth (O26): the PICK-TAKE claim with its load change, the transit entry, ROUTE and indication (R113,
R114, R131, R132). -/

namespace Sys2Proof.Machine

/-! ## The load change while a task is presented -/

/-- The repeated release tests change task records alone, and none that is not in BALANCE-WAIT (R59). -/
theorem retestTasks_frame (l : List Nat) (s : State) : ∃ pool : List (Option Task),
    l.foldl State.retestTask s = { s with orderUnit := { s.orderUnit with pool } } ∧
    ∀ id k, s.task id = some k → k.state ≠ .balanceWait → pool.getD id none = some k := by
  induction l generalizing s with
  | nil => exact ⟨s.orderUnit.pool, rfl, fun _ _ task _ => task⟩
  | cons j l ih =>
    have one : ∃ pool : List (Option Task), s.retestTask j = { s with orderUnit := { s.orderUnit with pool } } ∧
        ∀ id k, s.task id = some k → k.state ≠ .balanceWait → pool.getD id none = some k := by
      unfold State.retestTask
      split
      · next x there =>
        split
        · next waits =>
          refine ⟨_, rfl, fun id k task other => ?_⟩
          have ne : j ≠ id := fun e => by
            subst e
            rw [there] at task
            cases task
            exact other waits.1
          exact (State.task_modTask s j id _).trans ((if_neg ne).trans task)
        · exact ⟨s.orderUnit.pool, rfl, fun _ _ task _ => task⟩
      · exact ⟨s.orderUnit.pool, rfl, fun _ _ task _ => task⟩
    obtain ⟨pool, e, kept⟩ := one
    obtain ⟨pool', e', kept'⟩ := ih (s.retestTask j)
    refine ⟨pool', ?_, fun id k task other => kept' id k ?_ other⟩
    · rw [List.foldl_cons, e', e]
    · rw [e]
      exact kept id k task other

section Presented

variable (s : State) (c id : Nat) (k : Task) (serving : (s.car c).inService = some (.task id)) (task : s.task id = some k)
  (presented : k.state = .presenting) (sound : (s.bal c).fault = false) (idle : s.waits c = false)
include serving task presented sound idle

/-- A load change without a check, on a carousel with a task presented and no balance fault: the balance record, task
records other than the one presented, and a service point noted (R24, R25). -/
theorem loadChange_presented (i : Nat) (δ : Int) : ∃ (pool : List (Option Task)) (agenda : Agenda),
    s.loadChange c i δ false =
      { s.modBal c (fun b => b.applyChange i δ) with orderUnit := { s.orderUnit with pool }, agenda } ∧
    pool.getD id none = some k := by
  have unchecked : (s.modBal c fun b => b.applyChange i δ).balanceCheck c false = s.modBal c fun b => b.applyChange i δ := by
    have same : ((s.modBal c fun b => b.applyChange i δ).bal c).fault = (s.bal c).fault := by
      rw [bal_modBal]
      split <;> rfl
    unfold State.balanceCheck
    dsimp only
    rw [if_neg (by simp [same, sound])]
    rfl
  have car : ((s.modBal c fun b => b.applyChange i δ).car c).inService = some (.task id) := serving
  have waits : (s.modBal c fun b => b.applyChange i δ).waits c = false := idle
  have there : (s.modBal c fun b => b.applyChange i δ).task id = some k := task
  have unit : (s.modBal c fun b => b.applyChange i δ).orderUnit = s.orderUnit := rfl
  unfold State.loadChange
  dsimp only
  rw [unchecked, sound]
  generalize (s.modBal c fun b => b.applyChange i δ) = m at car waits there unit ⊢
  obtain ⟨pool, retested, kept⟩ := retestTasks_frame (m.car c).walkOrder m
  have kept := kept id k there (by simp [presented])
  have stays : State.retestWaiting { m with orderUnit := { m.orderUnit with pool } } c =
      { m with orderUnit := { m.orderUnit with pool } } := by
    unfold State.retestWaiting
    rw [show (State.car { m with orderUnit := { m.orderUnit with pool } } c).inService = some (.task id) from car]
    dsimp only
    rw [show State.task { m with orderUnit := { m.orderUnit with pool } } id = some k from kept]
    exact if_neg fun h => by simp [presented] at h
  rw [retested, stays, Bool.false_and, Bool.false_or, if_neg (by simpa [State.waits] using waits), notePoint_frame, unit]
  exact ⟨pool, _, rfl, kept⟩

end Presented

/-- The bay record after one tyre is taken from it (R11). -/
def Bay.less (b : Bay) : Bay :=
  { b with count := b.count - 1, reserved := b.reserved - 1 }.tidy

theorem less_tyre (b : Bay) : b.less.tyre = if b.count ≤ 1 ∧ b.incoming = 0 then none else b.tyre := by
  unfold Bay.less Bay.tidy
  dsimp only
  by_cases h : b.count ≤ 1 ∧ b.incoming = 0
  · rw [if_pos (by omega), if_pos h]
  · rw [if_neg (by omega), if_neg h]

/-- What a PICK-TAKE by a presented task leaves (R7, R11). -/
theorem pickTake_presented (s : State) (c id : Nat) (k : Task) (y : Tyre) (serving : (s.car c).inService = some (.task id))
    (task : s.task id = some k) (presented : k.state = .presenting) (sound : (s.bal c).fault = false)
    (idle : s.waits c = false) (here : k.bay.carousel = c) (tyre : (s.bay k.bay).tyre = some y) :
    ∃ (pool : List (Option Task)) (agenda : Agenda), s.pickTake k.bay =
      { s.modBay k.bay Bay.less with
        balances := s.balances.modify c fun b => b.applyChange k.bay.carrier (-(s.weight y.article : Int))
        orderUnit := { s.orderUnit with pool, retry := s.orderUnit.retry.join .all }
        agenda } ∧
    pool.getD id none = some k := by
  obtain ⟨pool, agenda, e, kept⟩ := loadChange_presented (s.modBay k.bay Bay.less) c id k serving task presented sound idle
    k.bay.carrier (-(s.weight y.article : Int))
  refine ⟨pool, agenda, ?_, kept⟩
  unfold State.pickTake
  dsimp only
  rw [tyre, here]
  exact congrArg (State.noteRetry · .all) e

/-! ## The transit entry and its ROUTE (R131, R132) -/

/-- A ROUTE built for an entry marks that entry alone, where it is lost (R132). -/
theorem transit_routed (l : List TransitEntry) (e : TransitEntry) (lost : Bool) (serial : Nat) (number : e.serial = serial)
    (routed : e.unrouted = false) :
    (l ++ [e]).map (fun x => if lost = true ∧ some serial = some x.serial then { x with unrouted := true } else x) =
      l.map (fun x => if lost = true ∧ x.serial = serial then { x with unrouted := true } else x) ++
        [{ e with unrouted := lost }] := by
  subst number
  have swap : ∀ x : TransitEntry, (some e.serial = some x.serial) = (x.serial = e.serial) := fun x => by
    rw [Option.some.injEq]
    exact propext eq_comm
  simp only [swap, List.map_append, List.map_cons, List.map_nil, and_true]
  cases lost
  · rw [if_neg Bool.false_ne_true, ← routed]
  · rw [if_pos rfl]

/-- An entry filled and its ROUTE put into the FIFO, lost or not (R114, R131, R132). -/
theorem fillEntry_sendRoute (s : State) (group : GroupRef) (tyre : Tyre) (lane : Nat) (source : ConveyorSource)
    (deadline : Nat) (dest : RouteTo) (room : s.consolidation.transit.length < 64) :
    ∃ (place : Nat) (fifo : List OutFrame) (lost : Bool), place < 64 ∧ (∀ x ∈ s.consolidation.transit, x.place ≠ place) ∧
      FifoTakes s.outbox.fifo {
        dest := s.diverter, kind := kindRoute, tag := s.outbox.tagCounter, payload := routePayload source dest tyre
        entry := some s.consolidation.nextSerial } fifo lost ∧
      (s.fillEntry group tyre lane source deadline).1.sendRoute source dest tyre
          (some (s.fillEntry group tyre lane source deadline).2) = { s with
        outbox := { s.outbox with tagCounter := s.outbox.tagCounter + 1, fifo }
        line := { s.line with errors := { s.line.errors with full := s.line.errors.full || lost } }
        consolidation := { s.consolidation with
          transit := s.consolidation.transit.map (fun x =>
            if lost = true ∧ x.serial = s.consolidation.nextSerial then { x with unrouted := true } else x) ++
              [{ place, serial := s.consolidation.nextSerial, group, tyre, lane, source, deadline, unrouted := lost }]
          reserved := s.consolidation.reserved - 1
          nextSerial := s.consolidation.nextSerial + 1 }
        choices := s.choices + 1 } := by
  obtain ⟨place, lt, free, filled⟩ := fillEntry_filled s group tyre lane source deadline room
  unfold State.sendRoute
  obtain ⟨fifo, lost, takes, sent⟩ := build_takes (s.fillEntry group tyre lane source deadline).1
    (s.fillEntry group tyre lane source deadline).1.diverter kindRoute (routePayload source dest tyre)
    (some (s.fillEntry group tyre lane source deadline).2)
  rw [filled] at takes
  refine ⟨place, fifo, lost, lt, free, takes, ?_⟩
  rw [sent, filled]
  dsimp only
  rw [transit_routed _ _ lost s.consolidation.nextSerial rfl rfl]

/-- A task that goes on is shown afresh (R113). -/
theorem afterTake_shows (s : State) (c id : Nat) (k : Task) (p : Profile) (task : s.task id = some k) (pick : k.kind = .pick)
    (profile : (s.car c).profile = some p) (more : k.taken ≠ k.quantity) :
    s.Builds p.reader kindIndicate [byte k.bay.bay, 0, byte (k.quantity - k.taken),
      byte (((s.bay k.bay).tyre.map fun y => s.widthClass y.article).getD 0)] (s.afterTake c id) := by
  have shown := indicateTask_build s c k p profile
  rw [pick] at shown
  dsimp only at shown
  rw [Option.map_map] at shown
  unfold State.afterTake
  rw [task]
  dsimp only
  rw [if_neg more, shown]
  exact build_builds _ _ _ _

/-- The bytes of the indication after a tyre is taken (R112): what is still to be taken, and the width class of the bay's
article, 0 where the bay holds none any more. -/
def State.freshIndication (s : State) (k : Task) (y : Tyre) : List Byte :=
  [byte k.bay.bay, 0, byte (k.quantity - (k.taken + 1)),
    byte (if (s.bay k.bay).count ≤ 1 ∧ (s.bay k.bay).incoming = 0 then 0 else s.widthClass y.article)]

/-- The part after the claim, the task and the group of a take; `pool` and `agenda` are what the claim leaves. -/
def State.taken (s : State) (c id : Nat) (k : Task) (y : Tyre) (pool : List (Option Task)) (agenda : Agenda) : State :=
  (({ s.modBay k.bay Bay.less with
      balances := s.balances.modify c fun b => b.applyChange k.bay.carrier (-(s.weight y.article : Int))
      orderUnit := { s.orderUnit with pool, retry := s.orderUnit.retry.join .all }
      agenda } : State).modTask id fun t => { t with taken := t.taken + 1, transit := t.transit - 1 }).modGroup k.ref
        fun g => { g with picked := g.picked + 1 }

section Taken

variable (s : State) (c id : Nat) (k : Task) (y : Tyre) (pool : List (Option Task)) (agenda : Agenda)

theorem taken_task (kept : pool.getD id none = some k) : (s.taken c id k y pool agenda).task id =
    some { k with taken := k.taken + 1, transit := k.transit - 1 } := by
  unfold State.taken
  show (State.modTask _ id _).task id = _
  rw [State.task_modTask, if_pos rfl]
  show (pool.getD id none).map _ = _
  rw [kept]
  rfl

theorem taken_bay (carousel : k.bay.carousel < s.bays.length)
    (position : s.position k.bay < (s.baysOf k.bay.carousel).length) :
    (s.taken c id k y pool agenda).bay k.bay = (s.bay k.bay).less :=
  bay_modBay_same s k.bay Bay.less carousel position

theorem taken_group : (s.taken c id k y pool agenda).group k.ref =
    (s.group k.ref).map fun g => { g with picked := g.picked + 1 } :=
  group_modGroup _ k.ref _ fun _ => rfl

theorem taken_bal (len : c < s.balances.length) : (s.taken c id k y pool agenda).bal c =
    (s.bal c).applyChange k.bay.carrier (-(s.weight y.article : Int)) :=
  (getD_modify _ _ _ _ _).trans (if_pos ⟨rfl, len⟩)

/-- The fresh indication is that of the task and its bay after the take. -/
theorem freshIndication_taken (carousel : k.bay.carousel < s.bays.length)
    (position : s.position k.bay < (s.baysOf k.bay.carousel).length) (tyre : (s.bay k.bay).tyre = some y) :
    s.freshIndication k y = [byte k.bay.bay, 0, byte (k.quantity - (k.taken + 1)),
      byte ((((s.taken c id k y pool agenda).bay k.bay).tyre.map fun y => s.widthClass y.article).getD 0)] := by
  rw [taken_bay s c id k y pool agenda carousel position, less_tyre, tyre, State.freshIndication]
  split <;> rfl

end Taken

/-- One tyre taken by a presented task, not its last: claim, entry and ROUTE, and the fresh indication (R113, R114). -/
theorem take_presented (s : State) (c id : Nat) (k : Task) (p : Profile) (y : Tyre)
    (serving : (s.car c).inService = some (.task id)) (task : s.task id = some k) (presented : k.state = .presenting)
    (pick : k.kind = .pick) (sound : (s.bal c).fault = false) (idle : s.waits c = false) (here : k.bay.carousel = c)
    (tyre : (s.bay k.bay).tyre = some y) (profile : (s.car c).profile = some p) (carousel : k.bay.carousel < s.bays.length)
    (position : s.position k.bay < (s.baysOf k.bay.carousel).length) (room : s.consolidation.transit.length < 64)
    (more : k.taken + 1 < k.quantity) :
    ∃ (pool : List (Option Task)) (agenda : Agenda) (place : Nat) (fifo : List OutFrame) (lost : Bool),
      pool.getD id none = some k ∧ place < 64 ∧ (∀ x ∈ s.consolidation.transit, x.place ≠ place) ∧
      FifoTakes s.outbox.fifo {
        dest := s.diverter, kind := kindRoute, tag := s.outbox.tagCounter
        payload := routePayload (.mouth c) (.lane (s.laneOf k.order)) y
        entry := some s.consolidation.nextSerial } fifo lost ∧
      State.Builds { s.taken c id k y pool agenda with
        outbox := { s.outbox with tagCounter := s.outbox.tagCounter + 1, fifo }
        line := { s.line with errors := { s.line.errors with full := s.line.errors.full || lost } }
        consolidation := { s.consolidation with
          transit := s.consolidation.transit.map (fun x =>
            if lost = true ∧ x.serial = s.consolidation.nextSerial then { x with unrouted := true } else x) ++
              [{ place, serial := s.consolidation.nextSerial, group := k.ref, tyre := y, lane := s.laneOf k.order
                 source := .mouth c, deadline := s.now + s.transitMs, unrouted := lost }]
          reserved := s.consolidation.reserved - 1
          nextSerial := s.consolidation.nextSerial + 1 }
        choices := s.choices + 1 } p.reader kindIndicate (s.freshIndication k y) (s.take c id k y) := by
  obtain ⟨pool, agenda, claimed, kept⟩ := pickTake_presented s c id k y serving task presented sound idle here tyre
  obtain ⟨place, fifo, lost, lt, free, routed, sent⟩ := fillEntry_sendRoute ((s.pickTake k.bay).modTask id fun t =>
      { t with taken := t.taken + 1, transit := t.transit - 1 })
    k.ref y (s.laneOf k.order) (.mouth c) (s.now + s.transitMs) (.lane (s.laneOf k.order)) (by rw [claimed]; exact room)
  refine ⟨pool, agenda, place, fifo, lost, kept, lt, ?_, ?_, ?_⟩
  · rw [claimed] at free
    exact free
  · rw [claimed] at routed
    exact routed
  have after : s.take c id k y = State.afterTake _ c id := congrArg (fun u : State =>
    (u.modGroup k.ref fun g => { g with picked := g.picked + 1 }).afterTake c id) sent
  rw [claimed] at after
  rw [after, freshIndication_taken s c id k y pool agenda carousel position tyre]
  refine afterTake_shows _ c id { k with taken := k.taken + 1, transit := k.transit - 1 } p ?_ pick profile
    (Nat.ne_of_lt more)
  exact taken_task s c id k y pool agenda kept

/-! ## The read at the mouth (R113, R115) -/

/-- A read at the mouth while a PICK task is presented (R111). -/
theorem mouthRead_pick (s : State) (c id : Nat) (k : Task) (tallies : List Tally) (state : (s.car c).state = .presenting)
    (serving : (s.car c).inService = some (.task id)) (task : s.task id = some k) (pick : k.kind = .pick) :
    s.mouthRead c tallies = s.pickRead c id k tallies := by
  unfold State.mouthRead
  simp only [state, serving, task, pick]

theorem pickRead_take (s : State) (c id : Nat) (k : Task) (y : Tyre) (bay count : Nat)
    (tyre : (s.bay k.bay).tyre = some y) :
    s.pickRead c id k [{ bay, article := y.article, batch := y.batch, count }] = s.take c id k y :=
  if_pos tyre

theorem pickRead_wrong (s : State) (c id : Nat) (k : Task) (tallies : List Tally)
    (other : ∀ x, tallies = [x] → (s.bay k.bay).tyre ≠ some { article := x.article, batch := x.batch }) :
    s.pickRead c id k tallies = s.wrongItem c k := by
  unfold State.pickRead
  rcases tallies with _ | ⟨x, _ | ⟨z, rest⟩⟩
  · rfl
  · exact if_neg (other x rfl)
  · rfl

theorem wrongItem_builds (s : State) (c : Nat) (k : Task) (p : Profile) (profile : (s.car c).profile = some p) :
    s.Builds p.reader kindIndicate [byte k.bay.bay, 2, 0, 0] (s.wrongItem c k) := by
  unfold State.wrongItem State.indicate
  rw [profile]
  exact build_builds _ _ _ _

/-- Settles O26: a matching tally is `take` (`take_presented`), any other read shows WRONG-ITEM. -/
theorem pickTakesOneTyre : Obligations.PickTakesOneTyre := by
  intro s c id k p y g bay count bounded c8 here position profile state serving task pick presented sound idle group room tag
  have read := fun tallies => mouthRead_pick s c id k tallies state serving task pick
  refine ⟨fun tyre more => ?_, fun tallies other => ?_⟩
  swap
  · rw [read, pickRead_wrong s c id k tallies other]
    exact wrongItem_builds s c k p profile
  rw [read, pickRead_take s c id k y bay count tyre]
  intro t width
  subst here
  have carousel : k.bay.carousel < s.bays.length := by rwa [bounded.eight.2.1]
  have len : k.bay.carousel < s.balances.length := by rwa [bounded.eight.2.2.1]
  obtain ⟨pool, agenda, place, fifo, lost, kept, lt, free, routed, shown, dropped, takes, after⟩ :=
    take_presented s _ id k p y serving task presented pick sound idle rfl tyre profile carousel position room more
  have after : t = _ := after
  have at_ : t.bay k.bay = (s.bay k.bay).less := by
    rw [after]
    exact taken_bay s k.bay.carousel id k y pool agenda carousel position
  have bal : t.bal k.bay.carousel = (s.bal k.bay.carousel).applyChange k.bay.carrier (-(s.weight y.article : Int)) := by
    rw [after]
    exact taken_bal s k.bay.carousel id k y pool agenda len
  have car : t.car k.bay.carousel = s.car k.bay.carousel := by
    rw [after]
    rfl
  refine ⟨?_, ?_, ?_, ?_, ?_, ?_, ?_, ?_, ⟨{
      place, serial := s.consolidation.nextSerial, group := k.ref, tyre := y, lane := s.laneOf k.order
      source := .mouth k.bay.carousel, deadline := s.now + s.transitMs, unrouted := lost }, fifo, lost, dropped, routed, ?_,
      ?_, ?_, rfl, lt, free, rfl, rfl, rfl, rfl, rfl⟩, ?_, ?_, ?_, ?_, ?_, ?_⟩
  · rw [at_]
    exact tidy_count _
  · rw [at_]
    exact tidy_reserved _
  · rw [at_]
    exact tidy_incoming _
  · rw [at_]
    exact tidy_holds _
  · rw [bal]
    rfl
  · rw [bal]
    rfl
  · rw [after]
    exact taken_task s k.bay.carousel id k y pool agenda kept
  · rw [after]
    exact (taken_group s k.bay.carousel id k y pool agenda).trans (congrArg (Option.map _) group)
  · rw [after]
    exact takes
  · rw [after]
  · rw [after]
  · rw [after]
  · rw [car, state]
  · rw [car, serving]
  · rw [after]
    rfl
  · rw [after]
    rfl
  · rw [after]
    rfl

end Sys2Proof.Machine
end

section
/-! R35's law over every step (O4), and what holds at reset (O3). -/

namespace Sys2Proof.Machine

/-! ## The budget (R35) -/

/-- E set anew is at least the target and at least C (R35). -/
theorem Power.lawful_settleBudget (p : Power) : p.settleBudget.lawful :=
  ⟨Nat.le_max_left .., Nat.le_max_right ..⟩

theorem Power.claimed_addClaim (p : Power) (c draw : Nat) : (p.addClaim c draw).claimed = p.claimed + draw := by
  simp [Power.addClaim, Power.claimed]

/-- A claim that fits E − C keeps C within E (R34). -/
theorem Power.lawful.addClaim {p : Power} (h : p.lawful) (c draw : Nat) (fits : draw ≤ p.budget - p.claimed) :
    (p.addClaim c draw).lawful := by
  obtain ⟨target, claimed⟩ := h
  refine ⟨target, ?_⟩
  rw [Power.claimed_addClaim]
  show p.claimed + draw ≤ p.budget
  omega

/-- The power law stands through every change a step is made of: E is left alone where no claim joins, and is set anew
where a claim or the target changes. -/
theorem closed_power : Closed fun s => s.power.lawful where
  now := fun _ _ h => h
  choices := fun _ _ h => h
  agenda := fun _ _ h => h
  pending := fun _ _ h => h
  putAway := fun _ _ h => h
  consolidation := fun _ _ _ _ h => h
  cars := fun _ _ _ h => h
  bals := fun _ _ _ h => h
  bay := fun _ _ _ _ h => h
  formBays := fun _ _ _ h => h
  pool := fun _ _ _ h => h
  waiting := fun _ _ _ _ h => h
  modOrder := fun _ _ _ _ h => h
  removeOrder := fun _ _ h => h
  addOrder := fun _ _ _ _ h => h
  dropWait := fun _ _ h => h
  addWait := fun _ _ _ _ _ h => h
  addClaim := fun _ c draw fits h => h.addClaim c draw fits
  dropClaim := fun _ _ _ => Power.lawful_settleBudget _
  target := fun _ _ _ => Power.lawful_settleBudget _
  link := fun _ _ _ _ h => h
  line := fun _ _ _ _ h => h
  clear := fun _ _ _ _ h => h
  hold := fun _ _ _ h => h
  outbox := fun _ _ _ _ _ h => h
  filter := fun _ _ _ h => h
  putArticle := fun _ _ _ h => h
  dropArticle := fun _ _ h => h
  audit := fun _ _ _ _ h => h
  log := fun _ _ _ h => h
  markEntries := fun _ _ _ h => h
  dropEntries := fun _ _ _ h => h
  clearStore := fun _ _ => Power.lawful_settleBudget _
  powerOn := fun _ _ _ => ⟨Nat.le_refl _, Nat.le_refl _⟩

/-- Settles O4: the power law is among what every elementary change keeps. -/
theorem powerLawKept : Obligations.PowerLawKept :=
  fun _ t h e => closed_power.step h t e

/-- Settles O3: each invariant of `Closed` holds after a power-on reset, and a fresh agenda notes nothing. -/
theorem resetMeetsInvariants : Obligations.ResetMeetsInvariants :=
  have tables : State.reset.bounded ∧ State.reset.keyed := closed_tables.powerOn _ _ _
  ⟨closed_power.powerOn _ _ _, (closed_laws.powerOn _ _ _).2, tables.1, tables.2, rfl, rfl⟩

end Sys2Proof.Machine
end

section
/-! The arithmetic of loads (O32 and the sums of O34): half-loop sums over a closed loop, and what a change of one load or of
the tare does to them (R22 to R24). -/

namespace Sys2Proof.Machine

/-! ## Places on a loop -/

/-- A place at most one turn past the loop. -/
theorem mod_of_lt_two_turns {a n : Nat} (h : a < 2 * n) : a % n = if a < n then a else a - n := by
  split
  · next within => exact Nat.mod_eq_of_lt within
  · next past => rw [Nat.mod_eq_sub_mod (by omega), Nat.mod_eq_of_lt (by omega)]

/-- Carrier `i` is the one `j` places above `r` exactly where `j` is the ascending distance from `r` to `i`. -/
theorem place_eq_iff {n r i j : Nat} (hr : r < n) (hi : i < n) (hj : j < n) : i = (r + j) % n ↔ j = (i + n - r) % n := by
  rw [mod_of_lt_two_turns (by omega : r + j < 2 * n), mod_of_lt_two_turns (by omega : i + n - r < 2 * n)]
  split <;> split <;> omega

/-- The index `j` places below `i` has `i` on its side A exactly where `j` is below half of the loop (R24). -/
theorem onSideA_below {n i j : Nat} (hi : i < n) (hj : j < n) : onSideA n ((i + n - j) % n) i = decide (j < n / 2) := by
  have distance : (i + n - (i + n - j) % n) % n = j := by
    have := place_eq_iff (r := (i + n - j) % n) (Nat.mod_lt _ (by omega)) hi hj
    refine (this.1 ?_).symm
    rw [mod_of_lt_two_turns (by omega : i + n - j < 2 * n)]
    split
    · rw [mod_of_lt_two_turns (by omega)]
      split <;> omega
    · rw [mod_of_lt_two_turns (by omega)]
      split <;> omega
  rw [onSideA, distance]

/-! ## The largest element (R23) -/

theorem max?_eq_largest (l : List Int) (h : l ≠ []) : l.max? = some (largest l) := by
  cases l with
  | nil => exact absurd rfl h
  | cons x xs => rfl

theorem largest_mem (l : List Int) (h : l ≠ []) : largest l ∈ l :=
  (List.max?_eq_some_iff.1 (max?_eq_largest l h)).1

theorem le_largest (l : List Int) {x : Int} (h : x ∈ l) : x ≤ largest l :=
  (List.max?_eq_some_iff.1 (max?_eq_largest l (List.ne_nil_of_mem h))).2 x h

/-! ## Half-loop sums (R23) -/

theorem getD_halfSumsOf (loads : List Int) (r : Nat) (h : r < loads.length) : (halfSumsOf loads).getD r 0 = halfSum loads r := by
  simp [halfSumsOf, List.getD_eq_getElem?_getD, h]

theorem length_halfSumsOf (loads : List Int) : (halfSumsOf loads).length = loads.length := by
  simp [halfSumsOf]

/-- The whole loop from any index on holds every load once. -/
theorem sum_from (loads : List Int) (r : Nat) (pos : 0 < loads.length) :
    ((List.range loads.length).map fun j => loads.getD ((r + j) % loads.length) 0).sum = loads.sum := by
  have turned : (List.range loads.length).map (fun j => loads.getD ((r + j) % loads.length) 0) = loads.rotate r := by
    refine List.ext_getElem (by simp) fun j _ _ => ?_
    rw [List.getElem_map, List.getElem_range, List.getElem_rotate, Nat.add_comm r j,
      List.getD_eq_getElem _ _ (Nat.mod_lt _ pos)]
  rw [turned, (List.rotate_perm loads r).sum_eq]

/-- Opposite sides hold every load once between them. -/
theorem halfSum_opposite (loads : List Int) (r : Nat) (even : loads.length % 2 = 0) (pos : 0 < loads.length) :
    halfSum loads r + halfSum loads ((r + loads.length / 2) % loads.length) = loads.sum := by
  have halves : List.range loads.length =
      List.range (loads.length / 2) ++ (List.range (loads.length / 2)).map (loads.length / 2 + ·) := by
    rw [← List.range_add, show loads.length / 2 + loads.length / 2 = loads.length by omega]
  have second : halfSum loads ((r + loads.length / 2) % loads.length) =
      (((List.range (loads.length / 2)).map (loads.length / 2 + ·)).map fun j =>
        loads.getD ((r + j) % loads.length) 0).sum := by
    rw [List.map_map]
    refine congrArg List.sum (List.map_congr_left fun j _ => ?_)
    rw [Function.comp_apply, Nat.mod_add_mod, Nat.add_assoc]
  calc halfSum loads r + halfSum loads ((r + loads.length / 2) % loads.length)
      = ((List.range loads.length).map fun j => loads.getD ((r + j) % loads.length) 0).sum := by
        rw [second, halves, List.map_append, List.sum_append]
        rfl
    _ = loads.sum := sum_from loads r pos

/-- Settles O32: R23's laws follow from `halfSum_opposite`; W is the largest of the imbalances, and of two opposite ones
one is not negative. -/
theorem halfLoopLaws : Obligations.HalfLoopLaws := by
  intro b agrees n
  obtain ⟨even, pos, sums, total, worst⟩ := agrees
  have sum_at : ∀ r < n, b.halfSums.getD r 0 = halfSum b.loads r := fun r h => by rw [sums, getD_halfSumsOf _ _ h]
  have opposite : ∀ r < n, b.halfSums.getD r 0 + b.halfSums.getD ((r + n / 2) % n) 0 = b.total := fun r h => by
    rw [sum_at r h, sum_at _ (Nat.mod_lt _ pos), total]
    exact halfSum_opposite b.loads r even pos
  have opposed : ∀ r < n, b.imbalanceAt ((r + n / 2) % n) = -b.imbalanceAt r := fun r h => by
    have := opposite r h
    unfold Balance.imbalanceAt
    omega
  have imbalances : b.worst = largest (b.halfSums.map fun x => 2 * x - b.total) := by
    rw [worst, sums, total]
    rfl
  have length : b.halfSums.length = n := by rw [sums, length_halfSumsOf]
  have listed : ∀ r < n, b.imbalanceAt r ∈ b.halfSums.map fun x => 2 * x - b.total := fun r h => by
    have here : r < b.halfSums.length := length ▸ h
    rw [Balance.imbalanceAt, List.getD_eq_getElem _ _ here]
    exact List.mem_map_of_mem (List.getElem_mem here)
  have within : ∀ r < n, |b.imbalanceAt r| ≤ b.worst := fun r h => by
    have above := le_largest _ (listed r h)
    have below := le_largest _ (listed _ (Nat.mod_lt (r + n / 2) pos))
    rw [opposed r h] at below
    rw [imbalances]
    exact abs_le'.2 ⟨above, below⟩
  refine ⟨sum_at, fun _ _ => rfl, opposite, opposed, ?_, within, (abs_nonneg _).trans (within 0 pos)⟩
  obtain ⟨x, hx, is⟩ := List.mem_map.1 (largest_mem _ (List.ne_nil_of_mem (listed 0 pos)))
  obtain ⟨r, hr, rfl⟩ := List.getElem_of_mem hx
  exact ⟨r, length ▸ hr, by rw [imbalances, ← is, Balance.imbalanceAt, List.getD_eq_getElem _ _ hr]⟩

/-! ## A change of one load (R24) -/

theorem sum_modify_add (l : List Int) (i : Nat) (δ : Int) (h : i < l.length) : (l.modify i (· + δ)).sum = l.sum + δ := by
  induction l generalizing i with
  | nil => exact absurd h (Nat.not_lt_zero i)
  | cons x l ih =>
    cases i with
    | zero =>
      simp only [List.modify_zero_cons, List.sum_cons]
      ring
    | succ i =>
      simp only [List.modify_succ_cons, List.sum_cons, ih i (Nat.lt_of_succ_lt_succ h)]
      ring

theorem sum_indicator (m k : Nat) (δ : Int) :
    ((List.range m).map fun j => if j = k then δ else 0).sum = if k < m then δ else 0 := by
  induction m with
  | zero => rfl
  | succ m ih =>
    rw [List.range_succ, List.map_append, List.sum_append, ih, List.map_singleton, List.sum_singleton]
    split <;> split <;> split <;> omega

/-- A load changes the sums of the sides it lies on (R24). -/
theorem halfSum_modify (loads : List Int) (i r : Nat) (δ : Int) (hi : i < loads.length) (hr : r < loads.length) :
    halfSum (loads.modify i (· + δ)) r = halfSum loads r + if onSideA loads.length r i then δ else 0 := by
  have each : ∀ j ∈ List.range (loads.length / 2), (loads.modify i (· + δ)).getD ((r + j) % loads.length) 0 =
      loads.getD ((r + j) % loads.length) 0 + if j = (i + loads.length - r) % loads.length then δ else 0 := fun j hj => by
    have := List.mem_range.1 hj
    have lt : (r + j) % loads.length < loads.length := Nat.mod_lt _ (by omega)
    rw [getD_modify]
    simp only [lt, and_true, place_eq_iff hr hi (by omega : j < loads.length)]
    split <;> simp
  unfold halfSum
  rw [List.length_modify, List.map_congr_left each, List.sum_map_add, sum_indicator]
  simp [onSideA]

/-- The sums that R24 gives are those of the changed loads. -/
theorem applyChange_eq_formLoads (b : Balance) (i : Nat) (δ : Int) (agrees : b.agrees) (h : i < b.loads.length) :
    b.applyChange i δ = b.formLoads (b.loads.modify i (· + δ)) := by
  have sums : (b.halfSums.mapIdx fun r x => if onSideA b.loads.length r i then x + δ else x) =
      halfSumsOf (b.loads.modify i (· + δ)) := by
    rw [agrees.halfSums]
    refine List.ext_getElem (by simp [halfSumsOf]) fun r _ hr => ?_
    have hr : r < b.loads.length := by simpa [halfSumsOf] using hr
    simp only [List.getElem_mapIdx, halfSumsOf, List.getElem_map, List.getElem_range, halfSum_modify _ _ _ _ h hr]
    split <;> simp
  have total : b.total + δ = (b.loads.modify i (· + δ)).sum := by rw [agrees.total, sum_modify_add _ _ _ h]
  unfold Balance.applyChange Balance.formLoads
  dsimp only
  rw [sums, total]

/-- The sum at the index `j` places below the changed carrier. -/
theorem applyChange_sum_below (b : Balance) (i j : Nat) (δ : Int) (agrees : b.agrees) (hi : i < b.loads.length)
    (hj : j < b.loads.length) :
    (b.applyChange i δ).halfSums.getD ((i + b.loads.length - j) % b.loads.length) 0 =
      b.halfSums.getD ((i + b.loads.length - j) % b.loads.length) 0 + if j < b.loads.length / 2 then δ else 0 := by
  have lt : (i + b.loads.length - j) % b.loads.length < b.halfSums.length := by
    rw [agrees.halfSums, length_halfSumsOf]
    exact Nat.mod_lt _ agrees.carriers
  unfold Balance.applyChange
  dsimp only
  rw [List.getD_eq_getElem _ _ (by simpa using lt), List.getElem_mapIdx, onSideA_below hi hj, List.getD_eq_getElem _ _ lt]
  simp only [decide_eq_true_eq]
  split <;> simp

/-! ## A changed tare (R22) -/

theorem sum_map_add_const (l : List Int) (δ : Int) : (l.map (· + δ)).sum = l.sum + l.length * δ := by
  rw [List.sum_map_add (f := fun x => x), List.map_id', List.map_const', List.sum_replicate, nsmul_eq_mul]

theorem halfSum_tare (loads : List Int) (r : Nat) (δ : Int) (pos : 0 < loads.length) :
    halfSum (loads.map (· + δ)) r = halfSum loads r + (loads.length / 2 : Nat) * δ := by
  have each : ∀ j ∈ List.range (loads.length / 2), (loads.map (· + δ)).getD ((r + j) % loads.length) 0 =
      loads.getD ((r + j) % loads.length) 0 + δ := fun j _ => by
    have lt := Nat.mod_lt (r + j) pos
    rw [List.getD_eq_getElem _ _ (by simpa using lt), List.getElem_map, List.getD_eq_getElem _ _ lt]
  unfold halfSum
  rw [List.length_map, List.map_congr_left each, List.sum_map_add, List.map_const', List.sum_replicate, List.length_range,
    nsmul_eq_mul]

/-- A changed tare leaves what forming the changed loads anew gives: every imbalance keeps its value. -/
theorem changeTare_eq_formLoads (b : Balance) (δ : Int) (agrees : b.agrees) :
    b.changeTare δ = b.formLoads (b.loads.map (· + δ)) := by
  have sums : b.halfSums.map (· + (b.loads.length / 2 : Nat) * δ) = halfSumsOf (b.loads.map (· + δ)) := by
    rw [agrees.halfSums]
    unfold halfSumsOf
    rw [List.map_map, List.length_map]
    exact List.map_congr_left fun r _ => (halfSum_tare b.loads r δ agrees.carriers).symm
  have total : b.total + b.loads.length * δ = (b.loads.map (· + δ)).sum := by rw [agrees.total, sum_map_add_const]
  have halves : ((b.loads.length : Nat) : Int) = 2 * (b.loads.length / 2 : Nat) := by
    have := agrees.even
    omega
  have worst : b.worst = worstOf (halfSumsOf (b.loads.map (· + δ))) (b.loads.map (· + δ)).sum := by
    rw [agrees.worst, ← sums, ← total, agrees.total, ← agrees.halfSums]
    unfold worstOf
    rw [List.map_map]
    refine congrArg largest (List.map_congr_left fun x _ => ?_)
    rw [Function.comp_apply, halves]
    ring
  unfold Balance.changeTare Balance.formLoads
  rw [sums, total, ← worst]

end Sys2Proof.Machine
end

section
/-! Admission, the floor and the grade of a move start (O33): R26, R31, R33 and R34. -/

namespace Sys2Proof.Machine

/-! ## Ceilings and order (R26, R31) -/

theorem Grade.admits_iff (g : Grade) (w t : Int) : g.admits w t = true ↔ w ≤ g.imbalance ∧ t ≤ g.total := by
  simp [Grade.admits]

/-- A grade and one that may stand after it in a table (R31). -/
def Grade.precedes (a b : Grade) : Prop :=
  a.imbalance ≤ b.imbalance ∧ a.total ≤ b.total ∧ b.power ≤ a.power

theorem Grade.precedes.trans {a b c : Grade} (h : a.precedes b) (k : b.precedes c) : a.precedes c :=
  ⟨h.1.trans k.1, h.2.1.trans k.2.1, k.2.2.trans h.2.2⟩

/-- A state admitted by a grade is admitted by one that stands after it. -/
theorem Grade.precedes.admits {a b : Grade} (h : a.precedes b) {w t : Int} (k : a.admits w t = true) : b.admits w t = true := by
  obtain ⟨imbalance, total, _⟩ := h
  rw [Grade.admits_iff] at k ⊢
  omega

/-- The test of neighbours holds exactly where every two records are in order. -/
theorem gradesOrdered_iff (gs : List Grade) : gradesOrdered gs = true ↔ gs.Pairwise Grade.precedes := by
  induction gs with
  | nil => exact ⟨fun _ => .nil, fun _ => rfl⟩
  | cons a l ih =>
    cases l with
    | nil => exact ⟨fun _ => List.pairwise_singleton _ a, fun _ => rfl⟩
    | cons b l =>
      unfold gradesOrdered
      rw [Bool.and_eq_true, decide_eq_true_eq, ih, List.pairwise_cons (a := a)]
      refine ⟨fun ⟨first, rest⟩ => ⟨fun x hx => ?_, rest⟩, fun ⟨first, rest⟩ => ⟨first b List.mem_cons_self, rest⟩⟩
      rcases List.mem_cons.1 hx with rfl | hx
      · exact first
      · exact Grade.precedes.trans first ((List.pairwise_cons.1 rest).1 x hx)

/-- Along grades in order a state admitted by one is admitted by each later one. -/
theorem admits_later {gs : List Grade} (ordered : gradesOrdered gs = true) {i j : Nat} (le : i ≤ j) {g h : Grade}
    (hi : gs[i]? = some g) (hj : gs[j]? = some h) {w t : Int} (k : g.admits w t = true) : h.admits w t = true := by
  obtain ⟨li, rfl⟩ := List.getElem?_eq_some_iff.1 hi
  obtain ⟨lj, rfl⟩ := List.getElem?_eq_some_iff.1 hj
  rcases Nat.eq_or_lt_of_le le with rfl | lt
  · exact k
  · exact (List.pairwise_iff_getElem.1 ((gradesOrdered_iff gs).1 ordered) i j li lj lt).admits k

/-- A carousel admits where its last enabled grade does (R26). -/
theorem Balance.admits_iff (b : Balance) (w t : Int) :
    b.admits w t = true ↔ ∃ g, b.enabledGrades.getLast? = some g ∧ w ≤ g.imbalance ∧ t ≤ g.total := by
  unfold Balance.admits Balance.lastGrade
  cases b.enabledGrades.getLast? with
  | none => simp
  | some g => simp [Grade.admits_iff]

/-- What one enabled grade admits, the carousel admits. -/
theorem Balance.admits_of_mem (b : Balance) (ordered : gradesOrdered b.enabledGrades = true) {g : Grade}
    (hg : g ∈ b.enabledGrades) {w t : Int} (k : g.admits w t = true) : b.admits w t = true := by
  obtain ⟨i, hi, rfl⟩ := List.getElem_of_mem hg
  have last : b.enabledGrades.getLast? = b.enabledGrades[b.enabledGrades.length - 1]? := List.getLast?_eq_getElem?
  have lt : b.enabledGrades.length - 1 < b.enabledGrades.length := by omega
  rw [List.getElem?_eq_getElem lt] at last
  exact (b.admits_iff w t).2 ⟨_, last, (Grade.admits_iff ..).1
    (admits_later ordered (by omega : i ≤ _) (List.getElem?_eq_getElem hi) (List.getElem?_eq_getElem lt) k)⟩

/-! ## The floor (R33) -/

/-- The balance limit is the place of the first grade that admits the committed state. -/
theorem Balance.balanceLimit_iff (b : Balance) (limit : Nat) : b.balanceLimit = some limit ↔
    ∃ g, b.enabledGrades[limit]? = some g ∧ g.admits b.worst b.total = true ∧
      ∀ j < limit, ∀ h, b.enabledGrades[j]? = some h → ¬h.admits b.worst b.total = true := by
  unfold Balance.balanceLimit
  rw [List.findIdx?_eq_some_iff_getElem]
  constructor
  · rintro ⟨lt, admits, before⟩
    refine ⟨_, List.getElem?_eq_getElem lt, admits, fun j hj h hh => ?_⟩
    obtain ⟨_, rfl⟩ := List.getElem?_eq_some_iff.1 hh
    exact before j hj
  · rintro ⟨g, hg, admits, before⟩
    obtain ⟨lt, rfl⟩ := List.getElem?_eq_some_iff.1 hg
    exact ⟨lt, admits, fun j hj => before j hj _ (List.getElem?_eq_getElem (hj.trans lt))⟩

theorem floor_iff (s : State) (c : Nat) (p : Profile) (profile : (s.car c).profile = some p) (f : Nat) :
    s.floor c = some f ↔ ∃ limit, (s.bal c).balanceLimit = some limit ∧
      f = min (max limit (max ((s.bal c).dutyLimit p) (s.bal c).cap)) ((s.bal c).enabledGrades.length - 1) := by
  unfold State.floor
  dsimp only
  rw [profile]
  cases (s.bal c).balanceLimit with
  | none => simp
  | some limit => simp [eq_comm]

/-! ## The grade of a move start (R34) -/

/-- The grade found is the first from the floor onward whose draw fits E − C. -/
theorem resolveGrade_iff (s : State) (c f : Nat) (floor : s.floor c = some f) (g : Grade) :
    s.resolveGrade c = some g ↔ ∃ e, f ≤ e ∧ (s.bal c).enabledGrades[e]? = some g ∧
      g.power ≤ s.power.budget - s.power.claimed ∧ ∀ j, f ≤ j → j < e → ∀ h, (s.bal c).enabledGrades[j]? = some h →
        ¬h.power ≤ s.power.budget - s.power.claimed := by
  unfold State.resolveGrade
  rw [floor]
  dsimp only
  rw [List.find?_eq_some_iff_getElem, decide_eq_true_eq]
  constructor
  · rintro ⟨fits, i, hi, rfl, before⟩
    rw [List.length_drop] at hi
    rw [List.getElem_drop] at fits ⊢
    refine ⟨f + i, Nat.le_add_right .., List.getElem?_eq_getElem _, fits, fun j fj je h hh => ?_⟩
    obtain ⟨_, rfl⟩ := List.getElem?_eq_some_iff.1 hh
    have early := before (j - f) (by omega)
    simp only [List.getElem_drop, Nat.add_sub_cancel' fj] at early
    simpa using early
  · rintro ⟨e, fe, he, fits, before⟩
    obtain ⟨lt, rfl⟩ := List.getElem?_eq_some_iff.1 he
    have room : e - f < ((s.bal c).enabledGrades.drop f).length := by
      rw [List.length_drop]
      omega
    refine ⟨fits, e - f, room, ?_, fun j hj => ?_⟩
    · simp only [List.getElem_drop, Nat.add_sub_cancel' fe]
    · have early := before (f + j) (Nat.le_add_right ..) (by omega) _ (List.getElem?_eq_getElem (by omega))
      simpa [List.getElem_drop] using early

/-- The grade found admits the committed state: the floor is not below the balance limit. -/
theorem resolveGrade_admits (s : State) (c : Nat) (p : Profile) (profile : (s.car c).profile = some p)
    (ordered : gradesOrdered (s.bal c).enabledGrades = true) (f : Nat) (floor : s.floor c = some f) (g : Grade)
    (found : s.resolveGrade c = some g) : g.admits (s.bal c).worst (s.bal c).total = true := by
  obtain ⟨limit, balance, is⟩ := (floor_iff s c p profile f).1 floor
  obtain ⟨first, at_limit, admits, _⟩ := ((s.bal c).balanceLimit_iff limit).1 balance
  obtain ⟨e, fe, at_e, _⟩ := (resolveGrade_iff s c f floor g).1 found
  obtain ⟨lt, _⟩ := List.getElem?_eq_some_iff.1 at_limit
  exact admits_later ordered (by omega : limit ≤ e) at_limit at_e admits

/-- Settles O33: each conjunct is the lemma about the function it names. -/
theorem admissionIsMonotone : Obligations.AdmissionIsMonotone := by
  refine ⟨Grade.admits_iff, fun gs w t i j g h ordered le hi hj => admits_later ordered le hi hj,
    fun b w t => ⟨b.admits_iff w t, fun ordered ⟨g, hg, k⟩ => b.admits_of_mem ordered hg k⟩,
    fun s c p profile => ⟨fun f => ?_, fun none_admits => ?_, fun f floor => ⟨resolveGrade_iff s c f floor, fun g ordered found =>
      (Grade.admits_iff ..).1 (resolveGrade_admits s c p profile ordered f floor g found)⟩⟩⟩
  · simp only [floor_iff s c p profile, Balance.balanceLimit_iff, Grade.admits_iff, Balance.dutyLimit]
    constructor
    · rintro ⟨limit, ⟨g, at_limit, ⟨imbalance, total⟩, before⟩, is⟩
      exact ⟨limit, g, at_limit, imbalance, total, before, is⟩
    · rintro ⟨limit, g, at_limit, imbalance, total, before, is⟩
      exact ⟨limit, ⟨g, at_limit, ⟨imbalance, total⟩, before⟩, is⟩
  · unfold State.resolveGrade
    rw [none_admits]

end Sys2Proof.Machine
end

section
/-! One GRADE entry of a TABLE-LOAD (O42): the tests of R31, and the grade table loaded with its marks and flag. -/

namespace Sys2Proof.Machine

/-! ## The tests and the marks (R31, R32) -/

theorem Grade.inRange_iff (g : Grade) : g.inRange = true ↔
    g.imbalance ≤ 2000000 ∧ g.total ≤ 2000000 ∧ 1 ≤ g.power ∧ g.power ≤ 6000 ∧ 1 ≤ g.speed ∧ g.speed ≤ 255 := by
  simp [Grade.inRange, and_assoc]

/-- The records a feed rating disables are those loaded enabled whose draw is above it (R32). -/
theorem feedDisabled_deriveEnabled (feed : Nat) (gs : List Grade) : feedDisabled (deriveEnabled feed gs) =
    (List.range 8).filter fun i => (gs.getD i {}).loaded && decide (feed < (gs.getD i {}).power) := by
  refine List.filter_congr fun i _ => ?_
  rw [deriveEnabled, List.getElem?_map, List.getD_eq_getElem?_getD]
  cases gs[i]? with
  | none => rfl
  | some g =>
    dsimp only [Option.map_some, Option.getD_some]
    cases g.loaded with
    | false => rfl
    | true =>
      rw [Bool.true_and, Bool.true_and, Bool.true_and, ← decide_not]
      exact decide_eq_decide.2 Nat.not_le

/-- The part once the grade table of carousel `c` is loaded, before its fault flag is reviewed. -/
def State.graded (s : State) (c feed : Nat) (gs : List Grade) : State :=
  s.modBal c fun b => { b with grades := deriveEnabled feed gs }

theorem loadGrade_read (s : State) (c : Nat) (bs : List Byte) (p : Profile) (gs : List Grade) (c8 : c < 8)
    (profile : (s.car c).profile = some p) (off : (s.car c).state = .offline) (read : readGrades bs = some gs) :
    s.loadGrade c bs = if gs.all Grade.inRange && gradesOrdered (gs.filter Grade.loaded) then
      .ok ((s.graded c p.feed gs).reviewFault c) else .error .badValue := by
  unfold State.loadGrade
  rw [if_neg (by omega), profile]
  dsimp only
  rw [if_neg (not_not_intro off), read]
  rfl

/-! ## The request -/

/-- A review of an OFFLINE carousel that does not wait for power has no follow-up but a service point that it does not
take. -/
theorem State.Reviewed.settle {c : Nat} {s t : State} (h : State.Reviewed c s t) (q : s.quiet)
    (off : (s.car c).state = .offline) (idle : s.waits c = false) : t.settle = { t with agenda := { t.agenda with points := [] } } := by
  obtain ⟨agenda, retry⟩ := q
  obtain ⟨freed, noted, points⟩ := h.notes
  rw [agenda] at freed points
  refine settle_of_idle t freed (noted.trans retry) fun d hd => ?_
  rw [(points d hd).resolve_left nofun, State.idleReady, (h.car idle).1, off]
  rfl

/-- A GRADE entry accepted is answered DONE with the count 1 and the set its feed rating disables (R32, log 12). -/
theorem serve_tableLoadGrades_ok {s : State} (f : Frame) {c : Nat} {bs : List Byte} {v : State}
    (h : s.takeRequest.loadGrade c bs = .ok v) : s.serve f (fun s => s.tableLoadGrades c [bs]) =
      v.settle.answer f (.done [1, setByte (feedDisabled (v.settle.bal c).grades)]) := by
  have load_one : s.takeRequest.tableLoadGrades c [bs] =
      (v.settle, .done [1, setByte (feedDisabled (v.settle.bal c).grades)]) := by
    simp only [State.tableLoadGrades, loadAll, h, Loaded.reply]
    rfl
  rw [serve_done f load_one, State.settle_of_quiet _ v.settle_quiet]

theorem serve_tableLoadGrades_error {s : State} (q : s.quiet) (f : Frame) {c : Nat} {bs : List Byte} {r : Reason}
    (h : s.takeRequest.loadGrade c bs = .error r) :
    s.serve f (fun s => s.tableLoadGrades c [bs]) = s.takeRequest.answer f (.refused r) :=
  serve_refused q f (by simp [State.tableLoadGrades, loadAll, h, Loaded.reply])

/-- Settles O42: the tests of `loadGrade` in turn; an accepted table is `graded`, and its flag is reviewed. -/
theorem gradeEntryLoads : Obligations.GradeEntryLoads := by
  intro s f c bs bounded q asked refused
  have row : exec .tableLoadGrade s = .next (s.serve f fun s => s.tableLoadGrades c [bs]) :=
    congrArg _ (onRequest_asked asked rfl)
  have refuses : ∀ r, s.takeRequest.loadGrade c bs = .error r → refused r := fun r h =>
    row.trans (congrArg _ (serve_tableLoadGrades_error q f h))
  have reads : (s.takeRequest.car c) = s.car c := rfl
  refine ⟨fun out => refuses _ (if_pos out), fun c8 wrong => refuses _ ?_, fun c8 profile off bad => refuses _ ?_,
    fun p gs c8 profile off read => ?_⟩
  · unfold State.loadGrade
    rw [if_neg (by omega), reads]
    cases profile : (s.car c).profile with
    | none => rfl
    | some p => exact if_pos (wrong.resolve_left (by simp [profile]))
  · obtain ⟨p, profile⟩ := Option.ne_none_iff_exists'.1 profile
    unfold State.loadGrade
    rw [if_neg (by omega), reads, profile]
    dsimp only
    rw [if_neg (not_not_intro off), bad]
  · intro ranges ordered
    have passes : (gs.all Grade.inRange && gradesOrdered (gs.filter Grade.loaded)) = true ↔ ranges ∧ ordered := by
      rw [Bool.and_eq_true, List.all_eq_true, gradesOrdered_iff]
      exact and_congr (forall₂_congr fun g _ => g.inRange_iff) Iff.rfl
    have loads := loadGrade_read s.takeRequest c bs p gs c8 profile off read
    refine ⟨fun fails => refuses _ (loads.trans (if_neg (mt passes.1 fails))), fun range order idle => ?_⟩
    have accepted := loads.trans (if_pos (passes.2 ⟨range, order⟩))
    have len : c < s.balances.length := by rwa [bounded.eight.2.2.1]
    have graded : (s.takeRequest.graded c p.feed gs).bal c = { s.bal c with grades := deriveEnabled p.feed gs } :=
      (bal_modBal _ _ _ _).trans (if_pos ⟨rfl, len⟩)
    obtain ⟨reviewed, own⟩ := reviewFault_reviewed (s.takeRequest.graded c p.feed gs) c (by simpa [State.graded] using len)
    have settled := reviewed.settle (takeRequest_quiet q) off idle
    have bal : ∀ d, ((s.takeRequest.graded c p.feed gs).reviewFault c).settle.bal d =
        ((s.takeRequest.graded c p.feed gs).reviewFault c).bal d := fun d => by
      rw [settled]
      rfl
    have record := (bal c).trans (own.trans (by rw [graded]))
    refine ⟨((s.takeRequest.graded c p.feed gs).reviewFault c).settle, ?_, (congrArg Balance.grades record :), ?_,
      (congrArg Balance.loads record :), (congrArg Balance.worst record :), (congrArg Balance.cap record :),
      (congrArg Balance.duty record :), fun d ne => ?_, ?_, ?_, ?_⟩
    · rw [row, serve_tableLoadGrades_ok f accepted, record, ← feedDisabled_deriveEnabled]
    · rw [record]
      rfl
    · rw [bal, reviewed.others d ne]
      exact (bal_modBal _ _ _ _).trans (if_neg fun e => ne e.1.symm)
    all_goals rw [settled]
    · exact (reviewed.car idle).1
    · exact reviewed.articles
    · exact congrArg _ reviewed.bays

end Sys2Proof.Machine
end

section
/-! GRADE-CAP and POWER-BUDGET with their offer pass (O49), and the leak of a duty timer (O22). -/

namespace Sys2Proof.Machine

/-! ## One item of a list -/

/-- A change of one item is a write of the item changed. -/
theorem modify_eq_set_getD {α : Type} (l : List α) (i : Nat) (f : α → α) (d : α) : l.modify i f = l.set i (f (l.getD i d)) := by
  refine List.ext_getElem (by simp) fun j hj _ => ?_
  rw [List.length_modify] at hj
  rw [List.getElem_modify, List.getElem_set]
  split
  · next here => rw [← List.getD_eq_getElem l d hj, here]
  · rfl

theorem set_getD_self {α : Type} (l : List α) (i : Nat) (d : α) : l.set i (l.getD i d) = l :=
  (modify_eq_set_getD l i id d).symm.trans (modify_eq_self l i id d rfl)

/-! ## An offer pass with the follow-ups of its step -/

/-- With no work in POWER-WAIT there is nothing to offer. -/
theorem offerPass_of_empty (s : State) (h : s.power.waitList = []) : s.offerPass = s := by
  unfold State.offerPass
  rw [h]
  rfl

/-- An offer pass and the follow-ups serve the carousels that wait for power or are idle, and no others. -/
theorem serves_offerPass_settle (s : State) : s.Serves s.offerPass.settle := by
  have offers := (offerPass_spec s).1
  have pass : s.Serves s.offerPass := offers.weaken fun _ h => h.2
  exact pass.trans (s.offerPass.settle_follows.weaken fun _ h => (offers.idle h.2).trans h.1)

/-! ## The requests (R35, R38) -/

theorem setCap_refused (s : State) (c index : Nat) (h : 8 ≤ c ∨ 8 ≤ index) : s.setCap c index = (s, .refused .badValue) :=
  if_pos h

theorem setCap_done (s : State) (c index : Nat) (hc : c < 8) (hi : index < 8) : s.setCap c index =
    (State.offerPass { s with balances := s.balances.set c { s.bal c with cap := index } }, .done []) := by
  unfold State.setCap
  rw [if_neg (by omega), State.modBal, modify_eq_set_getD _ _ _ {}]
  rfl

/-- Settles O49: each request is its change and an offer pass; the follow-ups of the step come before its RESULT. -/
theorem capAndBudgetMakeOfferPass : Obligations.CapAndBudgetMakeOfferPass := by
  refine ⟨fun s f c index q _ asked => ?_, fun s f target q asked => ?_⟩
  · have row : exec .gradeCap s = .next (s.serve f fun s => s.setCap c index) := congrArg Host.Outcome.next (onRequest_asked asked rfl)
    refine ⟨fun out => row.trans (congrArg _ (serve_refused q f (setCap_refused _ c index out))), fun hc hi => ?_⟩
    intro u
    refine ⟨row.trans (congrArg _ (serve_done f (setCap_done _ c index hc hi))), serves_offerPass_settle u, fun nobody => ?_⟩
    rw [offerPass_of_empty u nobody, State.settle_of_quiet u q]
  · have row : exec .powerBudget s = .next (s.serve f fun s => s.setBudget target) := congrArg Host.Outcome.next (onRequest_asked asked rfl)
    intro u v
    have serves : u.Serves v := serves_offerPass_settle u
    have done : s.takeRequest.setBudget target =
        (v, .done (beBytes 2 (max target s.power.claimed) ++ beBytes 2 v.power.claimed)) := by
      rw [show max target s.power.claimed = v.power.budget from serves.power.2.1.symm]
      rfl
    refine ⟨?_, serves, fun nobody => ?_⟩
    · rw [row, serve_done f done, State.settle_of_quiet v u.offerPass.settle_quiet]
    · rw [show v = u.offerPass.settle from rfl, offerPass_of_empty u nobody, State.settle_of_quiet u q]

/-! ## What a change of the condition flags leaves -/

/-- All but the balance records and the link port is as offer passes and follow-ups leave it: `s` is the part before, `t`
after. -/
def State.KeepsBeside (s t : State) : Prop :=
  State.Keeps (fun _ => False) { s with balances := t.balances, link := t.link } t

theorem State.KeepsBeside.of_keeps {p : Nat → Prop} {s t : State} (k : s.Keeps p t) : s.KeepsBeside t :=
  { k.weaken (p := fun _ => False) nofun with balances := rfl, link := rfl }

theorem State.KeepsBeside.trans {s t u : State} (a : s.KeepsBeside t) (b : t.KeepsBeside u) : s.KeepsBeside u :=
  State.Keeps.trans (t := { t with balances := u.balances, link := u.link }) { a with balances := rfl, link := rfl } b

theorem State.KeepsBeside.modBal (s : State) (c : Nat) (f : Balance → Balance) : s.KeepsBeside (s.modBal c f) :=
  State.Keeps.refl _ _

theorem State.KeepsBeside.notify (s : State) (n : Notice) : s.KeepsBeside (s.notify n) := by
  rw [notify_frame]
  exact State.Keeps.refl _ _

theorem State.KeepsBeside.notePoint (s : State) (c : Nat) : s.KeepsBeside (s.notePoint c) := by
  rw [notePoint_frame]
  exact .of_keeps (s.keeps_agenda (fun _ => False) _)

theorem State.KeepsBeside.offerPass (s : State) : s.KeepsBeside s.offerPass :=
  .of_keeps (offerPass_spec s).1

theorem State.KeepsBeside.setCooling (s : State) (c : Nat) (on : Bool) : s.KeepsBeside (s.setCooling c on) := by
  unfold State.setCooling
  split
  · exact .of_keeps (.refl (fun _ => False) s)
  · exact (State.KeepsBeside.modBal s c _).trans (.notify _ _)

theorem State.KeepsBeside.coolingAfterFall (s : State) (c : Nat) (p : Profile) : s.KeepsBeside (s.coolingAfterFall c p) := by
  have same : s.KeepsBeside s := .of_keeps (.refl (fun _ => False) s)
  unfold State.coolingAfterFall State.clearCooling
  split
  · split
    · exact ((State.KeepsBeside.setCooling s c false).trans (.offerPass _)).trans (.notePoint _ c)
    · exact same
  · exact same

/-! ## The leak (R40, R41) -/

/-- COOLING clears at or below the warm threshold, in the record of its carousel alone (R41). -/
theorem coolingAfterFall_balances (s : State) (c : Nat) (p : Profile) : (s.coolingAfterFall c p).balances =
    s.balances.set c { s.bal c with cooling := (s.bal c).cooling && !decide ((s.bal c).duty ≤ p.warm) } := by
  have stays : (s.bal c).cooling = ((s.bal c).cooling && !decide ((s.bal c).duty ≤ p.warm)) → s.balances =
      s.balances.set c { s.bal c with cooling := (s.bal c).cooling && !decide ((s.bal c).duty ≤ p.warm) } := fun h => by
    rw [← h]
    exact (set_getD_self s.balances c {}).symm
  unfold State.coolingAfterFall State.clearCooling
  split
  · next low =>
    split
    · next cools =>
      unfold State.setCooling
      rw [notePoint_frame, if_neg (by simp [cools])]
      show (State.offerPass _).balances = _
      rw [(offerPass_spec _).1.balances, notify_frame]
      show s.balances.modify c _ = _
      rw [modify_eq_set_getD _ _ _ {}, decide_eq_true low, Bool.not_true, Bool.and_false]
      rfl
    · next warm => exact stays (by simp [warm])
  · next high => exact stays (by simp [high])

/-- The balance record of a carousel after a leak, its COOLING flag aside. -/
def Balance.leaked (b : Balance) : Balance :=
  { b with duty := b.duty - max 1 (b.duty / 16), dutyExpiry := b.dutyExpiry + 1000 }

theorem leakDuty_none (s : State) (c : Nat) (h : (s.car c).profile = none) : s.leakDuty c = s.modBal c Balance.leaked := by
  unfold State.leakDuty
  dsimp only
  rw [h]
  rfl

theorem leakDuty_some (s : State) (c : Nat) (p : Profile) (h : (s.car c).profile = some p) : ∃ v,
    (v = s.modBal c Balance.leaked ∨ v = (s.modBal c Balance.leaked).offerPass) ∧
    s.leakDuty c = if (s.bal c).duty = 0 then s.modBal c Balance.leaked else v.coolingAfterFall c p := by
  unfold State.leakDuty
  dsimp only
  rw [h]
  dsimp only
  refine ⟨_, ?_, rfl⟩
  split
  · exact .inr rfl
  · exact .inl rfl

theorem leakDuty_keepsBeside (s : State) (c : Nat) : s.KeepsBeside (s.leakDuty c) := by
  have leak : s.KeepsBeside (s.modBal c Balance.leaked) := .modBal s c _
  cases h : (s.car c).profile with
  | none => rwa [leakDuty_none s c h]
  | some p =>
    obtain ⟨v, is, e⟩ := leakDuty_some s c p h
    have offered : s.KeepsBeside v := by
      rcases is with rfl | rfl
      · exact leak
      · exact leak.trans (.offerPass _)
    rw [e]
    split
    · exact leak
    · exact offered.trans (.coolingAfterFall v c p)

/-- The balance records after a leak: an H of 0 has none, and COOLING clears as the event falls (R40, R41). -/
theorem leakDuty_balances (s : State) (c : Nat) (p : Profile) (h : (s.car c).profile = some p) (len : c < s.balances.length) :
    (s.leakDuty c).balances = s.balances.set c { (s.bal c).leaked with
      cooling := (s.bal c).cooling && !decide (0 < (s.bal c).duty ∧ (s.bal c).leaked.duty ≤ p.warm) } := by
  have leaked : (s.modBal c Balance.leaked).balances = s.balances.set c (s.bal c).leaked := modify_eq_set_getD _ _ _ _
  have record : (s.modBal c Balance.leaked).bal c = (s.bal c).leaked := (bal_modBal ..).trans (if_pos ⟨rfl, len⟩)
  obtain ⟨v, is, e⟩ := leakDuty_some s c p h
  have same : v.balances = (s.modBal c Balance.leaked).balances := by
    rcases is with rfl | rfl
    · rfl
    · exact (offerPass_spec _).1.balances
  have here : v.bal c = (s.bal c).leaked := by
    rw [← record, State.bal, State.bal, same]
  rw [e]
  split
  · next zero =>
    rw [leaked, decide_eq_false (by omega), Bool.not_false, Bool.and_true]
    rfl
  · next rises =>
    rw [coolingAfterFall_balances, same, leaked, List.set_set, here]
    simp only [Nat.pos_of_ne_zero rises, true_and]
    rfl

/-- Settles O22: the leak and its COOLING flag are `leakDuty_balances`; offer passes and follow-ups keep the rest. -/
theorem dutyLeaks : Obligations.DutyLeaks := by
  intro s c bounded q c8 h cooling
  have len : c < s.balances.length := by rwa [bounded.eight.2.2.1]
  have kept : s.KeepsBeside (s.leakDuty c).settle := (leakDuty_keepsBeside s c).trans (.of_keeps (s.leakDuty c).settle_follows)
  have settled : (s.leakDuty c).settle.balances = (s.leakDuty c).balances := (s.leakDuty c).settle_follows.balances
  obtain ⟨target, budget, claims⟩ := kept.power
  refine ⟨(s.leakDuty c).settle, if_pos c8, fun bare => ?_, fun p profile => ?_, kept.articles, kept.filter, kept.bays, target,
    budget, claims, kept.transit, (congrArg AuditUnit.list kept.audit :), kept.pending⟩
  · rw [settled, leakDuty_none s c bare]
    exact modify_eq_set_getD _ _ _ _
  · rw [settled, leakDuty_balances s c p profile len]
    rfl

end Sys2Proof.Machine
end

section
/-! What a load change of a carousel does (O34): the fault flag (R25, R42), the release tests taken again (R59, R30), the
offer pass and the service point. -/

namespace Sys2Proof.Machine

/-! ## One record written -/

theorem modBal_eq_set (s : State) (c : Nat) (f : Balance → Balance) :
    s.modBal c f = { s with balances := s.balances.set c (f (s.bal c)) } := by
  rw [State.modBal, modify_eq_set_getD _ _ _ {}]
  rfl

/-- Two changes of one balance record are one write. -/
theorem modBal_modBal_eq_set (s : State) (c : Nat) (f g : Balance → Balance) :
    (s.modBal c f).modBal c g = { s with balances := s.balances.set c (g (f (s.bal c))) } := by
  unfold State.modBal
  dsimp only
  rw [List.modify_modify_eq, modify_eq_set_getD _ _ _ {}]
  rfl

/-! ## The release test (R29) -/

/-- The release test asks for a last enabled grade whose ceilings reach the post-step state. -/
theorem releaseTest_iff (s : State) (k : Task) : s.releaseTest k = true ↔
    ∃ g, (s.bal k.bay.carousel).enabledGrades.getLast? = some g ∧
      (stateOf ((s.bal k.bay.carousel).loads.modify k.bay.carrier (· + s.releaseChange k))).1 ≤ g.imbalance ∧
      (stateOf ((s.bal k.bay.carousel).loads.modify k.bay.carrier (· + s.releaseChange k))).2 ≤ g.total :=
  Balance.admits_iff _ _ _

/-! ## The fault flag (R25, step 1) -/

section BalanceCheck

variable (s : State) (c : Nat) (check : Bool)

theorem balanceCheck_clears (fault : (s.bal c).fault = true) (ok : (s.bal c).admits (s.bal c).worst (s.bal c).total = true) :
    s.balanceCheck c check = s.modBal c fun b => { b with fault := false } := by
  unfold State.balanceCheck
  dsimp only
  rw [if_pos fault, if_pos ok]

theorem balanceCheck_stands (fault : (s.bal c).fault = true) (ok : ¬(s.bal c).admits (s.bal c).worst (s.bal c).total = true) :
    s.balanceCheck c check = s := by
  unfold State.balanceCheck
  dsimp only
  rw [if_pos fault, if_neg ok]

theorem balanceCheck_raises (fault : (s.bal c).fault = false) (asked : check = true) (enabled : (s.bal c).enabledGrades ≠ [])
    (ok : ¬(s.bal c).admits (s.bal c).worst (s.bal c).total = true) : s.balanceCheck c check =
    (s.modBal c fun b => { b with fault := true }).notify (.balanceFault c (s.bal c).worst (s.bal c).total) := by
  have bad : (check && (s.bal c).unadmitted) = true := by simp [asked, Balance.unadmitted, enabled, ok]
  unfold State.balanceCheck State.raiseBalanceFault
  dsimp only
  rw [if_neg (by simp [fault]), if_pos bad, if_neg (by simp [fault])]

theorem balanceCheck_passes (fault : (s.bal c).fault = false)
    (ok : check = false ∨ (s.bal c).enabledGrades = [] ∨ (s.bal c).admits (s.bal c).worst (s.bal c).total = true) :
    s.balanceCheck c check = s := by
  have good : ¬(check && (s.bal c).unadmitted) = true := by
    rcases ok with ok | ok | ok <;> simp [ok, Balance.unadmitted]
  unfold State.balanceCheck
  dsimp only
  rw [if_neg (by simp [fault]), if_neg good]

end BalanceCheck

/-- A flag that stood is clear after the check exactly where the state is admitted. -/
theorem balanceCheck_fault (s : State) (c : Nat) (check : Bool) (len : c < s.balances.length) (fault : (s.bal c).fault = true) :
    ((s.balanceCheck c check).bal c).fault = !(s.bal c).admits (s.bal c).worst (s.bal c).total := by
  by_cases ok : (s.bal c).admits (s.bal c).worst (s.bal c).total = true
  · rw [balanceCheck_clears s c check fault ok, bal_modBal, if_pos ⟨rfl, len⟩, ok]
    rfl
  · rw [balanceCheck_stands s c check fault ok, fault, Bool.eq_false_iff.2 ok]
    rfl

/-! ## BALANCE-WAIT tasks tested again (R59) -/

/-- A task record once its release test is taken again in `s`. -/
def State.retested (s : State) (k : Task) : Task :=
  if k.state = .balanceWait ∧ s.releaseTest k = true then { k with state := .queued } else k

theorem retestTask_task (s : State) (i j : Nat) :
    (s.retestTask i).task j = (s.task j).map fun k => if i = j then s.retested k else k := by
  by_cases same : i = j
  · subst same
    unfold State.retestTask State.retested
    cases h : s.task i with
    | none => simp [h]
    | some k =>
      simp only [if_true, Option.map_some]
      split
      · exact (State.task_modTask s i i _).trans (by rw [if_pos rfl, h]; rfl)
      · exact h
  · simp only [if_neg same, Option.map_id']
    unfold State.retestTask
    split
    · split
      · exact (State.task_modTask s i j _).trans (if_neg same)
      · rfl
    · rfl

/-- A task tested again and again is tested once: the test reads no task record but its own. -/
theorem retestTasks_task (l : List Nat) (s : State) (j : Nat) :
    (l.foldl State.retestTask s).task j = (s.task j).map fun k => if j ∈ l then s.retested k else k := by
  induction l generalizing s with
  | nil => simp
  | cons i l ih =>
    have reads : ∀ k, (s.retestTask i).retested k = s.retested k := fun k => by
      obtain ⟨pool, frame, _⟩ := retestTasks_frame [i] s
      rw [show s.retestTask i = [i].foldl State.retestTask s from rfl, frame]
      rfl
    have twice : ∀ k, s.retested (s.retested k) = s.retested k := fun k => by
      unfold State.retested
      split
      · exact if_neg fun h => nomatch h.1
      · rfl
    rw [List.foldl_cons, ih, retestTask_task, Option.map_map]
    congr 1
    funext k
    simp only [Function.comp_apply, reads, List.mem_cons, @eq_comm _ j i]
    by_cases later : j ∈ l <;> by_cases now : i = j <;> simp [later, now, twice]

/-! ## Work in POWER-WAIT tested again (R30) -/

theorem giveBack_eq (s : State) (n : Nat) : s.giveBack n = { s with
    consolidation := { s.consolidation with reserved := s.consolidation.reserved - n }
    agenda := { s.agenda with freed := s.agenda.freed || decide (n ≠ 0) } } := by
  unfold State.giveBack
  split
  · next none_held => simp [none_held]
  · next held => simp [State.noteFreed, held]

theorem notePoint_points (s : State) (c : Nat) : c ∈ (s.notePoint c).agenda.points := by
  unfold State.notePoint
  split
  · next there => simpa using there
  · simp

theorem notePoint_freed (s : State) (c : Nat) : (s.notePoint c).agenda.freed = s.agenda.freed := by
  unfold State.notePoint
  split <;> rfl

theorem modQueue_inService (k : Carousel) (level : Nat) (f : List Nat → List Nat) (w : Option Work) :
    { k.modQueue level f with inService := w } = ({ k with inService := w } : Carousel).modQueue level f := by
  unfold Carousel.modQueue
  repeat' split
  all_goals rfl

/-- Work in POWER-WAIT that fails its release test leaves the wait list, gives its entries back and is BALANCE-WAIT at the
head of its level queue. -/
theorem retestWaiting_fails (s : State) (c id : Nat) (k : Task) (serving : (s.car c).inService = some (.task id))
    (task : s.task id = some k) (waits : k.state = .powerWait) (fails : ¬s.releaseTest k = true) (here : k.bay.carousel = c) :
    let x := s.retestWaiting c
    x = { s with
      power := { s.power with waitList := s.power.waitList.filter fun e => e.carousel != c }
      consolidation := { s.consolidation with reserved := s.consolidation.reserved - k.transit }
      carousels := s.carousels.set c (({ s.car c with inService := none } : Carousel).modQueue k.level (id :: ·))
      orderUnit := { s.orderUnit with pool := x.orderUnit.pool }
      agenda := x.agenda } ∧
    x.task id = some { k with state := .balanceWait, transit := 0 } ∧ (∀ j, j ≠ id → x.task j = s.task j) ∧
    c ∈ x.agenda.points ∧ (k.transit ≠ 0 → x.agenda.freed = true) := by
  intro x
  have back : (s.leaveWait c).giveBackTask id = ((s.leaveWait c).modTask id fun t => { t with transit := 0 }).giveBack k.transit := by
    unfold State.giveBackTask
    rw [show (s.leaveWait c).task id = some k from task]
  have there : ((s.leaveWait c).giveBackTask id).task id = some { k with transit := 0 } := by
    rw [back, giveBack_eq]
    exact (State.task_modTask (s.leaveWait c) id id _).trans ((if_pos rfl).trans (congrArg (Option.map _) task))
  have is : x = ((({ (s.leaveWait c) with
      consolidation := { s.consolidation with reserved := s.consolidation.reserved - k.transit }
      agenda := { s.agenda with freed := s.agenda.freed || decide (k.transit ≠ 0) } } : State).modTask id
        fun t => { t with state := .balanceWait, transit := 0 }).modCar c
        fun q => ({ q with inService := none } : Carousel).modQueue k.level (id :: ·)).notePoint c := by
    show s.retestWaiting c = _
    unfold State.retestWaiting
    rw [serving]
    dsimp only
    rw [task]
    dsimp only
    rw [if_pos ⟨waits, by simpa using fails⟩]
    unfold State.joinHead
    rw [there]
    dsimp only
    rw [back, giveBack_eq, here]
    refine congrArg (State.notePoint · c) ?_
    unfold State.modCar State.taskState State.modTask
    dsimp only
    rw [List.modify_modify_eq, List.modify_modify_eq]
    congr 2
    · funext q
      exact modQueue_inService q k.level _ none
    · congr 1
      funext t
      cases t <;> rfl
  have pool : ∀ j, x.task j = if id = j then (s.task j).map fun t => { t with state := .balanceWait, transit := 0 }
      else s.task j := fun j => by
    rw [is, notePoint_frame]
    exact State.task_modTask _ id j _
  refine ⟨?_, ?_, fun j ne => (pool j).trans (if_neg ne.symm), ?_, fun held => ?_⟩
  · rw [is, notePoint_frame]
    unfold State.modCar
    dsimp only
    rw [modify_eq_set_getD _ _ _ {}]
    rfl
  · rw [pool, if_pos rfl, task]
    rfl
  · rw [is]
    exact notePoint_points _ c
  · rw [is, notePoint_freed]
    simp [held]

/-- Any other work in service stays. -/
theorem retestWaiting_stays (s : State) (c : Nat) (h : ∀ id k, (s.car c).inService = some (.task id) → s.task id = some k →
    k.state ≠ .powerWait ∨ s.releaseTest k = true) : s.retestWaiting c = s := by
  unfold State.retestWaiting
  split
  · next id serving =>
    split
    · next k task => exact if_neg fun fails => (h id k serving task).elim (· fails.1) (by simp [fails.2])
    · rfl
  · rfl

/-- Settles O34: `v` is the part after the fault flag, `w` after the tests of R59, `x` after that of R30. -/
theorem loadChangeKeepsSums : Obligations.LoadChangeKeepsSums := by
  refine ⟨fun s c i δ check bounded c8 => ?_, fun b i δ agrees hi => ?_⟩
  · intro b admits changed passes admitted walk
    have len : c < s.balances.length := by rwa [bounded.eight.2.2.1]
    let m := s.modBal c fun b => b.applyChange i δ
    have record : m.bal c = b := (bal_modBal ..).trans (if_pos ⟨rfl, len⟩)
    have admitted_iff : (m.bal c).admits (m.bal c).worst (m.bal c).total = true ↔ admitted := by
      rw [record]
      exact b.admits_iff _ _
    have passes_iff : ∀ v k, v.releaseTest k = true ↔ passes v k := fun v k => by
      cases k with | mk kind => cases kind <;> exact releaseTest_iff v _
    let v := m.balanceCheck c check
    obtain ⟨flag, link, frame⟩ := balanceCheck_frame m c check
    have cars : v.carousels = s.carousels := by
      rw [show v = m.balanceCheck c check from rfl, frame]
      rfl
    have same_car : ∀ d, v.car d = s.car d := fun d => by rw [State.car, cars, State.car]
    let w := (v.car c).walkOrder.foldl State.retestTask v
    obtain ⟨pool, frame', _⟩ := retestTasks_frame (v.car c).walkOrder v
    have w_frame : w = { v with orderUnit := { v.orderUnit with pool := w.orderUnit.pool } } := by
      rw [show w = _ from frame']
    have w_task : ∀ j, w.task j = (v.task j).map fun k => if j ∈ walk then v.retested k else k := fun j => by
      rw [retestTasks_task, same_car]
      rfl
    have w_car : w.car c = s.car c := by
      rw [w_frame]
      exact same_car c
    have w_test : ∀ k, w.releaseTest k = v.releaseTest k := fun k => by
      rw [w_frame]
      rfl
    let x := w.retestWaiting c
    refine ⟨v, w, x, fun fault ok => ?_, fun fault ok => ?_, fun fault asked enabled ok => ?_, fun fault ok => ?_, w_frame,
      fun id k task listed waits pass => ?_, fun id h => ?_, fun id k serving task waits fails here => ?_, fun h => ?_, ?_⟩
    · exact (balanceCheck_clears m c check (record ▸ fault) (admitted_iff.2 ok)).trans (modBal_modBal_eq_set s c _ _)
    · exact (balanceCheck_stands m c check (record ▸ fault) (mt admitted_iff.1 ok)).trans (modBal_eq_set s c _)
    · have raised := balanceCheck_raises m c check (record ▸ fault) asked (record ▸ enabled) (mt admitted_iff.1 ok)
      rw [record, modBal_modBal_eq_set s c] at raised
      exact raised
    · refine (balanceCheck_passes m c check (record ▸ fault) ?_).trans (modBal_eq_set s c _)
      exact ok.imp_right (Or.imp (record ▸ ·) admitted_iff.2)
    · rw [w_task, task, Option.map_some, if_pos listed, State.retested, if_pos ⟨waits, (passes_iff v k).2 pass⟩]
    · rw [w_task]
      cases task : v.task id with
      | none => rfl
      | some k =>
        rw [Option.map_some]
        split
        · next listed =>
          have stays := (h.resolve_left (not_not_intro listed)) k task
          rw [State.retested, if_neg fun t => stays.elim (· t.1) (· ((passes_iff v k).1 t.2))]
        · rfl
    · have done := retestWaiting_fails w c id k (w_car ▸ serving) task waits (by rwa [w_test, passes_iff]) here
      rw [w_car] at done
      exact done
    · refine retestWaiting_stays w c fun id k serving task => ?_
      rw [w_test, passes_iff]
      exact h id k (w_car ▸ serving) task
    · have cleared : (((s.bal c).fault && !(x.bal c).fault) || x.waits c) = true ↔
          ((s.bal c).fault = true ∧ admitted) ∨ x.waits c = true := by
        have x_bal : x.bal c = v.bal c := by
          rw [(retestWaiting_shelved w c).bal, w_frame]
          rfl
        rw [Bool.or_eq_true, x_bal]
        refine or_congr_left ?_
        cases fault : (s.bal c).fault with
        | false => simp
        | true =>
          rw [balanceCheck_fault m c check (by simpa [m] using len) (record ▸ fault), Bool.not_not, Bool.true_and]
          exact admitted_iff.trans ⟨fun ok => ⟨rfl, ok⟩, And.right⟩
      exact congrArg (State.notePoint · c) (if_congr cleared rfl rfl)
  · refine ⟨applyChange_eq_formLoads b i δ agrees hi, fun j hj => ?_, fun j low hj => ?_, rfl,
      changeTare_eq_formLoads b δ agrees, rfl⟩
    · rw [applyChange_sum_below b i j δ agrees hi (by omega), if_pos hj]
    · rw [applyChange_sum_below b i j δ agrees hi hj, if_neg (by omega), add_zero]

end Sys2Proof.Machine
end

section
/-! Service points, move starts, presentations and the offer pass (O50): R34, R36 and R57 to R61. -/

namespace Sys2Proof.Machine

/-! ## Move starts (R34, R61) -/

theorem planMove_eq (n i target draw : Nat) : planMove n i target draw =
    { target, start := i, ascending := decide ((target + n - i) % n ≤ (i + n - target) % n)
      distance := min ((target + n - i) % n) ((i + n - target) % n), draw } := by
  unfold planMove ascendingDistance descendingDistance
  split
  · next up => rw [decide_eq_true up, Nat.min_eq_left up]
  · next down => rw [decide_eq_false down, Nat.min_eq_right (Nat.le_of_not_le down)]

/-- The carousel and the slot at a move start, its work in service aside: claim, MOVE and the move in flight. -/
def State.moveBegun (v : State) (c level target : Nat) (g : Grade) (p : Profile) (i : Nat) : State :=
  (State.placeMove { v with power := { v.power with claims := v.power.claims ++ [Claim.mk c g.power] } } c level p.drive
    [byte target, if (target + p.carriers - i) % p.carriers ≤ (i + p.carriers - target) % p.carriers then 0 else 1,
      byte g.speed, byte (((v.car c).moveNumber + 1) % 256)]).modCar c fun k => { k with
    state := .moving
    moveNumber := ((v.car c).moveNumber + 1) % 256
    move := some {
      target, start := i, ascending := decide ((target + p.carriers - i) % p.carriers ≤ (i + p.carriers - target) % p.carriers)
      distance := min ((target + p.carriers - i) % p.carriers) ((i + p.carriers - target) % p.carriers), draw := g.power } }

theorem startMove_some (v : State) (c level target : Nat) (g : Grade) (p : Profile) (i : Nat) (grade : v.resolveGrade c = some g)
    (profile : (v.car c).profile = some p) (index : (v.car c).index = some i) : v.startMove c level target =
    some (match (v.car c).inService with
      | some (.task id) => (v.moveBegun c level target g p i).taskState id .moving
      | _ => v.moveBegun c level target g p i) := by
  unfold State.startMove
  rw [grade, profile, index]
  simp only [planMove_eq, movePayload, decide_eq_true_eq]
  rcases (v.car c).inService with _ | _ | _ <;> rfl

theorem startMove_none (v : State) (c level target : Nat)
    (h : v.resolveGrade c = none ∨ (v.car c).profile = none ∨ (v.car c).index = none) : v.startMove c level target = none := by
  unfold State.startMove
  split
  · next grade profile index => simp [grade, profile, index] at h
  · rfl

theorem slot_placeMove (s : State) (c level : Nat) (dest : Byte) (payload : List Byte) (len : c < s.outbox.slots.length) :
    (s.placeMove c level dest payload).slot c =
      some { frame := { dest, kind := kindMove, tag := s.outbox.tagCounter, payload }, level } :=
  (getD_modify ..).trans (if_pos ⟨rfl, len⟩)

/-! ## The power wait list (R36) -/

/-- An entry stands after those of its own level or a higher one, and before those of a lower. -/
theorem insertWait_split (e : WaitEntry) (l : List WaitEntry) : ∃ pre post, l = pre ++ post ∧
    insertWait e l = pre ++ e :: post ∧ (∀ y ∈ pre, e.level ≤ y.level) ∧ ∀ y, post.head? = some y → y.level < e.level := by
  induction l with
  | nil => exact ⟨[], [], rfl, rfl, nofun, nofun⟩
  | cons x xs ih =>
    unfold insertWait
    split
    · next after =>
      obtain ⟨pre, post, split, joined, before, behind⟩ := ih
      refine ⟨x :: pre, post, by rw [split, List.cons_append], by rw [joined, List.cons_append], fun y hy => ?_, behind⟩
      rcases List.mem_cons.1 hy with rfl | hy
      · exact after
      · exact before y hy
    · next below =>
      refine ⟨[], x :: xs, rfl, rfl, nofun, fun y hy => ?_⟩
      rw [List.head?_cons, Option.some_inj] at hy
      rw [← hy]
      omega

/-! ## Work begun (R58) -/

section BeginWork

variable (v : State) (c : Nat) (w : Work) (level target : Nat)

theorem beginWork_at_mouth (here : (v.car c).index = some target) :
    v.beginWork c w level target = (v.modCar c fun k => { k with inService := some w }).present c := by
  unfold State.beginWork
  rw [if_pos here]

theorem beginWork_away (away : (v.car c).index ≠ some target) : v.beginWork c w level target =
    match (v.modCar c fun k => { k with inService := some w }).startMove c level target with
    | some y => y
    | none => (v.modCar c fun k => { k with inService := some w }).enterWait c level :=
  if_neg away

end BeginWork

/-! ## The walk of a service point (R55, R58) -/

theorem moveBlocked_eq_false (s : State) (c : Nat) : s.moveBlocked c = false ↔
    (s.bal c).cooling = false ∧ (s.bal c).fault = false ∧ s.lineHeld = false := by
  simp [State.moveBlocked, and_assoc]

theorem eligible_iff (s : State) (c : Nat) (k : Task) : s.eligible c k = true ↔
    k.state = .queued ∧ ((s.car c).index = some k.bay.carrier ∨
      ((s.bal c).cooling = false ∧ (s.bal c).fault = false ∧ s.lineHeld = false)) := by
  rw [← moveBlocked_eq_false]
  simp [State.eligible]

/-- The transit entries a task asks for at its release (R59). -/
def Task.entries (k : Task) : Nat :=
  if k.kind = .pick then k.quantity - k.taken else 0

/-- The transit list has room for the entries a task asks for (R130). -/
def State.hasRoom (s : State) (k : Task) : Prop :=
  k.kind = .pick → s.consolidation.transit.length + s.consolidation.reserved + k.entries ≤ 64

/-- A task that a service point passes skips: not eligible, or without room on the transit list. -/
def State.passesOver (s : State) (c : Nat) (k : Task) : Prop :=
  ¬s.eligible c k = true ∨ (s.releaseTest k = true ∧ ¬s.hasRoom k)

/-- A task granted its transit entries, and off its level queue (R59). -/
def State.granted (s : State) (c id : Nat) (k : Task) : State :=
  (State.modTask { s with consolidation := { s.consolidation with reserved := s.consolidation.reserved + k.entries } } id
    fun x => { x with transit := if k.kind = .pick then k.entries else x.transit }).modCar c fun x => x.unqueue id

theorem modTask_congr (s : State) (id : Nat) (k : Task) (f g : Task → Task) (task : s.task id = some k) (same : f k = g k) :
    s.modTask id f = s.modTask id g := by
  have read : s.orderUnit.pool.getD id none = some k := task
  unfold State.modTask
  rw [modify_eq_set_getD _ _ _ none, modify_eq_set_getD _ _ (fun t => t.map g) none, read, Option.map_some, Option.map_some, same]

theorem modTask_eq_self (s : State) (id : Nat) (f : Task → Task) (same : (s.task id).map f = s.task id) : s.modTask id f = s := by
  unfold State.modTask
  rw [modify_eq_self _ _ _ none same]

theorem releaseTransit_granted (s : State) (c id : Nat) (k : Task) (task : s.task id = some k) (room : s.hasRoom k) :
    ∃ t, s.releaseTransit id k = some t ∧ t.modCar c (fun x => x.unqueue id) = s.granted c id k := by
  unfold State.releaseTransit State.granted Task.entries
  cases kind : k.kind with
  | pick =>
    have fits := room kind
    rw [Task.entries, if_pos kind] at fits
    refine ⟨_, by rw [State.grant, if_pos fits]; rfl, congrArg (State.modCar · c _) ?_⟩
    exact modTask_congr _ id k _ _ task rfl
  | put =>
    refine ⟨s, rfl, congrArg (State.modCar · c _) ?_⟩
    refine (modTask_eq_self s id _ ?_).symm
    rw [task]
    rfl

theorem releaseTransit_full (s : State) (id : Nat) (k : Task) (full : ¬s.hasRoom k) : s.releaseTransit id k = none := by
  obtain ⟨kind, full⟩ := Classical.not_imp.1 full
  rw [Task.entries, if_pos kind] at full
  unfold State.releaseTransit State.grant
  rw [kind]
  dsimp only
  rw [if_neg full]
  rfl

/-- The walk leaves the tasks it passes skips as they are. -/
theorem walk_passesOver (c : Nat) (pre rest : List Nat) (s : State)
    (skips : ∀ j ∈ pre, ∀ k, s.task j = some k → s.passesOver c k) : State.walk c (pre ++ rest) s = State.walk c rest s := by
  induction pre with
  | nil => rfl
  | cons j pre ih =>
    have ih := ih fun i hi => skips i (List.mem_cons_of_mem j hi)
    rw [List.cons_append, State.walk]
    cases task : s.task j with
    | none => exact ih
    | some k =>
      dsimp only
      rcases skips j List.mem_cons_self k task with idle | ⟨passes, full⟩
      · rw [if_neg idle]
        exact ih
      · split
        · rw [State.attemptRelease, if_pos passes, releaseTransit_full s j k full]
          exact ih
        · exact ih

section Walk

variable (s : State) (c id : Nat) (k : Task) (post : List Nat) (task : s.task id = some k) (able : s.eligible c k = true)
include task able

/-- A task that fails the release test is BALANCE-WAIT, and the walk goes on. -/
theorem walk_fails (fails : ¬s.releaseTest k = true) :
    State.walk c (id :: post) s = State.walk c post (s.taskState id .balanceWait) := by
  rw [State.walk, task]
  dsimp only
  rw [if_pos able, State.attemptRelease, if_neg fails]

/-- A task that passes it and has its entries granted begins. -/
theorem walk_releases (passes : s.releaseTest k = true) (room : s.hasRoom k) :
    State.walk c (id :: post) s = ((s.granted c id k).beginWork c (.task id) k.level k.bay.carrier, true) := by
  obtain ⟨t, granted, is⟩ := releaseTransit_granted s c id k task room
  rw [State.walk, task]
  dsimp only
  rw [if_pos able, State.attemptRelease, if_pos passes, granted, ← is]

end Walk

/-! ## The service point (R57, R58, R60) -/

theorem idleReady_iff (s : State) (c : Nat) :
    s.idleReady c = true ↔ (s.car c).state = .ready ∧ (s.car c).inService = none := by
  rw [State.idleReady_eq, decide_eq_true_eq]

theorem servicePoint_busy (s : State) (c : Nat) (busy : ¬s.idleReady c = true) : s.servicePoint c = s :=
  if_neg busy

/-- What a service point does after its walk: with none released the sweep's next step. -/
def State.afterWalk (c : Nat) (r : State × Bool) : State :=
  if r.2 then r.1 else r.1.releaseStep c

theorem servicePoint_idle (s : State) (c : Nat) (idle : s.idleReady c = true) :
    s.servicePoint c = State.afterWalk c (State.walk c (s.car c).walkOrder s) := by
  unfold State.servicePoint State.afterWalk
  rw [if_pos idle]
  split <;> next e => rw [e]; rfl

section ServicePoint

variable (s : State) (c : Nat) (idle : s.idleReady c = true)
include idle

section First

variable (pre : List Nat) (id : Nat) (post : List Nat) (k : Task) (walk : (s.car c).walkOrder = pre ++ id :: post)
  (skips : ∀ j ∈ pre, ∀ k, s.task j = some k → s.passesOver c k) (task : s.task id = some k) (able : s.eligible c k = true)
include walk skips task able

/-- The first eligible task fails its release test: it is BALANCE-WAIT and the walk starts again without it. -/
theorem servicePoint_fails (fails : ¬s.releaseTest k = true) :
    s.servicePoint c = (s.taskState id .balanceWait).servicePoint c := by
  have absent : id ∉ pre := fun h => (skips id h k task).elim (· able) (fails ·.1)
  have waits : (s.taskState id .balanceWait).task id = some { k with state := .balanceWait } :=
    (State.task_modTask s id id _).trans ((if_pos rfl).trans (congrArg (Option.map _) task))
  have skips' : ∀ j ∈ pre ++ [id], ∀ k, (s.taskState id .balanceWait).task j = some k →
      (s.taskState id .balanceWait).passesOver c k := fun j hj x hx => by
    rcases List.mem_append.1 hj with hj | hj
    · have other : id ≠ j := fun e => absent (e ▸ hj)
      exact skips j hj x ((State.task_modTask s id j _).symm.trans hx ▸ (if_neg other).symm)
    · rw [List.mem_singleton.1 hj, waits, Option.some_inj] at hx
      exact .inl fun h => by simp [← hx, eligible_iff] at h
  have again : (s.taskState id .balanceWait).servicePoint c = _ := servicePoint_idle (s.taskState id .balanceWait) c idle
  rw [servicePoint_idle s c idle, walk, walk_passesOver c pre _ s skips, walk_fails s c id k post task able fails, again,
    show ((s.taskState id .balanceWait).car c).walkOrder = (pre ++ [id]) ++ post from walk.trans (by simp),
    walk_passesOver c _ post _ skips']

/-- The first eligible task passes it and has room: it begins. -/
theorem servicePoint_releases (passes : s.releaseTest k = true) (room : s.hasRoom k) :
    s.servicePoint c = (s.granted c id k).beginWork c (.task id) k.level k.bay.carrier := by
  rw [servicePoint_idle s c idle, walk, walk_passesOver c pre _ s skips, walk_releases s c id k post task able passes room]
  rfl

end First

/-- With no task released the sweep's next step has its turn. -/
theorem servicePoint_step (skips : ∀ j ∈ (s.car c).walkOrder, ∀ k, s.task j = some k → s.passesOver c k) :
    s.servicePoint c = s.releaseStep c := by
  have none_left := walk_passesOver c (s.car c).walkOrder [] s skips
  rw [List.append_nil] at none_left
  rw [servicePoint_idle s c idle, none_left]
  rfl

end ServicePoint

/-! ## Presentation (R66, R84, R112, R143) -/

/-- A task presented is shown at the mouth. -/
theorem present_task (s : State) (c id : Nat) (k : Task) (serving : (s.car c).inService = some (.task id))
    (task : s.task id = some k) : s.present c =
    ((s.modTask id fun x => { x with state := .presenting }).modCar c fun x => { x with
      state := .presenting, presentationTimer := some (s.now + s.presentationMs) }).indicateTask c
        { k with state := .presenting } := by
  have there : ((s.taskState id .presenting).modCar c fun x => { x with
      state := .presenting, presentationTimer := some (s.now + s.presentationMs) }).task id =
      some { k with state := .presenting } :=
    (State.task_modTask s id id _).trans ((if_pos rfl).trans (congrArg (Option.map _) task))
  unfold State.present
  rw [serving]
  dsimp only
  rw [there]
  rfl

/-- A step presented starts its first read attempt with a SCAN-CARRIER. -/
theorem present_step (s : State) (c : Nat) (w : SweepContext) (p : Profile) (len : c < s.carousels.length)
    (serving : (s.car c).inService = some .step) (sweep : (s.car c).sweep = some w) (profile : (s.car c).profile = some p) :
    State.Builds { s with
        carousels := s.carousels.set c { s.car c with state := .presenting }
        audit := { s.audit with sweeps := s.audit.sweeps.set c { s.sweepRecord c with
          readAttempt := 1, readTimer := some (s.now + s.carrierReadMs) } } }
      p.reader kindScanCarrier [byte w.next, byte p.bays] (s.present c) := by
  have profile' : ((s.modCar c fun k => { k with state := .presenting }).car c).profile = some p := by
    rw [State.car_modCar, if_pos ⟨rfl, len⟩]
    exact profile
  obtain ⟨m, dropped, takes, built⟩ := build_builds (s.modCar c fun k => { k with state := .presenting }) p.reader
    kindScanCarrier (scanPayload w.next p.bays)
  have presented : s.present c = ((s.modCar c fun k => { k with state := .presenting }).build p.reader kindScanCarrier
      (scanPayload w.next p.bays)).modSweepRecord c fun r =>
        { r with readAttempt := 1, readTimer := some (s.now + s.carrierReadMs) } := by
    unfold State.present State.sendScan
    rw [serving]
    dsimp only
    rw [sweep]
    dsimp only
    rw [profile']
  refine ⟨m, dropped, takes, ?_⟩
  rw [presented, built]
  unfold State.modCar State.modSweepRecord
  dsimp only
  rw [modify_eq_set_getD _ _ _ {}, modify_eq_set_getD s.audit.sweeps _ _ {}]
  rfl

/-- Settles O50: a service point is its walk (`servicePoint_fails`, `servicePoint_releases`, `servicePoint_step`), work begun
one of three cases, and an offer a move start. -/
theorem servicePointServes : Obligations.ServicePointServes := by
  intro s c bounded c8 start begun moves eligible entries room passes passed walk idle
  have len : c < s.carousels.length := by rwa [bounded.eight.1]
  have starts : ∀ v c level target, v.startMove c level target = start v c level target := fun v c level target => by
    cases grade : v.resolveGrade c with
    | none => exact (startMove_none v c level target (.inl grade)).trans (by simp only [start, grade])
    | some g =>
      cases profile : (v.car c).profile with
      | none => exact (startMove_none v c level target (.inr (.inl profile))).trans (by simp only [start, grade, profile])
      | some p =>
        cases index : (v.car c).index with
        | none => exact (startMove_none v c level target (.inr (.inr index))).trans (by simp only [start, grade, profile, index])
        | some i =>
          refine (startMove_some v c level target g p i grade profile index).trans ?_
          simp only [start, grade, profile, index]
          rfl
  have begins : ∀ v w level target, c < v.carousels.length → begun v w level target (v.beginWork c w level target) :=
    fun v w level target len => by
      have serving : ((v.modCar c fun k => { k with inService := some w }).car c).inService = some w := by
        rw [State.car_modCar, if_pos ⟨rfl, len⟩]
      by_cases here : (v.car c).index = some target
      · simp only [begun, if_pos here]
        exact beginWork_at_mouth v c w level target here
      · simp only [begun, if_neg here]
        rw [beginWork_away v c w level target here, starts]
        cases start (v.modCar c fun k => { k with inService := some w }) c level target with
        | some y => rfl
        | none =>
          obtain ⟨pre, post, split, joined, before, behind⟩ := insertWait_split
            { carousel := c, level, sequence := v.power.nextSequence } (v.power.waitList.filter fun y => y.carousel != c)
          refine ⟨pre, post, split, before, behind, ?_⟩
          rw [← joined]
          unfold State.enterWait
          rw [serving]
          cases w <;> rfl
  have eligible_iff : ∀ k, s.eligible c k = true ↔ eligible k := eligible_iff s c
  have passes_iff : ∀ k, s.releaseTest k = true ↔ passes k := fun k => by
    cases k with | mk kind => cases kind <;> exact releaseTest_iff s _
  have passed_iff : ∀ j, (∀ k, s.task j = some k → s.passesOver c k) ↔ passed j := fun j => by
    simp only [State.passesOver, eligible_iff, passes_iff]
    rfl
  have idle_iff : s.idleReady c = true ↔ idle := idleReady_iff s c
  have walked : idle → (∀ j ∈ walk, passed j) → s.servicePoint c = s.releaseStep c := fun ready skips =>
    servicePoint_step s c (idle_iff.2 ready) fun j hj => (passed_iff j).2 (skips j hj)
  refine ⟨fun busy => servicePoint_busy s c (mt idle_iff.1 busy), fun ready pre id post k split skips task able => ⟨fun fails =>
    ?_, fun pass fits => ?_⟩, fun ready skips => ⟨fun bare => ?_, fun w sweep => ⟨fun turn => ?_, fun stays => ?_⟩⟩,
    fun id k p serving task profile => ?_, fun w p serving sweep profile => present_step s c w p len serving sweep profile,
    fun level dest payload => slot_placeMove s c level dest payload (by rwa [bounded.slots]), ?_⟩
  · exact servicePoint_fails s c (idle_iff.2 ready) pre id post k split (fun j hj => (passed_iff j).2 (skips j hj)) task
      ((eligible_iff k).2 able) (mt (passes_iff k).1 fails)
  · have released := servicePoint_releases s c (idle_iff.2 ready) pre id post k split
      (fun j hj => (passed_iff j).2 (skips j hj)) task ((eligible_iff k).2 able) ((passes_iff k).2 pass) fits
    rw [released]
    exact begins _ _ _ _ (by simpa [State.granted] using len)
  · rw [walked ready skips, State.releaseStep, bare]
  · rw [walked ready skips, State.releaseStep, sweep]
    dsimp only
    rw [if_pos (turn.imp_right (moveBlocked_eq_false s c).2)]
    exact begins s .step 0 w.next len
  · rw [walked ready skips, State.releaseStep, sweep]
    exact if_neg fun turn => stays (turn.imp_right (moveBlocked_eq_false s c).1)
  · have shown := present_task s c id k serving task
    rw [indicateTask_build _ c _ p (by rw [State.car_modCar, if_pos ⟨rfl, len⟩]; exact profile)] at shown
    have bay := bay_modCar (s.modTask id fun x => { x with state := .presenting }) c (fun x => { x with
      state := .presenting, presentationTimer := some (s.now + s.presentationMs) }) (fun _ => rfl) k.bay
    dsimp only at shown ⊢
    rw [bay] at shown
    rw [shown]
    exact build_builds _ _ _ _
  · refine congrArg (List.foldl · s s.power.waitList) (funext fun v => funext fun e => ?_)
    have blocked : v.moveBlocked e.carousel = true ↔
        (v.bal e.carousel).cooling = true ∨ (v.bal e.carousel).fault = true ∨ v.lineHeld = true := by
      simp [State.moveBlocked, or_assoc]
    unfold State.offerEntry
    refine if_congr blocked rfl ?_
    cases v.targetCarrier e.carousel with
    | none => rfl
    | some target =>
      dsimp only
      rw [starts]
      cases start v e.carousel e.level target <;> rfl

end Sys2Proof.Machine
end

section
/-! A move that ends away from its target, the drive's reports and the deviation check (O20): R44, R45, R53, R63 to R65, R70. -/

namespace Sys2Proof.Machine

/-! ## Before the work is returned -/

/-- What a STOP, the release of the carousel's claim and a rise of its H leave of carousel `c`: `s` is the part before, `v`
after. -/
structure State.Unmoved (s v : State) (c : Nat) : Prop where
  len : v.carousels.length = s.carousels.length
  car : v.car c = s.car c
  tasks : ∀ id k, s.task id = some k → ∃ st n, v.task id = some { k with state := st, transit := n }
  audit : v.audit = s.audit
  loads : (v.bal c).loads = (s.bal c).loads
  deviation : (v.bal c).deviation = (s.bal c).deviation
  counts : ∀ id, (v.bay id).count = (s.bay id).count
  transit : v.consolidation.transit = s.consolidation.transit

namespace State.Unmoved

variable {s v u : State} {c : Nat}

theorem refl (s : State) (c : Nat) : s.Unmoved s c :=
  ⟨rfl, rfl, fun _ k h => ⟨k.state, k.transit, h⟩, rfl, rfl, rfl, fun _ => rfl, rfl⟩

theorem trans (a : s.Unmoved v c) (b : v.Unmoved u c) : s.Unmoved u c where
  len := b.len.trans a.len
  car := b.car.trans a.car
  tasks := fun id k h => by
    obtain ⟨_, _, h⟩ := a.tasks id k h
    obtain ⟨st, n, h⟩ := b.tasks id _ h
    exact ⟨st, n, h⟩
  audit := b.audit.trans a.audit
  loads := b.loads.trans a.loads
  deviation := b.deviation.trans a.deviation
  counts := fun id => (b.counts id).trans (a.counts id)
  transit := b.transit.trans a.transit

theorem sendStop (s : State) (c : Nat) : s.Unmoved (s.sendStop c) c := by
  rw [sendStop_frame]
  exact ⟨rfl, rfl, fun _ k h => ⟨k.state, k.transit, h⟩, rfl, rfl, rfl, fun _ => rfl, rfl⟩

/-- With no entry of its own on the power wait list a carousel is offered no move start by the release of its claim. -/
theorem releaseClaim (s : State) (c : Nat) (idle : s.waits c = false) : s.Unmoved (s.releaseClaim c) c := by
  have released := releaseClaim_spec s c
  have bal : (s.releaseClaim c).bal c = s.bal c := by rw [State.bal, released.balances, State.bal]
  exact ⟨released.len, released.car idle, released.tasks, released.audit, congrArg Balance.loads bal,
    congrArg Balance.deviation bal, fun id => (congrArg Bay.count (released.bays id) :), released.transit⟩

/-- A change of the balance record of `c` that keeps its loads and its deviation counter, with a notice. -/
theorem modBal (s : State) (c : Nat) (f : Balance → Balance) (l : LinkPort) (loads : ∀ b, (f b).loads = b.loads)
    (deviation : ∀ b, (f b).deviation = b.deviation) : s.Unmoved { s.modBal c f with link := l } c where
  len := rfl
  car := rfl
  tasks := fun _ k h => ⟨k.state, k.transit, h⟩
  audit := rfl
  loads := by
    show ((s.modBal c f).bal c).loads = _
    rw [bal_modBal]
    split
    · exact loads _
    · rfl
  deviation := by
    show ((s.modBal c f).bal c).deviation = _
    rw [bal_modBal]
    split
    · exact deviation _
    · rfl
  counts := fun _ => rfl
  transit := rfl

end State.Unmoved

/-! ## The rise of H (R39, R41) -/

/-- COOLING set or cleared, with its notice where it changes. -/
theorem setCooling_frame (s : State) (c : Nat) (on : Bool) : ∃ l : LinkPort,
    s.setCooling c on = { s.modBal c (fun b => { b with cooling := on }) with link := l } := by
  unfold State.setCooling
  split
  · next same =>
    have record : ({ s.bal c with cooling := on } : Balance) = s.bal c := by rw [← same]
    refine ⟨s.link, ?_⟩
    unfold State.modBal
    rw [modify_eq_self _ _ _ {} record]
  · exact ⟨_, notify_frame _ _⟩

/-- A rise of H changes the balance record of its carousel and sends a COOLING notice at most. -/
theorem raiseDuty_frame (s : State) (c : Nat) (p : Profile) (distance draw : Nat) : ∃ (cooling : Bool → Bool) (l : LinkPort),
    s.raiseDuty c p distance draw = { s.modBal c (fun b => { b with
      duty := min 65535 (b.duty + distance * draw / 8), cooling := cooling b.cooling }) with link := l } := by
  unfold State.raiseDuty State.coolingAfterRise
  split
  · obtain ⟨l, frame⟩ := setCooling_frame (s.modBal c fun b => { b with
      duty := min 65535 (b.duty + distance * draw / 8) }) c true
    refine ⟨fun _ => true, l, ?_⟩
    rw [frame]
    unfold State.modBal
    dsimp only
    rw [List.modify_modify_eq]
    rfl
  · exact ⟨id, s.link, rfl⟩

theorem raiseDuty_unmoved (s : State) (c : Nat) (p : Profile) (distance draw : Nat) :
    s.Unmoved (s.raiseDuty c p distance draw) c := by
  obtain ⟨cooling, l, frame⟩ := raiseDuty_frame s c p distance draw
  rw [frame]
  exact .modBal s c _ l (fun _ => rfl) fun _ => rfl

theorem raiseDuty_duty (s : State) (c : Nat) (p : Profile) (distance draw : Nat) (len : c < s.balances.length) :
    ((s.raiseDuty c p distance draw).bal c).duty = min 65535 ((s.bal c).duty + distance * draw / 8) := by
  obtain ⟨cooling, l, frame⟩ := raiseDuty_frame s c p distance draw
  rw [frame]
  show ((s.modBal c _).bal c).duty = _
  rw [bal_modBal, if_pos ⟨rfl, len⟩]

/-! ## The return of the work, and DRIVE-FAULT (R53, R65) -/

/-- DRIVE-FAULT is entered in the carousel record alone, with its notice. -/
theorem enterDriveFault_eq (s : State) (c : Nat) (cause : FaultCause) : s.enterDriveFault c cause =
    { s.modCar c (fun k => { k with state := .driveFault }) with
      link := (s.notify (.carouselFault c cause (s.car c).index)).link } := by
  have index : ((s.modCar c fun k => { k with state := .driveFault }).car c).index = (s.car c).index := by
    rw [State.car_modCar]
    split <;> rfl
  have link := notify_link_congr (s.modCar c fun k => { k with state := .driveFault }) s
    (.carouselFault c cause (s.car c).index) rfl
  unfold State.enterDriveFault
  dsimp only
  rw [index, notify_frame, link]

/-- What the return of work and a fault leave of the work that was in service at carousel `c` in `s`. -/
def State.HandsBack (s u : State) (c : Nat) : Prop :=
  (∀ id w, (s.car c).inService = some (.task id) → s.task id = some w → w.withdrawn = false → w.bay.carousel = c →
    u.task id = some { w with state := .queued, transit := 0 } ∧ (u.car c).queue w.level = id :: (s.car c).queue w.level ∧
      (u.car c).sweep = (s.car c).sweep) ∧
  (∀ id w, (s.car c).inService = some (.task id) → s.task id = some w → w.withdrawn = true → u.task id = none) ∧
  ((s.car c).inService = some .step → (u.car c).sweep = if (s.sweepRecord c).stopMark then none else (s.car c).sweep) ∧
  u.waits c = false

/-- What a move of carousel `c` that ended away from its target leaves. -/
def State.EndsAway (s u : State) (c : Nat) (index : Option Nat) : Prop :=
  (u.car c).state = .driveFault ∧ (u.car c).index = index ∧ (u.car c).move = none ∧ (u.car c).moveTimer = none ∧
    (u.car c).inService = none ∧ (u.car c).moveNumber = (s.car c).moveNumber ∧ (u.car c).parked = (s.car c).parked ∧
    (u.bal c).loads = (s.bal c).loads ∧ (u.bal c).deviation = (s.bal c).deviation ∧
    (∀ id, (u.bay id).count = (s.bay id).count) ∧ u.consolidation.transit = s.consolidation.transit

/-- Where a carousel record stands beside its work: its state, its index and its move. -/
def Carousel.restsAs (k k' : Carousel) : Prop :=
  k' = { k with state := k'.state, index := k'.index, move := k'.move, moveTimer := k'.moveTimer }

section Faulted

variable {s v : State} {c : Nat} (un : s.Unmoved v c) (len : c < s.carousels.length) (f : Carousel → Carousel)
  (rests : ∀ k : Carousel, k.restsAs (f k)) (l : LinkPort)
include un len

theorem faulted_car : (State.car { (v.returnWork c).modCar c f with link := l } c) = f ((v.returnWork c).car c) :=
  (State.car_modCar ..).trans (if_pos ⟨rfl, by rw [(returnWork_returned v c (un.len ▸ len)).len, un.len]; exact len⟩)

include rests

/-- Work returned stands so through the carousel's fault (R65). -/
theorem faulted_handsBack : s.HandsBack { (v.returnWork c).modCar c f with link := l } c := by
  have back := returnWork_returned v c (un.len ▸ len)
  have car := faulted_car un len f l
  have rest := rests ((v.returnWork c).car c)
  rw [← car] at rest
  have queue : ∀ level, (State.car { (v.returnWork c).modCar c f with link := l } c).queue level =
      ((v.returnWork c).car c).queue level := fun level => by rw [rest]; rfl
  have sweep : (State.car { (v.returnWork c).modCar c f with link := l } c).sweep = ((v.returnWork c).car c).sweep := by
    rw [rest]
  have stop : v.sweepRecord c = s.sweepRecord c := by rw [State.sweepRecord, un.audit, State.sweepRecord]
  have before := back.sweep
  rw [un.car, stop] at before
  refine ⟨fun id w serving task live here => ?_, fun id w serving task gone => ?_, fun serving => ?_, back.waits⟩
  · obtain ⟨st, n, task⟩ := un.tasks id w task
    obtain ⟨queued, head⟩ := back.task id _ (un.car ▸ serving) task live here
    rw [un.car] at head
    exact ⟨queued, (queue _).trans head, (sweep.trans before).trans (if_neg fun h => by simp [serving] at h)⟩
  · obtain ⟨st, n, task⟩ := un.tasks id w task
    exact back.gone id _ (un.car ▸ serving) task gone
  · rw [sweep, before]
    exact if_congr (and_iff_right serving) rfl rfl

omit rests in
/-- A move ends in DRIVE-FAULT with the index given (R62 to R64). -/
theorem faulted_endsAway (index : Option Nat) : s.EndsAway { (v.returnWork c).modCar c (fun k =>
    { k with state := .driveFault, index, move := none, moveTimer := none }) with link := l } c index := by
  have back := returnWork_returned v c (un.len ▸ len)
  have car := faulted_car un len (fun k => { k with state := .driveFault, index, move := none, moveTimer := none }) l
  have fields := back.car
  rw [un.car] at fields
  refine ⟨congrArg Carousel.state car, congrArg Carousel.index car, congrArg Carousel.move car,
    congrArg Carousel.moveTimer car, (congrArg Carousel.inService car).trans (congrArg Carousel.inService fields :),
    (congrArg Carousel.moveNumber car).trans (congrArg Carousel.moveNumber fields :),
    (congrArg Carousel.parked car).trans (congrArg Carousel.parked fields :), back.loads.trans un.loads,
    back.deviation.trans un.deviation, fun id => ?_, back.transit.trans un.transit⟩
  refine Eq.trans (congrArg Bay.count ?_) ((back.counts id).trans (un.counts id))
  exact bay_modCar (v.returnWork c) c (fun k => { k with state := .driveFault, index, move := none, moveTimer := none })
    (fun _ => rfl) id

end Faulted

/-- A move that ends away from its target, once its work is returned (R62 to R64). -/
theorem endsAway_eq (v : State) (c : Nat) (index : Option Nat) (cause : FaultCause) (len : c < v.carousels.length) :
    ((v.endMove c).modCar c fun k => { k with index }).enterDriveFault c cause =
      { v.modCar c (fun k => { k with state := .driveFault, index, move := none, moveTimer := none }) with
        link := (v.notify (.carouselFault c cause index)).link } := by
  have two : (v.endMove c).modCar c (fun k => { k with index }) =
      v.modCar c fun k => { k with index, move := none, moveTimer := none } := by
    unfold State.endMove State.modCar
    dsimp only
    rw [List.modify_modify_eq]
    rfl
  have now_index : ((v.modCar c fun k => { k with index, move := none, moveTimer := none }).car c).index = index := by
    rw [State.car_modCar, if_pos ⟨rfl, len⟩]
  have link := notify_link_congr (v.modCar c fun k => { k with index, move := none, moveTimer := none }) v
    (.carouselFault c cause index) rfl
  rw [two, enterDriveFault_eq, now_index, link]
  unfold State.modCar
  dsimp only
  rw [List.modify_modify_eq]
  rfl

section EndsAway

variable {s v : State} {c : Nat} (un : s.Unmoved v c) (len : c < s.carousels.length)
include un len

/-- Every end of a move away from its target (R62 to R64): DRIVE-FAULT with the index given and the work handed back; claims,
E, outbox and H stand as they did when the work was returned. -/
theorem endsAway_spec (index : Option Nat) (cause : FaultCause) :
    let u := (((v.returnWork c).endMove c).modCar c fun k => { k with index }).enterDriveFault c cause
    s.EndsAway u c index ∧ s.HandsBack u c ∧ u.power.claims = v.power.claims ∧ u.power.budget = v.power.budget ∧
      u.outbox = v.outbox ∧ (u.bal c).duty = (v.bal c).duty ∧
      ((s.car c).inService ≠ some .step → u.link = (v.notify (.carouselFault c cause index)).link) := by
  have back := returnWork_returned v c (un.len ▸ len)
  intro u
  have is : u = _ := endsAway_eq (v.returnWork c) c index cause (by rw [back.len, un.len]; exact len)
  rw [is]
  refine ⟨faulted_endsAway un len _ index, faulted_handsBack un len
    (fun k => { k with state := .driveFault, index, move := none, moveTimer := none }) (fun _ => rfl) _, back.claims.1, back.claims.2,
    back.outbox, back.duty, fun task => notify_link_congr _ v _ (back.link (un.car ▸ task))⟩

end EndsAway

/-! ## The move timer (R64) -/

theorem moveTimeout_stopped (s : State) (c : Nat) (h : (s.car c).state ≠ .moving ∨ (s.car c).moveTimer = none) :
    s.moveTimeout c = s :=
  if_neg fun run => h.elim (· run.1) fun none_ => by simp [none_] at run

theorem moveTimeout_runs (s : State) (c : Nat) (moving : (s.car c).state = .moving) (runs : (s.car c).moveTimer ≠ none) :
    s.moveTimeout c = ((((s.sendStop c).returnWork c).endMove c).modCar c fun k => { k with index := none }).enterDriveFault c
      .timeout :=
  if_pos ⟨moving, Option.isSome_iff_ne_none.2 runs⟩

/-! ## Reports (R53, R63, R70) -/

theorem modCar_eq_self (s : State) (c : Nat) (f : Carousel → Carousel) (h : f (s.car c) = s.car c) : s.modCar c f = s := by
  unfold State.modCar
  rw [modify_eq_self _ _ _ {} h]

/-- The index that a report leaves the part knowing (R70). -/
theorem record_eq (s : State) (c reported carriers : Nat) :
    (if reported < carriers then s.modCar c fun x => { x with index := some reported } else s) =
      s.modCar c fun x => { x with index := if reported < carriers then some reported else (s.car c).index } := by
  split
  · rfl
  · exact (modCar_eq_self s c _ rfl).symm

/-- An ARRIVED of the move in flight at another index: claim released, H raised by the carriers travelled where the index is
one of the carousel's, and the move ended away from its target (R63, R39). -/
theorem arrivedMoving_away (s : State) (c : Nat) (p : Profile) (m : Move) (reported : Nat) (measured : Int)
    (away : reported ≠ m.target) : s.arrivedMoving c p m reported measured =
    ((((if reported < p.carriers then (s.releaseClaim c).raiseDuty c p (m.travelled p.carriers reported) m.draw
      else s.releaseClaim c).returnWork c).endMove c).modCar c fun k =>
        { k with index := if reported < p.carriers then some reported else none }).enterDriveFault c .wrongIndex := by
  unfold State.arrivedMoving
  dsimp only
  rw [if_neg away]
  simp only [decide_eq_true_eq]

theorem arrivedMoving_away_spec (s : State) (c : Nat) (p : Profile) (m : Move) (reported : Nat) (measured : Int)
    (away : reported ≠ m.target) (idle : s.waits c = false) (len : c < s.carousels.length) (bals : c < s.balances.length) :
    let u := s.arrivedMoving c p m reported measured
    s.EndsAway u c (if reported < p.carriers then some reported else none) ∧ s.HandsBack u c ∧ u.hasClaim c = false ∧
      (u.bal c).duty = if reported < p.carriers then
        min 65535 ((s.bal c).duty + m.travelled p.carriers reported * m.draw / 8) else (s.bal c).duty := by
  have released := releaseClaim_spec s c
  have unmoved := State.Unmoved.releaseClaim s c idle
  have bal : (s.releaseClaim c).bal c = s.bal c := by rw [State.bal, released.balances, State.bal]
  rw [arrivedMoving_away s c p m reported measured away]
  generalize is : (if reported < p.carriers then (s.releaseClaim c).raiseDuty c p (m.travelled p.carriers reported) m.draw
    else s.releaseClaim c) = v
  have risen : s.Unmoved v c ∧ v.power.claims = (s.releaseClaim c).power.claims ∧ (v.bal c).duty = if reported < p.carriers then
      min 65535 ((s.bal c).duty + m.travelled p.carriers reported * m.draw / 8) else (s.bal c).duty := by
    rw [← is]
    split
    · refine ⟨unmoved.trans (raiseDuty_unmoved ..), ?_, ?_⟩
      · obtain ⟨_, _, frame⟩ := raiseDuty_frame (s.releaseClaim c) c p (m.travelled p.carriers reported) m.draw
        rw [frame]
        rfl
      · rw [raiseDuty_duty _ c p _ _ (released.balances ▸ bals), bal]
    · exact ⟨unmoved, rfl, congrArg Balance.duty bal⟩
  obtain ⟨un, same, duty⟩ := risen
  obtain ⟨ends, back, claims, _, _, h, _⟩ := endsAway_spec un len (if reported < p.carriers then some reported else none)
    .wrongIndex
  refine ⟨ends, back, ?_, h.trans duty⟩
  rw [State.hasClaim, claims, same]
  exact released.claim idle

section Reports

variable (s : State) (c reported : Nat) (p : Profile) (profile : (s.car c).profile = some p)
include profile

theorem arrived_moving (measured : Int) (m : Move) (state : (s.car c).state = .moving) (move : (s.car c).move = some m) :
    s.arrived c reported measured (s.car c).moveNumber = s.arrivedMoving c p m reported measured := by
  unfold State.arrived
  dsimp only
  rw [profile, state, move]
  exact if_pos rfl

theorem arrived_driveFault (measured : Int) (number : Nat) (state : (s.car c).state = .driveFault) :
    s.arrived c reported measured number =
      s.modCar c fun x => { x with index := if reported < p.carriers then some reported else (s.car c).index } := by
  unfold State.arrived
  dsimp only
  rw [profile, state]
  exact record_eq s c reported p.carriers

theorem arrived_manual (measured : Int) (number : Nat) (state : (s.car c).state = .manual) :
    s.arrived c reported measured number = if reported < p.carriers then
      (s.modCar c fun x => { x with index := some reported }).deviationCheck c reported measured else s := by
  unfold State.arrived
  dsimp only
  rw [profile, state]

/-- A carousel that is not turning takes no ARRIVED. -/
theorem arrived_ignored (measured : Int) (number : Nat) (state : (s.car c).state = .offline ∨ (s.car c).state = .unhomed ∨
    (s.car c).state = .ready ∨ (s.car c).state = .presenting) : s.arrived c reported measured number = s := by
  unfold State.arrived
  dsimp only
  rw [profile]
  rcases state with state | state | state | state <;> rw [state]

variable (d : DriveCondition)

theorem driveState_offline (state : (s.car c).state = .offline) : s.driveState c d reported = s := by
  unfold State.driveState
  dsimp only
  rw [profile, state]

theorem driveState_ready (state : (s.car c).state = .ready) : s.driveState c d reported =
    if d = .fault then (s.returnWork c).enterDriveFault c .drive else s := by
  unfold State.driveState
  dsimp only
  rw [profile, state]

theorem driveState_moving (state : (s.car c).state = .moving) : s.driveState c d reported =
    if d = .fault then (s.releaseClaim c).failMove c .drive else s := by
  unfold State.driveState
  dsimp only
  rw [profile, state]

theorem driveState_presenting (state : (s.car c).state = .presenting) : s.driveState c d reported =
    if d = .fault then s.modCar c fun k => { k with faultPending := true } else s := by
  unfold State.driveState
  dsimp only
  rw [profile, state]

theorem driveState_driveFault (state : (s.car c).state = .driveFault) : s.driveState c d reported =
    if d = .stopped then (s.releaseClaim c).modCar c fun x =>
      { x with index := if reported < p.carriers then some reported else ((s.releaseClaim c).car c).index } else s := by
  rw [← record_eq]
  unfold State.driveState
  dsimp only
  rw [profile, state]

theorem driveState_manual (state : (s.car c).state = .manual) : s.driveState c d reported =
    if d = .fault then s else
      s.modCar c fun x => { x with index := if reported < p.carriers then some reported else (s.car c).index } := by
  rw [← record_eq]
  unfold State.driveState
  dsimp only
  rw [profile, state]

end Reports

/-- A fault reported in READY hands the work back and keeps the index (R53). -/
theorem readyFault_spec (s : State) (c : Nat) (len : c < s.carousels.length) :
    let u := (s.returnWork c).enterDriveFault c .drive
    (u.car c).state = .driveFault ∧ (u.car c).index = (s.car c).index ∧ (u.car c).inService = none ∧
      u.power.claims = s.power.claims ∧ s.HandsBack u c ∧
      ((s.car c).inService = none → u.link = (s.notify (.carouselFault c .drive (s.car c).index)).link) := by
  have back := returnWork_returned s c len
  have un := State.Unmoved.refl s c
  have index : ((s.returnWork c).car c).index = (s.car c).index := (congrArg Carousel.index back.car :)
  intro u
  have is : u = _ := enterDriveFault_eq (s.returnWork c) c .drive
  rw [index] at is
  rw [is]
  have car := faulted_car un len (fun k => { k with state := .driveFault })
    ((s.returnWork c).notify (.carouselFault c .drive (s.car c).index)).link
  refine ⟨congrArg Carousel.state car, (congrArg Carousel.index car).trans index,
    (congrArg Carousel.inService car).trans (congrArg Carousel.inService back.car :), back.claims.1,
    faulted_handsBack un len (fun k => { k with state := .driveFault }) (fun _ => rfl) _, fun bare => ?_⟩
  exact notify_link_congr _ s _ (back.link (by simp [bare]))

/-! ## The deviation check (R44, R45) -/

section Deviation

variable (s : State) (c r : Nat) (measured : Int) (p : Profile) (profile : (s.car c).profile = some p)
include profile

theorem deviationCheck_within (within : ¬(p.tolerance ≠ 0 ∧ (p.tolerance : Int) < |measured - (s.bal c).imbalanceAt r|)) :
    s.deviationCheck c r measured = s.modBal c fun b => { b with deviation := 0 } := by
  unfold State.deviationCheck
  rw [profile]
  simp only [Bool.and_eq_true, decide_eq_true_eq, if_neg within]
  rfl

theorem deviationCheck_once (deviates : p.tolerance ≠ 0 ∧ (p.tolerance : Int) < |measured - (s.bal c).imbalanceAt r|)
    (first : (s.bal c).deviation = 0) : s.deviationCheck c r measured = s.modBal c fun b => { b with deviation := 1 } := by
  unfold State.deviationCheck
  rw [profile]
  simp only [Bool.and_eq_true, decide_eq_true_eq, if_pos deviates, first]
  rfl

theorem deviationCheck_again (deviates : p.tolerance ≠ 0 ∧ (p.tolerance : Int) < |measured - (s.bal c).imbalanceAt r|)
    (again : (s.bal c).deviation ≠ 0) : s.deviationCheck c r measured = State.requestSweep
      ((s.modBal c fun b => { b with deviation := 0 }).notify (.balanceDeviation c r measured ((s.bal c).imbalanceAt r))) c := by
  unfold State.deviationCheck
  rw [profile]
  simp only [Bool.and_eq_true, decide_eq_true_eq, if_pos deviates]
  exact if_neg (by omega)

end Deviation

/-- Only a carousel in service, with no sweep and a known index, is given an automatic sweep (R45). -/
theorem requestSweep_none (s : State) (c : Nat)
    (h : ¬((s.car c).state = .ready ∨ (s.car c).state = .moving ∨ (s.car c).state = .presenting) ∨ (s.car c).sweep ≠ none) :
    s.requestSweep c = s := by
  unfold State.requestSweep
  dsimp only
  split
  · next bare _ _ => exact if_neg (h.resolve_right (not_not_intro bare))
  · rfl

theorem requestSweep_starts (s : State) (c i : Nat) (p : Profile) (profile : (s.car c).profile = some p)
    (serving : (s.car c).state = .ready ∨ (s.car c).state = .moving ∨ (s.car c).state = .presenting)
    (bare : (s.car c).sweep = none) (index : (s.car c).index = some i) :
    s.requestSweep c = s.startSweep c i ((i + p.carriers - 1) % p.carriers) p.policy .automatic := by
  unfold State.requestSweep
  dsimp only
  rw [bare, profile, index]
  exact if_pos serving

/-- A sweep request leaves the balances and the link. -/
theorem requestSweep_keeps (s : State) (c : Nat) : (s.requestSweep c).balances = s.balances ∧ (s.requestSweep c).link = s.link := by
  unfold State.requestSweep State.startSweep
  dsimp only
  split
  · split
    · rw [notePoint_frame]
      exact ⟨rfl, rfl⟩
    · exact ⟨rfl, rfl⟩
  · exact ⟨rfl, rfl⟩

/-- What the start of a sweep writes (R140, R142). -/
theorem startSweep_spec (s : State) (c first last : Nat) (policy : SweepPolicy) (origin : SweepOrigin)
    (len : c < s.carousels.length) (sweeps : c < s.audit.sweeps.length) :
    let u := s.startSweep c first last policy origin
    u.car c = { s.car c with sweep := some { next := first, last, policy, number := (s.audit.sweepCounter + 1) % 65536 } } ∧
      u.audit.sweepCounter = (s.audit.sweepCounter + 1) % 65536 ∧ (u.sweepRecord c).origin = origin ∧
      (u.sweepRecord c).stopMark = false := by
  have record : (s.startSweep c first last policy origin).sweepRecord c =
      { s.sweepRecord c with origin, stopMark := false, readAttempt := 0 } := by
    unfold State.startSweep
    rw [notePoint_frame]
    exact (sweepRecord_mod ..).trans (if_pos ⟨rfl, sweeps⟩)
  refine ⟨?_, ?_, congrArg SweepRecord.origin record, congrArg SweepRecord.stopMark record⟩
  · unfold State.startSweep
    rw [notePoint_frame]
    exact (State.car_modCar ..).trans (if_pos ⟨rfl, len⟩)
  · unfold State.startSweep
    rw [notePoint_frame]
    rfl

/-- The second deviation in turn: the counter at 0, BALANCE-DEVIATION, and the automatic sweep where it may start (R45). -/
theorem deviationCheck_again_spec (s : State) (c r : Nat) (measured : Int) (p : Profile)
    (profile : (s.car c).profile = some p)
    (deviates : p.tolerance ≠ 0 ∧ (p.tolerance : Int) < |measured - (s.bal c).imbalanceAt r|)
    (again : (s.bal c).deviation ≠ 0) (len : c < s.carousels.length) (bals : c < s.balances.length)
    (sweeps : c < s.audit.sweeps.length) :
    let u := s.deviationCheck c r measured
    let serving := (s.car c).state = .ready ∨ (s.car c).state = .moving ∨ (s.car c).state = .presenting
    let number := (s.audit.sweepCounter + 1) % 65536
    u.bal c = { s.bal c with deviation := 0 } ∧
      u.link = (s.notify (.balanceDeviation c r measured ((s.bal c).imbalanceAt r))).link ∧
      (¬serving ∨ (s.car c).sweep ≠ none → u.car c = s.car c ∧ u.audit = s.audit) ∧
      ∀ i, serving → (s.car c).sweep = none → (s.car c).index = some i →
        u.car c = { s.car c with sweep := some {
          next := i, last := (i + p.carriers - 1) % p.carriers, policy := p.policy, number } } ∧
        u.audit.sweepCounter = number ∧ (u.sweepRecord c).origin = .automatic ∧ (u.sweepRecord c).stopMark = false := by
  rw [deviationCheck_again s c r measured p profile deviates again]
  have frame := notify_frame (s.modBal c fun b => { b with deviation := 0 })
    (.balanceDeviation c r measured ((s.bal c).imbalanceAt r))
  have link := notify_link_congr (s.modBal c fun b => { b with deviation := 0 }) s
    (.balanceDeviation c r measured ((s.bal c).imbalanceAt r)) rfl
  generalize (s.modBal c fun b => { b with deviation := 0 }).notify
    (.balanceDeviation c r measured ((s.bal c).imbalanceAt r)) = v at frame link ⊢
  have car : v.car c = s.car c := by
    rw [frame]
    rfl
  have audit : v.audit = s.audit := by
    rw [frame]
    rfl
  have bal : v.bal c = { s.bal c with deviation := 0 } := by
    rw [frame]
    exact (bal_modBal ..).trans (if_pos ⟨rfl, bals⟩)
  have len' : c < v.carousels.length := by
    rw [frame]
    exact len
  obtain ⟨balances, same_link⟩ := requestSweep_keeps v c
  refine ⟨?_, same_link.trans link, fun stays => ?_, fun i ready bare index => ?_⟩
  · rw [← bal, State.bal, balances, State.bal]
  · rw [requestSweep_none v c (car.symm ▸ stays)]
    exact ⟨car, audit⟩
  · rw [requestSweep_starts v c i p (car.symm ▸ profile) (car.symm ▸ ready) (car.symm ▸ bare) (car.symm ▸ index), ← car, ← audit]
    exact startSweep_spec v c i ((i + p.carriers - 1) % p.carriers) p.policy .automatic len' (audit.symm ▸ sweeps)

/-- Settles O20: every end of a move away from its target is `endsAway_spec` on the part after the STOP, the release of the
claim and the rise of H; the reports of the other states are one equation each. -/
theorem driveReportsAndTimeout : Obligations.DriveReportsAndTimeout := by
  intro s c p bounded c8 profile k failed returned known follows
  have len : c < s.carousels.length := by rwa [bounded.eight.1]
  have bals : c < s.balances.length := by rwa [bounded.eight.2.2.1]
  have sweeps : c < s.audit.sweeps.length := by rwa [bounded.eight.2.2.2]
  refine ⟨fun q stopped => ?_, fun moving runs => ?_, fun m reported measured moving move away idle => ?_,
    fun reported measured number => ⟨fun state => arrived_driveFault s c reported p profile measured number state,
      fun state => ⟨fun unknown => ?_, fun is_known => ?_⟩, fun state => arrived_ignored s c reported p profile measured number state⟩,
    fun d reported => ?_, fun r measured => ?_⟩
  · have same : (s.moveTimeout c).settle = s := by
      rw [moveTimeout_stopped s c stopped, State.settle_of_quiet s q]
    exact (if_pos c8).trans (congrArg Host.Outcome.next same)
  · obtain ⟨ends, back, claims, budget, outbox, _, link⟩ := endsAway_spec (State.Unmoved.sendStop s c) len none .timeout
    intro u
    have is : u = _ := moveTimeout_runs s c moving runs
    rw [← is] at ends back claims budget outbox link
    have stop := sendStop_frame s c
    refine ⟨if_pos c8, ends, back, claims.trans (by rw [stop]), budget.trans (by rw [stop]), fun room => ?_,
      fun id serving _ => ?_⟩
    · rw [outbox]
      exact sendStop_fifo s c p profile room
    · rw [link (by rw [serving]; nofun)]
      exact notify_link_congr _ s _ (by rw [stop])
  · rw [arrived_moving s c reported p profile measured m moving move]
    exact arrivedMoving_away_spec s c p m reported measured away idle len bals
  · rw [arrived_manual s c reported p profile measured number state]
    exact if_neg (by omega)
  · rw [arrived_manual s c reported p profile measured number state]
    exact if_pos is_known
  · intro u
    refine ⟨fun state => driveState_offline s c reported p profile d state, fun state sound => ?_, fun state fault => ?_,
      fun state fault idle => ?_, fun state fault => ?_, fun state turns => ?_, fun state stopped idle => ?_,
      fun state fault => ?_, fun state sound => ?_⟩
    · rcases state with state | state | state
      · exact (driveState_ready s c reported p profile d state).trans (if_neg sound)
      · exact (driveState_moving s c reported p profile d state).trans (if_neg sound)
      · exact (driveState_presenting s c reported p profile d state).trans (if_neg sound)
    · rw [show u = _ from (driveState_ready s c reported p profile d state).trans (if_pos fault)]
      exact readyFault_spec s c len
    · obtain ⟨ends, back, claims, _⟩ := endsAway_spec (State.Unmoved.releaseClaim s c idle) len none .drive
      have is : u = _ := (driveState_moving s c reported p profile d state).trans (if_pos fault)
      rw [is]
      refine ⟨ends, back, ?_⟩
      have no_claim := (releaseClaim_spec s c).claim idle
      unfold State.hasClaim at no_claim ⊢
      exact (congrArg (List.any · _) claims).trans no_claim
    · exact (driveState_presenting s c reported p profile d state).trans (if_pos fault)
    · exact (driveState_driveFault s c reported p profile d state).trans (if_neg turns)
    · have released := releaseClaim_spec s c
      rw [show u = _ from (driveState_driveFault s c reported p profile d state).trans (if_pos stopped), released.car idle]
      refine ⟨?_, released.claim idle⟩
      rw [State.car_modCar, if_pos ⟨rfl, released.len ▸ len⟩, released.car idle]
    · exact (driveState_manual s c reported p profile d state).trans (if_pos fault)
    · exact (driveState_manual s c reported p profile d state).trans (if_neg sound)
  · exact ⟨deviationCheck_within s c r measured p profile, deviationCheck_once s c r measured p profile,
      fun beyond again => deviationCheck_again_spec s c r measured p profile beyond again len bals sweeps⟩

end Sys2Proof.Machine
end

section
/-! DRIVE-STATE in UNHOMED (O17) and the requests that change a carousel's mode (O47, O48): R50 to R53, R147. -/

namespace Sys2Proof.Machine

/-! ## Frames for the drive (R50, R52) -/

section Drive

variable (s : State) (c : Nat) (p : Profile) (profile : (s.car c).profile = some p)
include profile

theorem sendStop_builds : s.Builds p.drive kindStop [] (s.sendStop c) := by
  unfold State.sendStop
  rw [profile]
  exact build_builds s p.drive kindStop []

/-- A STATUS-QUERY is built in the FIFO alone; it notes no follow-up. -/
theorem sendStatusQuery_builds :
    s.Builds p.drive kindStatusQuery [] (s.sendStatusQuery c) ∧ (s.sendStatusQuery c).notes = s.notes := by
  unfold State.sendStatusQuery
  rw [profile]
  exact ⟨build_builds s p.drive kindStatusQuery [], s.build_notes _ _ _ _⟩

/-! ## Homing (R52, R53) -/

theorem driveState_unhomed (reported : Nat) (d : DriveCondition) (state : (s.car c).state = .unhomed) :
    s.driveState c d reported = s.homing c p d reported := by
  unfold State.driveState
  dsimp only
  rw [profile, state]

end Drive

/-- Settles O17: each report of an UNHOMED carousel is one branch of `State.homing`. -/
theorem homingReports : Obligations.HomingReports := by
  intro s c reported p bounded c8 state profile
  have len : c < s.carousels.length := by rwa [bounded.eight.1]
  have homes := driveState_unhomed s c p profile reported
  refine ⟨fun known => ?_, fun unknown => ?_, ?_, ?_⟩
  · intro t
    have is : t = _ := (homes .stopped state).trans (if_pos known)
    rw [is, notePoint_frame]
    exact ⟨(State.car_modCar ..).trans (if_pos ⟨rfl, len⟩), rfl, rfl, rfl, rfl, rfl,
      fun d other => (State.car_modCar ..).trans (if_neg fun e => other e.1.symm)⟩
  · exact (homes .stopped state).trans (if_neg (not_lt.2 unknown))
  · rw [homes .turning state]
    exact sendStop_builds s c p profile
  · intro t
    have is : t = _ := (homes .fault state).trans (enterDriveFault_eq s c .drive)
    rw [is]
    exact ⟨(State.car_modCar ..).trans (if_pos ⟨rfl, len⟩), rfl, rfl, rfl⟩

/-! ## ONLINE (R50) -/

/-- The tests of ONLINE, in their order. -/
theorem onlineRefusal_cases (s : State) (c : Nat) :
    let b := s.bal c
    ((s.car c).profile = none → s.onlineRefusal c = some .wrongState) ∧
    ((s.car c).profile ≠ none → b.enabledGrades = [] → s.onlineRefusal c = some .wrongState) ∧
    ((s.car c).profile ≠ none → b.enabledGrades ≠ [] → b.fault = true ∨ b.admits b.worst b.total = false →
      s.onlineRefusal c = some .balance) ∧
    ((s.car c).profile ≠ none → b.enabledGrades ≠ [] → b.fault = false → b.admits b.worst b.total = true →
      s.onlineRefusal c = if s.hasClaim c then some .inUse else none) := by
  intro b
  unfold State.onlineRefusal
  dsimp only
  refine ⟨fun bare => ?_, fun profile none_enabled => ?_, fun profile enabled unsound => ?_,
    fun profile enabled sound admitted => ?_⟩
  · rw [if_pos (by rw [bare]; rfl)]
  · rw [if_neg (by simpa using profile), if_pos (by simpa using none_enabled)]
  · rw [if_neg (by simpa using profile), if_neg (by simpa using enabled), if_pos (by simpa using unsound)]
  · rw [if_neg (by simpa using profile), if_neg (by simpa using enabled), if_neg (by simpa [b] using ⟨sound, admitted⟩)]

section Online

variable (s : State) (c : Nat)

theorem online_outside (out : 8 ≤ c) : s.online c = (s, .refused .badValue) :=
  if_pos out

variable (c8 : c < 8)
include c8

section Away

variable (away : (s.car c).state = .offline ∨ (s.car c).state = .manual ∨ (s.car c).state = .driveFault)
include away

theorem online_refused (r : Reason) (refused : s.onlineRefusal c = some r) : s.online c = (s, .refused r) := by
  unfold State.online
  rw [if_neg (not_le.2 c8)]
  rcases away with state | state | state <;> rw [state, refused] <;> rfl

theorem online_accepted (accepted : s.onlineRefusal c = none) : s.online c =
    (State.sendStatusQuery { s with carousels := s.carousels.set c { s.car c with state := .unhomed, index := none } } c,
      .done []) := by
  have record : s.modCar c (fun k => { k with state := .unhomed, index := none }) =
      { s with carousels := s.carousels.set c { s.car c with state := .unhomed, index := none } } := by
    rw [State.modCar, modify_eq_set_getD _ _ _ {}]
    rfl
  unfold State.online
  rw [if_neg (not_le.2 c8), ← record]
  rcases away with state | state | state <;> rw [state, accepted]

end Away

theorem online_unhomed (state : (s.car c).state = .unhomed) : s.online c = (s.sendStatusQuery c, .done []) := by
  unfold State.online
  rw [if_neg (not_le.2 c8), state]

theorem online_serving (state : (s.car c).state = .ready ∨ (s.car c).state = .moving ∨ (s.car c).state = .presenting) :
    s.online c = (s, .done []) := by
  unfold State.online
  rw [if_neg (not_le.2 c8)]
  rcases state with state | state | state <;> rw [state]

end Online

/-- Settles O47: the request is refused by its first failing test, or its query is built; it has no follow-ups. -/
theorem onlineIsTested : Obligations.OnlineIsTested := by
  intro s f c q bounded asked refused away b asks
  have row : exec .carouselModeOnline s = .next (s.serve f fun s => s.online c) := congrArg _ (onRequest_asked asked rfl)
  have refuses : ∀ r, s.takeRequest.online c = (s.takeRequest, .refused r) → refused r := fun r h =>
    row.trans (congrArg _ (serve_refused q f h))
  have answers : ∀ v : State, v.quiet → s.takeRequest.online c = (v, .done []) →
      exec .carouselModeOnline s = .next (v.answer f (.done [])) := fun v quiet h => by
    rw [row, serve_done f h, State.settle_of_quiet v quiet]
  have queries : ∀ (u : State) (p : Profile), u.notes = s.notes → (u.car c).profile = some p →
      s.takeRequest.online c = (u.sendStatusQuery c, .done []) → asks u p.drive := fun u p same profile h => by
    obtain ⟨builds, notes⟩ := sendStatusQuery_builds u c p profile
    exact ⟨_, answers _ (State.quiet_of_notes q (notes.trans same)) h, builds⟩
  obtain ⟨no_profile, no_grade, unadmitted, tested⟩ := onlineRefusal_cases s.takeRequest c
  refine ⟨fun out => ?_, fun c8 h bare => ?_, fun c8 h profile none_enabled => ?_, fun c8 h profile enabled unsound => ?_,
    fun c8 h profile enabled sound admitted claim => ?_, fun p c8 h profile enabled sound admitted claim => ?_,
    fun p c8 state profile => ?_, fun c8 state => ?_⟩
  · exact refuses _ (online_outside _ c out)
  · exact refuses _ (online_refused s.takeRequest c c8 h _ (no_profile bare))
  · exact refuses _ (online_refused s.takeRequest c c8 h _ (no_grade profile none_enabled))
  · exact refuses _ (online_refused s.takeRequest c c8 h _ (unadmitted profile enabled unsound))
  · exact refuses _ (online_refused s.takeRequest c c8 h _ ((tested profile enabled sound admitted).trans (if_pos claim)))
  · have loaded : (s.car c).profile ≠ none := by rw [profile]; exact Option.some_ne_none p
    have unclaimed : ¬s.takeRequest.hasClaim c = true := (Bool.not_eq_true _).mpr claim
    have accepted := (tested loaded enabled sound admitted).trans (if_neg unclaimed)
    have len : c < s.carousels.length := by rwa [bounded.eight.1]
    have record : (State.car { s.takeRequest with
        carousels := s.carousels.set c { s.car c with state := .unhomed, index := none } } c).profile = some p := by
      simpa [State.car, len] using profile
    exact queries _ p rfl record (online_accepted _ c c8 h accepted)
  · exact queries s.takeRequest p rfl profile (online_unhomed _ c c8 state)
  · exact answers _ (takeRequest_quiet q) (online_serving _ c c8 state)

/-! ## OFFLINE and MANUAL (R51) -/

theorem targeted_iff (s : State) (c : Nat) : s.targeted c = true ↔ ∃ id t, s.task id = some t ∧ t.bay.carousel = c := by
  unfold State.targeted State.task
  rw [List.any_eq_true]
  constructor
  · rintro ⟨x, listed, targets⟩
    obtain ⟨id, lt, rfl⟩ := List.getElem_of_mem listed
    split at targets
    · next t there => exact ⟨id, t, by rw [List.getD_eq_getElem _ _ lt, there], by simpa using targets⟩
    · cases targets
  · rintro ⟨id, t, there, targets⟩
    by_cases lt : id < s.orderUnit.pool.length
    · rw [List.getD_eq_getElem _ _ lt] at there
      exact ⟨some t, there ▸ List.getElem_mem lt, by simpa using targets⟩
    · rw [List.getD_eq_default _ _ (not_lt.1 lt)] at there
      cases there

theorem modeInUse_iff (s : State) (c : Nat) : s.modeInUse c = true ↔
    (∃ id t, s.task id = some t ∧ t.bay.carousel = c) ∨ (s.car c).inService = some .step ∨ s.hasClaim c = true := by
  unfold State.modeInUse
  rw [Bool.or_eq_true, Bool.or_eq_true, targeted_iff, decide_eq_true_eq, or_assoc]

/-- The end of a sweep that runs: AUDIT-DONE, the save area and the sweep record cleared (R147). -/
theorem endSweep_some (s : State) (c : Nat) (cause : SweepCause) (w : SweepContext) (sweep : (s.car c).sweep = some w) :
    s.endSweep c cause = { (s.notify (.auditDone c w.number (s.sweepRecord c).origin cause w.done w.mismatches)).modCar c
        (fun k => { k with sweep := none }) with
      audit := { s.audit with sweeps := s.audit.sweeps.set c { s.sweepRecord c with
        stopMark := false, readAttempt := 0, readTimer := none } } } := by
  unfold State.endSweep
  rw [sweep]
  dsimp only
  rw [notify_frame]
  unfold State.modSweepRecord State.modCar
  dsimp only
  rw [modify_eq_set_getD s.audit.sweeps _ _ {}]
  rfl

section TakeOut

variable (s : State) (c : Nat) (state : CarouselState)

theorem takeOut_outside (out : 8 ≤ c) : s.takeOut c state = (s, .refused .badValue) :=
  if_pos out

variable (c8 : c < 8)
include c8

theorem takeOut_inUse (inUse : s.modeInUse c = true) : s.takeOut c state = (s, .refused .inUse) :=
  (if_neg (not_le.2 c8)).trans (if_pos inUse)

variable (free : ¬s.modeInUse c = true)
include free

theorem takeOut_same (same : (s.car c).state = state) : s.takeOut c state = (s, .done []) :=
  (if_neg (not_le.2 c8)).trans ((if_neg free).trans (if_pos same))

theorem takeOut_leaves (other : (s.car c).state ≠ state) : s.takeOut c state =
    ((s.endSweep c .mode).modCar c fun k => { k with
      state, index := if state = .manual then k.index else none, faultPending := false }, .done []) :=
  (if_neg (not_le.2 c8)).trans ((if_neg free).trans (if_neg other))

theorem takeOut_no_sweep (other : (s.car c).state ≠ state) (bare : (s.car c).sweep = none) : s.takeOut c state =
    ({ s with carousels := s.carousels.set c { s.car c with
      state, index := if state = .manual then (s.car c).index else none, faultPending := false } }, .done []) := by
  have ended : s.endSweep c .mode = s := by
    unfold State.endSweep
    rw [bare]
  rw [takeOut_leaves s c state c8 free other, ended, State.modCar, modify_eq_set_getD _ _ _ {}]
  rfl

theorem takeOut_sweep (w : SweepContext) (other : (s.car c).state ≠ state) (sweep : (s.car c).sweep = some w) :
    s.takeOut c state =
      ({ s.notify (.auditDone c w.number (s.sweepRecord c).origin .mode w.done w.mismatches) with
        carousels := s.carousels.set c { s.car c with
          state, index := if state = .manual then (s.car c).index else none, faultPending := false, sweep := none }
        audit := { s.audit with sweeps := s.audit.sweeps.set c { s.sweepRecord c with
          stopMark := false, readAttempt := 0, readTimer := none } } }, .done []) := by
  rw [takeOut_leaves s c state c8 free other, endSweep_some s c .mode w sweep, notify_frame]
  unfold State.modCar
  dsimp only
  rw [List.modify_modify_eq, modify_eq_set_getD _ _ _ {}]
  rfl

end TakeOut

/-- Settles O48: the tests of `State.takeOut` in order, then the sweep's end and the record written; no follow-ups. -/
theorem modesTakeOutOfService : Obligations.ModesTakeOutOfService := by
  intro s f c mode state i q bounded which asked inUse index
  have row : exec i s = .next (s.serve f fun s => s.takeOut c state) := by
    rcases which with ⟨rfl, rfl, rfl⟩ | ⟨rfl, rfl, rfl⟩
    · exact congrArg Host.Outcome.next (onRequest_asked asked rfl)
    · exact congrArg Host.Outcome.next (onRequest_asked asked rfl)
  have kept : (if state = .manual then (s.car c).index else none) = index := by
    rcases which with ⟨rfl, rfl, _⟩ | ⟨rfl, rfl, _⟩ <;> rfl
  have refuses : ∀ r, s.takeRequest.takeOut c state = (s.takeRequest, .refused r) →
      exec i s = .next (s.takeRequest.answer f (.refused r)) := fun r h => row.trans (congrArg _ (serve_refused q f h))
  have answers : ∀ v : State, v.quiet → s.takeRequest.takeOut c state = (v, .done []) →
      exec i s = .next (v.answer f (.done [])) := fun v quiet h => by
    rw [row, serve_done f h, State.settle_of_quiet v quiet]
  have used : s.takeRequest.modeInUse c = true ↔ inUse := modeInUse_iff s c
  refine ⟨fun out => ?_, fun c8 busy => ?_, fun c8 free same => ?_, fun c8 free other bare => ?_,
    fun w c8 free other sweep => ?_⟩
  · exact refuses _ (takeOut_outside _ c state out)
  · exact refuses _ (takeOut_inUse _ c state c8 (used.2 busy))
  · exact answers _ (takeRequest_quiet q) (takeOut_same _ c state c8 (mt used.1 free) same)
  · refine answers _ (takeRequest_quiet q) ?_
    rw [← kept]
    exact takeOut_no_sweep _ c state c8 (mt used.1 free) other bare
  · intro u
    have quiet : u.quiet := State.quiet_of_notes q (State.notify_notes ..)
    refine answers _ quiet ?_
    rw [← kept]
    exact takeOut_sweep _ c state c8 (mt used.1 free) w other sweep

end Sys2Proof.Machine
end

section
/-! An age timer expiry (O21): a PUT task is promoted to level 2 (R56, R57). -/

namespace Sys2Proof.Machine

section Age

variable (s : State) (id : Nat) (k : Task) (task : s.task id = some k)
include task

theorem ageOut_stopped (stopped : ∀ e, k.age ≠ .running e) : s.ageOut id = s := by
  unfold State.ageOut
  rw [task]
  dsimp only
  split
  · next e runs => exact absurd runs (stopped e)
  · rfl

section Runs

variable (e : Nat) (runs : k.age = .running e)
include runs

theorem ageOut_elsewhere (elsewhere : id ∉ (s.car k.bay.carousel).queue1) :
    s.ageOut id = s.modTask id fun t => { t with level := 2, age := .expired } := by
  unfold State.ageOut
  rw [task]
  dsimp only
  rw [runs]
  exact if_neg fun h => elsewhere (by simpa using h.1)

/-- A task waiting on the level 1 queue joins the tail of the level 2 queue; for a QUEUED one that is a service point. -/
theorem ageOut_waiting (there : id ∈ (s.car k.bay.carousel).queue1) (state : k.state = .queued ∨ k.state = .balanceWait) :
    let c := k.bay.carousel
    let u := { s.modTask id (fun t => { t with level := 2, age := .expired }) with
      carousels := s.carousels.set c { s.car c with
        queue3 := (s.car c).queue3.filter (· != id)
        queue2 := (s.car c).queue2.filter (· != id) ++ [id]
        queue1 := (s.car c).queue1.filter (· != id)
        queue0 := (s.car c).queue0.filter (· != id) } }
    s.ageOut id = if k.state = .queued then u.notePoint c else u := by
  intro c u
  have record : (s.modTask id fun t => { t with level := 2, age := .expired }).modCar c (fun x =>
      { x.unqueue id with queue2 := x.queue2.filter (· != id) ++ [id] }) = u := by
    unfold State.modCar
    rw [modify_eq_set_getD _ _ _ {}]
    rfl
  unfold State.ageOut
  rw [task]
  dsimp only
  rw [runs]
  exact (if_pos ⟨by simpa using there, state⟩).trans (by rw [record])

end Runs

end Age

/-- Settles O21: the expiry changes the task's record and, for a task waiting on level 1, the queues of its carousel; the one
follow-up is that carousel's service point. -/
theorem ageExpiry : Obligations.AgeExpiry := by
  intro s id k bounded q id128 task c u
  have row : exec (.ageTimerExpiry id) s = .next (s.ageOut id).settle := if_pos id128
  refine ⟨fun stopped => ?_, fun e runs => ⟨fun elsewhere => ?_, fun c8 there state => ?_⟩⟩
  · rw [row, ageOut_stopped s id k task stopped, State.settle_of_quiet s q]
  · rw [row, ageOut_elsewhere s id k task e runs elsewhere, State.settle_of_quiet u q]
  have len : c < s.carousels.length := by rwa [bounded.eight.1]
  have aged := ageOut_waiting s id k task e runs there state
  dsimp only at aged
  generalize moved : ({ u with carousels := s.carousels.set c { s.car c with
    queue3 := (s.car c).queue3.filter (· != id)
    queue2 := (s.car c).queue2.filter (· != id) ++ [id]
    queue1 := (s.car c).queue1.filter (· != id)
    queue0 := (s.car c).queue0.filter (· != id) } } : State) = v at aged ⊢
  have car : v.car c = { s.car c with
      queue3 := (s.car c).queue3.filter (· != id)
      queue2 := (s.car c).queue2.filter (· != id) ++ [id]
      queue1 := (s.car c).queue1.filter (· != id)
      queue0 := (s.car c).queue0.filter (· != id) } := by
    rw [← moved]
    simp [State.car, len]
  have quiet : v.quiet := moved ▸ q
  rw [row, aged]
  refine ⟨_, rfl, ?_, fun busy => ?_⟩
  · split
    · exact State.Follows.trans (by rw [notePoint_frame]; exact State.keeps_agenda _ _ _) (State.settle_follows _)
    · exact State.settle_follows v
  · have idle : v.idleReady c = false := by
      rw [← busy]
      unfold State.idleReady
      rw [car]
    have same : (if k.state = .queued then v.notePoint c else v).settle.car c = v.car c := by
      split
      · rw [settle_of_idle (v.notePoint c), notePoint_frame]
        · rfl
        · rw [notePoint_freed, quiet.1]
        · rw [notePoint_frame]
          exact quiet.2
        · intro d noted
          obtain ⟨_, _, points⟩ := (State.Reviewed.notePoint (c := c) v).notes
          have here : d = c := (points d noted).resolve_left (by rw [quiet.1]; exact List.not_mem_nil)
          rw [here, notePoint_frame]
          exact idle
      · rw [State.settle_of_quiet v quiet]
    rw [same, car]
    exact ⟨rfl, rfl⟩

end Sys2Proof.Machine
end

section
/-! What the end of a task settles (R54): its transit entries, its bay's record, its group and the retry it notes. -/

namespace Sys2Proof.Machine

/-! ## Records read back -/

theorem task_lt (s : State) (id : Nat) (k : Task) (task : s.task id = some k) : id < s.orderUnit.pool.length := by
  by_contra out
  rw [State.task, List.getD_eq_default _ _ (not_lt.1 out)] at task
  cases task

/-- A bay's record is read with its carousel's profile (R2). -/
theorem bay_congr {s t : State} (bays : t.bays = s.bays) (profiles : ∀ d, (t.car d).profile = (s.car d).profile) (j : BayId) :
    t.bay j = s.bay j := by
  unfold State.bay State.position State.baysPerCarrier State.baysOf
  rw [bays, profiles]

theorem noteRetry_all (s : State) : (s.noteRetry .all).orderUnit.retry = .all := by
  show s.orderUnit.retry.join .all = .all
  cases s.orderUnit.retry <;> rfl

/-- RESERVE-RELEASE lowers reserved by the remainder, which may be 0 (R10). -/
theorem reserveRelease_bays (s : State) (id : BayId) (n : Nat) :
    (s.reserveRelease id n).bays = (s.modBay id fun b => { b with reserved := b.reserved - n }).bays := by
  unfold State.reserveRelease
  split
  · next none_left => rw [modBay_eq_self s id _ (by rw [none_left]; rfl)]
  · rfl

theorem reserveRelease_orders (s : State) (id : BayId) (n : Nat) :
    (s.reserveRelease id n).orderUnit.orders = s.orderUnit.orders := by
  unfold State.reserveRelease
  split <;> rfl

/-! ## The group of a PICK (R104) -/

theorem order_modGroup (s : State) (r : GroupRef) (f : Group → Group) (o : Order) (order : s.order r.order = some o) :
    ∃ o', (s.modGroup r f).order r.order = some o' ∧ o'.state = o.state := by
  unfold State.modGroup
  rw [order_modOrder, order]
  · exact ⟨_, rfl, rfl⟩
  · exact fun _ => rfl

/-- Need given back to a group of an order that is not WITHDRAWN; a group with need is on the pending list. -/
theorem returnNeed_group (s : State) (r : GroupRef) (n : Nat) (o : Order) (g : Group) (order : s.order r.order = some o)
    (live : o.state ≠ .withdrawn) (group : s.group r = some g) :
    (s.returnNeed r n).group r = some { g with need := g.need + n } ∧
      (0 < n → r ∈ (s.returnNeed r n).orderUnit.pending) := by
  have raised : (s.modGroup r fun g => { g with need := g.need + n }).group r = some { g with need := g.need + n } := by
    rw [group_modGroup, group]
    · rfl
    · exact fun _ => rfl
  unfold State.returnNeed
  rw [order]
  dsimp only
  rw [if_neg live, raised]
  dsimp only
  split
  · next stays =>
    refine ⟨raised, fun pos => ?_⟩
    have listed := stays.resolve_left (by omega)
    exact List.contains_iff_mem.1 listed
  · next joins =>
    have new := fun h => joins (.inr h)
    unfold State.joinPending
    rw [if_neg new]
    exact ⟨raised, fun _ => (insertByKey_mem ..).2 (.inr rfl)⟩

/-- A PICK that ends leaves its group's list, and its remainder is need of the group again (Table 5-5). -/
theorem leaveGroup_group (s : State) (id : Nat) (k : Task) (o : Order) (g : Group) (kept : k.withdrawn = false)
    (order : s.order k.order = some o) (live : o.state ≠ .withdrawn) (group : s.group k.ref = some g) :
    (s.leaveGroup id k).group k.ref = some { g with
        need := g.need + (k.quantity - k.taken), tasks := g.tasks.filter (· != id) } ∧
      (k.taken < k.quantity → k.ref ∈ (s.leaveGroup id k).orderUnit.pending) := by
  have left : s.leaveGroup id k =
      (s.modGroup k.ref fun g => { g with tasks := g.tasks.filter (· != id) }).returnNeed k.ref (k.quantity - k.taken) := by
    unfold State.leaveGroup
    rw [order]
    dsimp only
    rw [if_neg (by rw [kept]; exact Bool.false_ne_true), if_neg live]
  have group' : (s.modGroup k.ref fun g => { g with tasks := g.tasks.filter (· != id) }).group k.ref =
      some { g with tasks := g.tasks.filter (· != id) } := by
    rw [group_modGroup, group]
    · rfl
    · exact fun _ => rfl
  obtain ⟨o', order', same⟩ := order_modGroup s k.ref (fun g => { g with tasks := g.tasks.filter (· != id) }) o order
  obtain ⟨need, pending⟩ := returnNeed_group _ k.ref (k.quantity - k.taken) o' _ order' (same ▸ live) group'
  rw [left]
  exact ⟨need, fun more => pending (by omega)⟩

/-! ## The end of a task (R54) -/

section EndTask

variable (s : State) (id : Nat) (k : Task) (task : s.task id = some k)
include task

theorem endTask_pick (pick : k.kind = .pick) : s.endTask id =
    (((((s.giveBack k.transit).reserveRelease k.bay (k.quantity - k.taken)).leaveGroup id k).setTask id none).noteRetry
      .all) := by
  unfold State.endTask
  rw [task]
  dsimp only
  rw [pick]
  rfl

theorem endTask_put (put : k.kind = .put) : s.endTask id =
    (((if k.taken = 0 then (s.giveBack k.transit).incomingRelease k.bay else s.giveBack k.transit).setTask id none).noteRetry
      .all) := by
  unfold State.endTask
  rw [task]
  dsimp only
  rw [put]
  rfl

/-- The entries it holds are given back, and its return is a retry event. -/
theorem endTask_gives_back : (s.endTask id).consolidation.reserved = s.consolidation.reserved - k.transit ∧
    (s.endTask id).orderUnit.retry = .all := by
  have given : (s.giveBack k.transit).consolidation.reserved = s.consolidation.reserved - k.transit := by
    rw [giveBack_eq]
  cases kind : k.kind with
  | pick =>
    rw [endTask_pick s id k task kind]
    refine ⟨?_, noteRetry_all _⟩
    obtain ⟨_, left, _⟩ := leaveGroup_ended ((s.giveBack k.transit).reserveRelease k.bay (k.quantity - k.taken)) id k
    obtain ⟨⟨_, released, _⟩, _⟩ := reserveRelease_frame (s.giveBack k.transit) k.bay (k.quantity - k.taken)
    rw [left, released]
    exact given
  | put =>
    rw [endTask_put s id k task kind]
    refine ⟨?_, noteRetry_all _⟩
    split <;> exact given

/-- The remainder of a PICK leaves its bay. -/
theorem endTask_bay_pick (pick : k.kind = .pick) (j : BayId) : (s.endTask id).bay j =
    (s.modBay k.bay fun b => { b with reserved := b.reserved - (k.quantity - k.taken) }).bay j := by
  refine bay_congr ?_ (fun d => by unfold State.car; rw [(endTask_ended s id true).carousels]; rfl) j
  rw [endTask_pick s id k task pick]
  obtain ⟨_, left, _⟩ := leaveGroup_ended ((s.giveBack k.transit).reserveRelease k.bay (k.quantity - k.taken)) id k
  rw [left]
  show (State.reserveRelease ..).bays = _
  rw [reserveRelease_bays, giveBack_eq]
  rfl

/-- The tyre of a PUT not yet taken is awaited no longer. -/
theorem endTask_bay_put (put : k.kind = .put) (none_taken : k.taken = 0) (j : BayId) : (s.endTask id).bay j =
    (s.modBay k.bay fun b => { b with incoming := b.incoming - 1 }.tidy).bay j := by
  refine bay_congr ?_ (fun d => by unfold State.car; rw [(endTask_ended s id true).carousels]; rfl) j
  rw [endTask_put s id k task put, if_pos none_taken, giveBack_eq]
  rfl

/-- The remainder of a PICK of an order not WITHDRAWN is need of its group again. -/
theorem endTask_group (o : Order) (g : Group) (pick : k.kind = .pick) (kept : k.withdrawn = false)
    (order : s.order k.order = some o) (live : o.state ≠ .withdrawn) (group : s.group k.ref = some g) :
    (s.endTask id).group k.ref = some { g with
        need := g.need + (k.quantity - k.taken), tasks := g.tasks.filter (· != id) } ∧
      (k.taken < k.quantity → k.ref ∈ (s.endTask id).orderUnit.pending) := by
  have orders : ((s.giveBack k.transit).reserveRelease k.bay (k.quantity - k.taken)).orderUnit.orders =
      s.orderUnit.orders := by
    rw [reserveRelease_orders, giveBack_eq]
  rw [endTask_pick s id k task pick]
  generalize (s.giveBack k.transit).reserveRelease k.bay (k.quantity - k.taken) = v at orders ⊢
  have same_order : v.order k.order = some o := by
    rw [State.order, orders]
    exact order
  have same_group : v.group k.ref = some g := by
    rw [State.group, State.order, orders]
    exact group
  exact leaveGroup_group v id k o g kept same_order live same_group

end EndTask

end Sys2Proof.Machine
end

section
/-! Tasks that stall, TASK-REPRESENT and TASK-ABANDON (O59): R66, R87 to R89, R121 to R124. -/

namespace Sys2Proof.Machine

/-! ## Reading after the follow-ups and after a notice -/

/-- A carousel record is its level queues and the rest. -/
theorem eq_of_unqueued {k k' : Carousel} (h : k.unqueued = k'.unqueued) :
    k = { k' with queue3 := k.queue3, queue2 := k.queue2, queue1 := k.queue1, queue0 := k.queue0 } := by
  cases k
  cases k'
  simp only [Carousel.unqueued, Carousel.mk.injEq] at h ⊢
  tauto

theorem modCar_modCar (s : State) (c : Nat) (f g : Carousel → Carousel) :
    (s.modCar c f).modCar c g = s.modCar c fun k => g (f k) := by
  unfold State.modCar
  dsimp only
  rw [List.modify_modify_eq]
  rfl

theorem modCar_congr (s : State) (c : Nat) (f g : Carousel → Carousel) (same : f (s.car c) = g (s.car c)) :
    s.modCar c f = s.modCar c g := by
  unfold State.modCar
  rw [modify_eq_set_getD _ _ f {}, modify_eq_set_getD _ _ g {}]
  exact congrArg (fun x => { s with carousels := s.carousels.set c x }) same

theorem modTask_modTask (s : State) (id : Nat) (f g : Task → Task) :
    (s.modTask id f).modTask id g = s.modTask id fun k => g (f k) := by
  have twice : ((fun x => Option.map g x) ∘ fun x => Option.map f x) = fun x => Option.map (fun k => g (f k)) x := by
    funext x
    exact Option.map_map g f x
  unfold State.modTask
  dsimp only
  rw [List.modify_modify_eq, twice]

/-- A carousel that takes no service points keeps its record but for the level queues. -/
theorem settle_car_busy (v : State) (c : Nat) (busy : v.idleReady c = false) : v.settle.car c = { v.car c with
    queue3 := (v.settle.car c).queue3, queue2 := (v.settle.car c).queue2, queue1 := (v.settle.car c).queue1
    queue0 := (v.settle.car c).queue0 } :=
  eq_of_unqueued (v.settle_follows.busy c busy)

/-- A notice after a change of other blocks reaches the link port as it would have before. -/
theorem notify_eq (s v : State) (n : Notice) (same : v.link = s.link) :
    v.notify n = { v with link := (s.notify n).link } := by
  rw [notify_frame, notify_link_congr v s n same]

theorem notify_tx_prefix (s : State) (n : Notice) : s.link.tx <+: (s.notify n).link.tx := by
  unfold State.notify State.queueLink
  repeat' split
  all_goals first | exact List.prefix_rfl | exact List.prefix_append ..

/-! ## The end of a presentation (R66) -/

/-- The carousel record after the end of a presentation. -/
def Carousel.presented (k : Carousel) : Carousel :=
  { k with
    state := if k.faultPending then .driveFault else .ready
    inService := none, presentationTimer := none, faultPending := false }

/-- The end of a presentation changes that record, with a CAROUSEL-FAULT notice or a service point noted. -/
theorem presentationEnd_eq (w : State) (c : Nat) : ∃ (l : LinkPort) (agenda : Agenda),
    w.presentationEnd c = { w.modCar c Carousel.presented with link := l, agenda } ∧ w.link.tx <+: l.tx := by
  unfold State.presentationEnd
  dsimp only
  split
  · next fault =>
    have record : ((w.modCar c fun k => { k with presentationTimer := none, inService := none }).modCar c fun k =>
        { k with faultPending := false }).modCar c (fun k => { k with state := .driveFault }) =
        w.modCar c Carousel.presented := by
      rw [modCar_modCar, modCar_modCar]
      exact modCar_congr w c _ _ (by simp [Carousel.presented, fault])
    rw [enterDriveFault_eq, record]
    exact ⟨_, w.agenda, rfl, notify_tx_prefix ((w.modCar c fun k => { k with presentationTimer := none, inService := none }).modCar
      c fun k => { k with faultPending := false }) _⟩
  · next sound =>
    have record : (w.modCar c fun k => { k with presentationTimer := none, inService := none }).modCar c
        (fun k => { k with state := .ready }) = w.modCar c Carousel.presented := by
      rw [modCar_modCar]
      exact modCar_congr w c _ _ (by simp [Carousel.presented, sound])
    rw [notePoint_frame, record]
    exact ⟨w.link, _, rfl, List.prefix_rfl⟩

theorem presentationEnd_shelved (w : State) (c : Nat) : w.Shelved (w.presentationEnd c) := by
  obtain ⟨l, agenda, ended, _⟩ := presentationEnd_eq w c
  have record : w.Shelved (w.modCar c Carousel.presented) := .modCar w c _ fun _ => rfl
  rw [ended]
  exact { record with }

/-! ## Parking (R66, R87, R121) -/

theorem presentationTimeout_stopped (s : State) (c : Nat) (stopped : (s.car c).presentationTimer = none) :
    s.presentationTimeout c = s := by
  unfold State.presentationTimeout
  rw [stopped]
  split
  · next no _ => cases no
  · rfl

theorem presentationTimeout_runs (s : State) (c id : Nat) (state : (s.car c).state = .presenting)
    (runs : (s.car c).presentationTimer ≠ none) (serving : (s.car c).inService = some (.task id)) :
    s.presentationTimeout c = s.park c id := by
  obtain ⟨e, runs⟩ := Option.ne_none_iff_exists'.1 runs
  unfold State.presentationTimeout
  rw [state, runs, serving]

/-- The part once a task is parked, before what that reports is taken. -/
def State.parked (s : State) (c id : Nat) (k : Task) : State :=
  (((s.taskState id .stalled).giveBackTask id).modCar c fun x => { x with
    parked := x.parked ++ [id], inService := none }).notify (.taskStalled id k.kind k.bay k.quantity k.taken)

theorem parked_shelved (s : State) (c id : Nat) (k : Task) : s.Shelved (s.parked c id k) := by
  refine State.Shelved.trans ?_ (.notify _ _)
  refine State.Shelved.trans ?_ (.modCar _ c _ fun _ => rfl)
  exact (State.Shelved.taskState s id .stalled).trans (.giveBackTask _ id)

section Park

variable (s : State) (c id : Nat) (k : Task) (task : s.task id = some k)
include task

theorem park_eq : s.park c id = (s.parked c id k).settle.presentationEnd c := by
  unfold State.park
  rw [task]
  rfl

theorem giveBackTask_eq : s.giveBackTask id = (s.modTask id fun t => { t with transit := 0 }).giveBack k.transit := by
  unfold State.giveBackTask
  rw [task]

/-- Parking writes the task's record and the carousel's, gives the task's entries back and sends TASK-STALLED. -/
theorem parked_eq : s.parked c id k =
    { (s.modTask id fun t => { t with state := .stalled, transit := 0 }).modCar c (fun x => { x with
        parked := x.parked ++ [id], inService := none }) with
      consolidation := { s.consolidation with reserved := s.consolidation.reserved - k.transit }
      link := (s.notify (.taskStalled id k.kind k.bay k.quantity k.taken)).link
      agenda := { s.agenda with freed := s.agenda.freed || decide (k.transit ≠ 0) } } := by
  have stalled : (s.taskState id .stalled).task id = some { k with state := .stalled } :=
    (State.task_modTask ..).trans ((if_pos rfl).trans (congrArg _ task))
  have twice : (s.taskState id .stalled).modTask id (fun t => { t with transit := 0 }) =
      s.modTask id fun t => { t with state := .stalled, transit := 0 } := modTask_modTask ..
  unfold State.parked
  rw [giveBackTask_eq _ id _ stalled, twice, giveBack_eq, notify_eq s]
  · rfl
  · rfl

/-- A task that is parked stays as it is, and so does its carousel but for the level queues, until the presentation ends. -/
theorem park_spec (len : c < s.carousels.length) (presenting : (s.car c).state = .presenting) :
    let u := (s.parked c id k).settle.presentationEnd c
    u.task id = some { k with state := .stalled, transit := 0 } ∧
      (s.parked c id k).consolidation.reserved = s.consolidation.reserved - k.transit ∧
      u.car c = { s.car c with
        state := if (s.car c).faultPending then .driveFault else .ready
        parked := (s.car c).parked ++ [id]
        inService := none, presentationTimer := none, faultPending := false
        queue3 := (u.car c).queue3, queue2 := (u.car c).queue2, queue1 := (u.car c).queue1
        queue0 := (u.car c).queue0 } ∧
      (s.notify (.taskStalled id k.kind k.bay k.quantity k.taken)).link.tx <+: u.link.tx ∧
      u.balances = s.balances ∧ u.articles = s.articles ∧ u.audit.list = s.audit.list ∧
      u.bays.map (List.map Bay.shelf) = s.bays.map (List.map Bay.shelf) ∧ u.pending = s.pending := by
  have parked := parked_eq s c id k task
  have shelved := ((parked_shelved s c id k).trans (State.Shelved.settle _)).trans (presentationEnd_shelved _ c)
  generalize s.parked c id k = v at parked shelved ⊢
  have stalled : v.task id = some { k with state := .stalled, transit := 0 } := by
    rw [parked]
    exact (State.task_modTask ..).trans ((if_pos rfl).trans (congrArg _ task))
  have car : v.car c = { s.car c with parked := (s.car c).parked ++ [id], inService := none } := by
    rw [parked]
    exact (State.car_modCar ..).trans (if_pos ⟨rfl, len⟩)
  have busy : v.idleReady c = false := by
    unfold State.idleReady
    rw [car, presenting]
    rfl
  have kept : v.Follows v.settle := v.settle_follows
  have rest := settle_car_busy v c busy
  have same := State.settle_task v id _ stalled nofun
  have len' : c < v.settle.carousels.length := by
    rw [keeps_len kept, parked]
    exact (List.length_modify ..).symm ▸ len
  obtain ⟨l, agenda, ended, tx⟩ := presentationEnd_eq v.settle c
  generalize v.settle = w at shelved kept rest same len' ended tx ⊢
  have last : (w.presentationEnd c).car c = (w.car c).presented := by
    rw [ended]
    exact (State.car_modCar ..).trans (if_pos ⟨rfl, len'⟩)
  refine ⟨?_, ?_, ?_, ?_, ?_, ?_, ?_, ?_, ?_⟩
  · rw [ended]
    exact same
  · rw [parked]
  · rw [last, rest, car]
    rfl
  · rw [ended]
    refine List.IsPrefix.trans ?_ tx
    rw [kept.link, parked]
  · exact shelved.balances
  · exact shelved.articles
  · exact shelved.list
  · exact shelved.bays
  · rw [ended]
    refine kept.pending.trans ?_
    rw [parked]
    rfl

end Park

/-! ## The requests (R88, R89) -/

theorem stalledTask_outside (s : State) (id : Nat) (out : 128 ≤ id) : s.stalledTask id = .error .badValue :=
  if_pos out

theorem stalledTask_late (s : State) (id : Nat) (id128 : id < 128) (late : ∀ k, s.task id = some k → k.state ≠ .stalled) :
    s.stalledTask id = .error .tooLate := by
  unfold State.stalledTask
  rw [if_neg (not_le.2 id128)]
  split
  · next k task => exact if_neg (late k task)
  · rfl

theorem represent_refused (s : State) (id : Nat) (r : Reason) (h : s.stalledTask id = .error r) :
    s.represent id = (s, .refused r) := by
  unfold State.represent
  rw [h]
  rfl

theorem abandon_refused (s : State) (id : Nat) (r : Reason) (h : s.stalledTask id = .error r) :
    s.abandon id = (s, .refused r) := by
  unfold State.abandon
  rw [h]
  rfl

/-- The part once a parked task has left the parked set (R88, R89). -/
def State.unparked (s : State) (id c : Nat) : State :=
  s.modCar c fun x => { x with parked := x.parked.filter (· != id) }

section Stalled

variable (s : State) (id : Nat) (k : Task) (pool : s.orderUnit.pool.length = 128) (task : s.task id = some k)
  (stalled : k.state = .stalled)

include stalled in
theorem detach_stalled : s.detach id k = s.unparked id k.bay.carousel := by
  unfold State.detach
  rw [stalled]
  rfl

include pool task stalled

theorem stalledTask_ok : s.stalledTask id = .ok k := by
  have id128 : ¬128 ≤ id := not_le.2 (pool ▸ task_lt s id k task)
  unfold State.stalledTask
  rw [if_neg id128, task]
  exact if_pos stalled

theorem represent_eq : s.represent id =
    ((((s.unparked id k.bay.carousel).taskState id .queued).modCar k.bay.carousel fun x =>
      x.modQueue k.level (id :: ·)).notePoint k.bay.carousel, .done []) := by
  have still : (s.unparked id k.bay.carousel).task id = some k := task
  unfold State.represent
  rw [stalledTask_ok s id k pool task stalled]
  dsimp only
  rw [detach_stalled s id k stalled]
  unfold State.joinHead
  rw [still]

theorem abandon_eq : s.abandon id = ((s.unparked id k.bay.carousel).endTask id, .done []) := by
  unfold State.abandon
  rw [stalledTask_ok s id k pool task stalled]
  dsimp only
  rw [detach_stalled s id k stalled]

/-- A task represented is QUEUED at the head of the queue of its level (R88). -/
theorem represent_spec (len : k.bay.carousel < s.carousels.length) :
    let c := k.bay.carousel
    let u := (s.represent id).1
    u.task id = some { k with state := .queued } ∧ u.car c = ({ s.car c with
        parked := (s.car c).parked.filter (· != id) } : Carousel).modQueue k.level (id :: ·) ∧
      (u.car c).queue k.level = id :: (s.car c).queue k.level ∧ c ∈ u.agenda.points ∧
      u.bays = s.bays ∧ u.balances = s.balances ∧ u.articles = s.articles ∧ u.consolidation = s.consolidation ∧
      (∀ j, j ≠ id → u.task j = s.task j) ∧ ∀ d, d ≠ c → u.car d = s.car d := by
  intro c u
  have is : u = ((((s.unparked id c).taskState id .queued).modCar c fun x => x.modQueue k.level (id :: ·)).notePoint c) :=
    congrArg Prod.fst (represent_eq s id k pool task stalled)
  have point : c ∈ u.agenda.points := by
    rw [is]
    exact notePoint_points _ c
  rw [notePoint_frame] at is
  have unparked : (s.unparked id c).car c = { s.car c with parked := (s.car c).parked.filter (· != id) } :=
    (State.car_modCar ..).trans (if_pos ⟨rfl, len⟩)
  have len' : c < ((s.unparked id c).taskState id .queued).carousels.length := (List.length_modify ..).symm ▸ len
  have car : u.car c = ({ s.car c with
      parked := (s.car c).parked.filter (· != id) } : Carousel).modQueue k.level (id :: ·) := by
    rw [is, ← unparked]
    exact (State.car_modCar ..).trans (if_pos ⟨rfl, len'⟩)
  refine ⟨?_, car, ?_, point, ?_, ?_, ?_, ?_, fun j other => ?_, fun d other => ?_⟩
  · rw [is]
    exact (State.task_modTask ..).trans ((if_pos rfl).trans (congrArg _ task))
  · rw [car, queue_modQueue]
    rfl
  all_goals rw [is]
  · rfl
  · rfl
  · rfl
  · rfl
  · exact (State.task_modTask ..).trans (if_neg fun e => other e.symm)
  · exact (State.car_modCar ..).trans ((if_neg fun e => other e.1.symm).trans
      ((State.car_modCar ..).trans (if_neg fun e => other e.1.symm)))

/-- A task abandoned ends, its remainder settled (R89). -/
theorem abandon_spec (carousels : k.bay.carousel < s.carousels.length) (bays : k.bay.carousel < s.bays.length)
    (position : s.position k.bay < (s.baysOf k.bay.carousel).length) :
    let c := k.bay.carousel
    let u := (s.abandon id).1
    u.task id = none ∧ u.car c = { s.car c with parked := (s.car c).parked.filter (· != id) } ∧
      (k.kind = .pick → (u.bay k.bay).reserved = (s.bay k.bay).reserved - (k.quantity - k.taken) ∧
        (u.bay k.bay).incoming = (s.bay k.bay).incoming) ∧
      (k.kind = .put → k.taken = 0 → (u.bay k.bay).incoming = (s.bay k.bay).incoming - 1 ∧
        (u.bay k.bay).reserved = (s.bay k.bay).reserved) ∧
      (k.kind = .pick → k.withdrawn = false → ∀ o g, s.order k.order = some o → o.state ≠ .withdrawn →
        s.group k.ref = some g → u.group k.ref = some { g with
          need := g.need + (k.quantity - k.taken), tasks := g.tasks.filter (· != id) } ∧
        (k.taken < k.quantity → k.ref ∈ u.orderUnit.pending)) ∧
      u.orderUnit.retry = .all ∧
      (u.bay k.bay).count = (s.bay k.bay).count ∧ u.balances = s.balances ∧ u.articles = s.articles ∧
      u.consolidation.reserved = s.consolidation.reserved - k.transit ∧
      (∀ j, j ≠ id → u.task j = s.task j) ∧ ∀ d, d ≠ c → u.car d = s.car d := by
  intro c u
  have is : u = (s.unparked id c).endTask id := congrArg Prod.fst (abandon_eq s id k pool task stalled)
  rw [is]
  have still : (s.unparked id c).task id = some k := task
  have bay : ∀ j, (s.unparked id c).bay j = s.bay j := bay_modCar s c _ fun _ => rfl
  have position' : (s.unparked id c).position k.bay < ((s.unparked id c).baysOf c).length := by
    have shelved : s.Shelved (s.unparked id c) := State.Shelved.modCar s c _ fun _ => rfl
    rw [shelved.position]
    exact position
  have ended := endTask_ended (s.unparked id c) id true
  obtain ⟨reserved, retry⟩ := endTask_gives_back (s.unparked id c) id k still
  have car : ∀ d, ((s.unparked id c).endTask id).car d = (s.unparked id c).car d := fun d => by
    unfold State.car
    rw [ended.carousels]
  refine ⟨ended.task, ?_, fun pick => ?_, fun put none_taken => ?_, fun pick kept o g order live group => ?_, retry, ?_,
    ended.balances, ended.articles, reserved, ended.others, fun d other => ?_⟩
  · rw [car]
    exact (State.car_modCar ..).trans (if_pos ⟨rfl, carousels⟩)
  · rw [endTask_bay_pick _ id k still pick, bay_modBay_same (s.unparked id c) _ _ bays position', bay]
    exact ⟨rfl, rfl⟩
  · rw [endTask_bay_put _ id k still put none_taken, bay_modBay_same (s.unparked id c) _ _ bays position', bay,
      tidy_incoming, tidy_reserved]
    exact ⟨rfl, rfl⟩
  · exact endTask_group _ id k still o g pick kept order live group
  · rw [ended.counts, bay]
  · rw [car]
    exact (State.car_modCar ..).trans (if_neg fun e => other e.1.symm)

end Stalled

/-- Settles O59: the expiry is `park_spec`, the requests are refused by `State.stalledTask` or are `represent_spec` and
`abandon_spec` on the part without the request. -/
theorem tasksStallAndAreSettled : Obligations.TasksStallAndAreSettled := by
  refine ⟨fun s c id k bounded c8 => ⟨fun q stopped => ?_, fun state runs serving task => ?_⟩,
    fun s f id bounded q => ⟨fun i asked => ?_, fun k task stalled c8 => ?_⟩⟩
  · refine (if_pos c8).trans (congrArg Host.Outcome.next ?_)
    rw [presentationTimeout_stopped s c stopped, State.settle_of_quiet s q]
  · have len : c < s.carousels.length := by rwa [bounded.eight.1]
    refine ⟨(if_pos c8).trans (congrArg Host.Outcome.next ?_), park_spec s c id k task len state⟩
    rw [presentationTimeout_runs s c id state runs serving, park_eq s c id k task]
    rfl
  · have refuses : ∀ r, s.takeRequest.stalledTask id = .error r →
        exec i s = .next (s.takeRequest.answer f (.refused r)) := fun r h => by
      rcases asked with ⟨rfl, asked⟩ | ⟨rfl, asked⟩
      · exact congrArg Host.Outcome.next ((onRequest_asked asked rfl).trans
          (serve_refused q f (represent_refused s.takeRequest id r h)))
      · exact congrArg Host.Outcome.next ((onRequest_asked asked rfl).trans
          (serve_refused q f (abandon_refused s.takeRequest id r h)))
    exact ⟨fun out => refuses _ (stalledTask_outside _ id out), fun id128 late => refuses _ (stalledTask_late _ id id128 late)⟩
  · have carousels : k.bay.carousel < s.carousels.length := by rwa [bounded.eight.1]
    have bays : k.bay.carousel < s.bays.length := by rwa [bounded.eight.2.1]
    refine ⟨fun asked => ⟨?_, represent_spec s.takeRequest id k bounded.pool task stalled carousels⟩,
      fun asked position => ⟨?_, abandon_spec s.takeRequest id k bounded.pool task stalled carousels bays position⟩⟩
    · refine congrArg Host.Outcome.next ((onRequest_asked asked rfl).trans (serve_done f ?_))
      rw [represent_eq s.takeRequest id k bounded.pool task stalled]
    · refine congrArg Host.Outcome.next ((onRequest_asked asked rfl).trans (serve_done f ?_))
      rw [abandon_eq s.takeRequest id k bounded.pool task stalled]

end Sys2Proof.Machine
end

section
/-! An ARRIVED at the move's target (O18): R37, R39, R41, R63, R66, R67, R143. -/

namespace Sys2Proof.Machine

/-! ## What an offer pass and the release of a claim leave beside `State.Keeps` (R36, R37) -/

/-- Bays and FIFO stand, and a task changes in its state alone: `s` is the part before, `t` after. -/
structure State.Offered (s t : State) : Prop where
  bays : t.bays = s.bays
  fifo : t.outbox.fifo = s.outbox.fifo
  tasks : ∀ id k, s.task id = some k → ∃ st, t.task id = some { k with state := st }

namespace State.Offered

theorem refl (s : State) : s.Offered s := ⟨rfl, rfl, fun _ k task => ⟨k.state, task⟩⟩

theorem trans {s t u : State} (a : s.Offered t) (b : t.Offered u) : s.Offered u where
  bays := b.bays.trans a.bays
  fifo := b.fifo.trans a.fifo
  tasks := fun id k task => by
    obtain ⟨_, task⟩ := a.tasks id k task
    obtain ⟨st, task⟩ := b.tasks id _ task
    exact ⟨st, task⟩

theorem taskState (s : State) (id : Nat) (st : TaskState) : s.Offered (s.taskState id st) where
  bays := rfl
  fifo := rfl
  tasks := fun j k task => by
    unfold State.taskState
    rw [State.task_modTask]
    split
    · exact ⟨st, by rw [task]; rfl⟩
    · exact ⟨k.state, task⟩

theorem startMove (s t : State) (c level target : Nat) (h : s.startMove c level target = some t) : s.Offered t := by
  unfold State.startMove at h
  split at h
  · dsimp only at h
    split at h
    · cases h
      refine trans ?_ (taskState _ _ _)
      exact ⟨rfl, rfl, fun _ k task => ⟨k.state, task⟩⟩
    · cases h
      exact ⟨rfl, rfl, fun _ k task => ⟨k.state, task⟩⟩
  · cases h

theorem offerEntry (s : State) (e : WaitEntry) : s.Offered (s.offerEntry e) := by
  unfold State.offerEntry
  split
  · exact refl s
  · split
    · split
      · next h =>
        obtain ⟨bays, fifo, tasks⟩ := startMove s _ _ _ _ h
        exact ⟨bays, fifo, tasks⟩
      · exact refl s
    · exact refl s

theorem offerPass (s : State) : s.Offered s.offerPass := by
  unfold State.offerPass
  generalize s.power.waitList = l
  induction l generalizing s with
  | nil => exact refl s
  | cons e l ih => exact (offerEntry s e).trans (ih _)

end State.Offered

/-- What the release of the claim of carousel `c` leaves beside `State.Released`, and the budget it sets. -/
structure State.ClaimFreed (s t : State) (c : Nat) : Prop where
  offered : s.Offered t
  now : t.now = s.now
  putAway : t.putAway = s.putAway
  profiles : ∀ d, (t.car d).profile = (s.car d).profile
  target : t.power.target = s.power.target
  budget : s.hasClaim c = true → t.power.budget = max s.power.target
    (Power.claimed { s.power with claims := s.power.claims.filter fun x => x.carousel != c })

theorem releaseClaim_freed (s : State) (c : Nat) : s.ClaimFreed (s.releaseClaim c) c := by
  unfold State.releaseClaim
  split
  · have dropped : s.Offered { s with power := s.power.dropClaim c } := ⟨rfl, rfl, fun _ k task => ⟨k.state, task⟩⟩
    have keeps := (offerPass_spec { s with power := s.power.dropClaim c }).1
    obtain ⟨target, budget, _⟩ := keeps.power
    exact ⟨dropped.trans (.offerPass _), keeps.now, keeps.putAway, fun d => (keeps_profile keeps d :), target, fun _ => budget⟩
  · next unclaimed =>
    exact ⟨.refl s, rfl, rfl, fun _ => rfl, rfl, fun claim => absurd claim unclaimed⟩

/-! ## The rise of H, and the deviation check (R39, R41, R44, R45) -/

/-- A rise of H, with COOLING where it reaches the hot threshold and a notice of that at most. -/
theorem raiseDuty_eq (s : State) (c : Nat) (p : Profile) (distance draw : Nat) (len : c < s.balances.length) : ∃ l : LinkPort,
    s.raiseDuty c p distance draw = { s.modBal c (fun b => { b with
      duty := min 65535 (b.duty + distance * draw / 8)
      cooling := b.cooling || decide (p.hot ≤ min 65535 ((s.bal c).duty + distance * draw / 8)) }) with link := l } := by
  have duty : ((s.modBal c fun b => { b with duty := min 65535 (b.duty + distance * draw / 8) }).bal c).duty =
      min 65535 ((s.bal c).duty + distance * draw / 8) := by
    rw [bal_modBal, if_pos ⟨rfl, len⟩]
  unfold State.raiseDuty State.coolingAfterRise
  rw [duty]
  split
  · next hot =>
    obtain ⟨l, set⟩ := setCooling_frame (s.modBal c fun b => { b with
      duty := min 65535 (b.duty + distance * draw / 8) }) c true
    refine ⟨l, set.trans ?_⟩
    simp only [decide_eq_true hot, Bool.or_true]
    unfold State.modBal
    dsimp only
    rw [List.modify_modify_eq]
    rfl
  · next cool =>
    refine ⟨s.link, ?_⟩
    simp only [decide_eq_false cool, Bool.or_false]
    rfl

theorem startSweep_frame (s : State) (c first last : Nat) (policy : SweepPolicy) (origin : SweepOrigin) :
    ∃ (w : Option SweepContext) (audit : AuditUnit) (agenda : Agenda),
      s.startSweep c first last policy origin = { s.modCar c (fun k => { k with sweep := w }) with audit, agenda } := by
  let number := (s.audit.sweepCounter + 1) % 65536
  unfold State.startSweep
  dsimp only
  rw [notePoint_frame]
  exact ⟨some { next := first, last, policy, number }, { s.audit with
    sweepCounter := number
    sweeps := s.audit.sweeps.modify c fun r => { r with origin, stopMark := false, readAttempt := 0 } }, _, rfl⟩

/-- A sweep asked for is written in the save area and the sweep record, where none runs. -/
theorem requestSweep_frame (s : State) (c : Nat) : ∃ (w : Option SweepContext) (audit : AuditUnit) (agenda : Agenda),
    s.requestSweep c = { s.modCar c (fun k => { k with sweep := w }) with audit, agenda } ∧
      ((s.car c).sweep ≠ none → w = (s.car c).sweep ∧ audit = s.audit) := by
  have idle : s = { s.modCar c (fun k => { k with sweep := (s.car c).sweep }) with audit := s.audit, agenda := s.agenda } := by
    conv_lhs => rw [← modCar_eq_self s c (fun k => { k with sweep := (s.car c).sweep }) rfl]
    rfl
  unfold State.requestSweep
  dsimp only
  split
  · next bare _ _ =>
    split
    · obtain ⟨w, audit, agenda, frame⟩ := startSweep_frame s c _ _ _ .automatic
      exact ⟨w, audit, agenda, frame, fun runs => absurd bare runs⟩
    · exact ⟨_, _, _, idle, fun _ => ⟨rfl, rfl⟩⟩
  · exact ⟨_, _, _, idle, fun _ => ⟨rfl, rfl⟩⟩

/-- The deviation check changes the counter and sends BALANCE-DEVIATION with a sweep's start at most. -/
theorem deviationCheck_frame (s : State) (c r : Nat) (measured : Int) (p : Profile) (profile : (s.car c).profile = some p) :
    ∃ (n : Nat) (l : LinkPort) (w : Option SweepContext) (audit : AuditUnit) (agenda : Agenda),
      s.deviationCheck c r measured = { (s.modBal c fun b => { b with deviation := n }).modCar c
          (fun k => { k with sweep := w }) with link := l, audit, agenda } ∧
        ((s.car c).sweep ≠ none → w = (s.car c).sweep ∧ audit = s.audit) := by
  have counted : ∀ n, s.modBal c (fun b => { b with deviation := n }) = { (s.modBal c fun b => { b with deviation := n }).modCar c
      (fun k => { k with sweep := (s.car c).sweep }) with link := s.link, audit := s.audit, agenda := s.agenda } := fun n => by
    conv_lhs => rw [← modCar_eq_self (s.modBal c _) c (fun k => { k with sweep := (s.car c).sweep }) rfl]
    rfl
  by_cases deviates : p.tolerance ≠ 0 ∧ (p.tolerance : Int) < |measured - (s.bal c).imbalanceAt r|
  · by_cases first : (s.bal c).deviation = 0
    · exact ⟨1, _, _, _, _, (deviationCheck_once s c r measured p profile deviates first).trans (counted 1),
        fun _ => ⟨rfl, rfl⟩⟩
    · rw [deviationCheck_again s c r measured p profile deviates first, notify_frame]
      obtain ⟨w, audit, agenda, frame, runs⟩ := requestSweep_frame { s.modBal c (fun b => { b with deviation := 0 }) with
        link := ((s.modBal c fun b => { b with deviation := 0 }).notify
          (.balanceDeviation c r measured ((s.bal c).imbalanceAt r))).link } c
      exact ⟨0, _, w, audit, agenda, frame, runs⟩
  · exact ⟨0, _, _, _, _, (deviationCheck_within s c r measured p profile deviates).trans (counted 0), fun _ => ⟨rfl, rfl⟩⟩

/-! ## The move ended at its target, before the work presents -/

/-- What the end of move `m` of carousel `c` at its target is, whatever becomes of the work. -/
def State.Moved (s t : State) (c : Nat) (p : Profile) (m : Move) : Prop :=
  (t.car c).index = some m.target ∧ (t.car c).move = none ∧ (t.car c).moveTimer = none ∧
    (t.bal c).duty = min 65535 ((s.bal c).duty + m.distance * m.draw / 8) ∧
    (t.bal c).cooling = ((s.bal c).cooling || decide (p.hot ≤ (t.bal c).duty)) ∧
    (t.bal c).loads = (s.bal c).loads ∧ t.hasClaim c = false ∧ t.power.target = s.power.target ∧
    (s.hasClaim c = true → t.power.budget = max s.power.target
      (Power.claimed { s.power with claims := s.power.claims.filter fun x => x.carousel != c })) ∧
    t.articles = s.articles ∧ t.consolidation.transit = s.consolidation.transit

/-- A change that leaves the move's records of the carousel, its balance, the power side, articles and transit list. -/
theorem State.Moved.congr {s a t : State} {c : Nat} {p : Profile} {m : Move} (h : s.Moved a c p m)
    (index : (t.car c).index = (a.car c).index) (move : (t.car c).move = (a.car c).move)
    (timer : (t.car c).moveTimer = (a.car c).moveTimer) (balances : t.balances = a.balances) (power : t.power = a.power)
    (articles : t.articles = a.articles) (transit : t.consolidation.transit = a.consolidation.transit) : s.Moved t c p m := by
  unfold State.Moved State.bal State.hasClaim at h ⊢
  rw [index, move, timer, balances, power, articles, transit]
  exact h

/-- The part once the move of `c` has ended at its target, before its work presents (R63). -/
def State.docked (s : State) (c : Nat) (p : Profile) (m : Move) (measured : Int) : State :=
  ((((s.releaseClaim c).raiseDuty c p m.distance m.draw).endMove c).modCar c fun x => { x with
    index := some m.target }).deviationCheck c m.target measured

/-- What the end of a move at its target changes and leaves, before its work presents: `s` is the part before, `a` after. -/
structure State.Docked (s a : State) (c : Nat) (p : Profile) (m : Move) : Prop where
  moved : s.Moved a c p m
  car : a.car c = { s.car c with index := some m.target, move := none, moveTimer := none, sweep := (a.car c).sweep }
  sweep : (s.car c).sweep ≠ none → (a.car c).sweep = (s.car c).sweep ∧ a.audit = s.audit
  offered : s.Offered a
  profiles : ∀ d, (a.car d).profile = (s.car d).profile
  len : a.carousels.length = s.carousels.length
  now : a.now = s.now
  putAway : a.putAway = s.putAway

/-- The claim released, one balance record and one carousel record are changed, with notices and a sweep's start at most. -/
theorem docked_frame (s : State) (c : Nat) (p : Profile) (m : Move) (measured : Int) (profile : (s.car c).profile = some p)
    (idle : s.waits c = false) (len : c < s.carousels.length) (bals : c < s.balances.length) :
    ∃ (n : Nat) (l : LinkPort) (w : Option SweepContext) (audit : AuditUnit) (agenda : Agenda),
      s.docked c p m measured = { ((s.releaseClaim c).modBal c fun b => { b with
          duty := min 65535 (b.duty + m.distance * m.draw / 8)
          cooling := b.cooling || decide (p.hot ≤ min 65535 ((s.bal c).duty + m.distance * m.draw / 8))
          deviation := n }).modCar c (fun k => { k with
            index := some m.target, move := none, moveTimer := none, sweep := w }) with link := l, audit, agenda } ∧
        ((s.car c).sweep ≠ none → w = (s.car c).sweep ∧ audit = s.audit) := by
  have released := releaseClaim_spec s c
  have bal : (s.releaseClaim c).bal c = s.bal c := by rw [State.bal, released.balances, State.bal]
  obtain ⟨l, risen⟩ := raiseDuty_eq (s.releaseClaim c) c p m.distance m.draw (released.balances ▸ bals)
  rw [bal] at risen
  unfold State.docked State.endMove
  rw [modCar_modCar, risen]
  generalize moved : State.modCar { State.modBal (s.releaseClaim c) c _ with link := l } c _ = u
  have car : u.car c = { s.car c with index := some m.target, move := none, moveTimer := none } := by
    rw [← moved, ← released.car idle]
    exact (State.car_modCar ..).trans (if_pos ⟨rfl, released.len ▸ len⟩)
  obtain ⟨n, link, w, audit, agenda, checked, runs⟩ := deviationCheck_frame u c m.target measured p (by rw [car]; exact profile)
  rw [car] at runs
  refine ⟨n, link, w, audit, agenda, ?_, fun sweeps => ?_⟩
  · rw [checked, ← moved]
    unfold State.modCar State.modBal
    dsimp only
    rw [List.modify_modify_eq, List.modify_modify_eq]
    rfl
  · obtain ⟨same, audit_same⟩ := runs sweeps
    refine ⟨same, audit_same.trans ?_⟩
    rw [← moved]
    exact released.audit

theorem docked_spec (s : State) (c : Nat) (p : Profile) (m : Move) (measured : Int) (profile : (s.car c).profile = some p)
    (idle : s.waits c = false) (len : c < s.carousels.length) (bals : c < s.balances.length) :
    s.Docked (s.docked c p m measured) c p m := by
  have released := releaseClaim_spec s c
  have freed := releaseClaim_freed s c
  have bal : (s.releaseClaim c).bal c = s.bal c := by rw [State.bal, released.balances, State.bal]
  obtain ⟨n, l, w, audit, agenda, frame, runs⟩ := docked_frame s c p m measured profile idle len bals
  have car : (s.docked c p m measured).car c =
      { s.car c with index := some m.target, move := none, moveTimer := none, sweep := w } := by
    rw [frame, ← released.car idle]
    exact (State.car_modCar ..).trans (if_pos ⟨rfl, released.len ▸ len⟩)
  have balance : (s.docked c p m measured).bal c = { s.bal c with
      duty := min 65535 ((s.bal c).duty + m.distance * m.draw / 8)
      cooling := (s.bal c).cooling || decide (p.hot ≤ min 65535 ((s.bal c).duty + m.distance * m.draw / 8))
      deviation := n } := by
    rw [frame, ← bal]
    exact (bal_modBal ..).trans (if_pos ⟨rfl, released.balances ▸ bals⟩)
  have profiles := (State.Shelved.modCar (s.releaseClaim c) c (fun k => { k with
    index := some m.target, move := none, moveTimer := none, sweep := w }) fun _ => rfl).profiles
  have moved : s.Moved (s.docked c p m measured) c p m := by
    unfold State.Moved
    rw [balance, car, frame]
    exact ⟨rfl, rfl, rfl, rfl, rfl, rfl, released.claim idle, freed.target, freed.budget, released.articles, released.transit⟩
  refine ⟨moved, by rw [car], fun sweeps => ?_, ?_, fun d => ?_, ?_, ?_, ?_⟩
  · obtain ⟨same, audit_same⟩ := runs sweeps
    rw [car, frame]
    exact ⟨same, audit_same⟩
  all_goals rw [frame]
  · exact ⟨freed.offered.bays, freed.offered.fifo, freed.offered.tasks⟩
  · exact (profiles d).trans (freed.profiles d)
  · exact (List.length_modify ..).trans released.len
  · exact freed.now
  · exact freed.putAway

/-! ## What becomes of the work (R63, R66, R67, R143) -/

theorem indicateTask_frame (s : State) (c : Nat) (k : Task) : s.indicateTask c k =
    { s with outbox := (s.indicateTask c k).outbox, line := (s.indicateTask c k).line } := by
  unfold State.indicateTask
  split <;> exact indicate_frame ..

section Arrival

variable {s : State} {c : Nat} {p : Profile} {m : Move} {measured : Int}

section Ends

variable (state : (s.car c).state = .moving) (profile : (s.car c).profile = some p) (move : (s.car c).move = some m)
include state profile move

theorem arrived_stale (number : Nat) (stale : number ≠ (s.car c).moveNumber) : s.arrived c m.target measured number = s := by
  unfold State.arrived
  dsimp only
  rw [profile, state]
  dsimp only
  rw [move]
  exact if_neg stale

theorem arrived_at_target : s.arrived c m.target measured (s.car c).moveNumber =
    ((s.releaseClaim c).raiseDuty c p m.distance m.draw).arrivedAtTarget c m.target measured :=
  (arrived_moving s c m.target p profile measured m state move).trans (if_pos rfl)

theorem arrived_presents (live : ∀ id k, ((s.docked c p m measured).car c).inService = some (.task id) →
    (s.docked c p m measured).task id = some k → k.withdrawn = false) :
    s.arrived c m.target measured (s.car c).moveNumber = (s.docked c p m measured).present c := by
  rw [arrived_at_target state profile move]
  unfold State.arrivedAtTarget
  unfold State.docked at live ⊢
  dsimp only
  split
  next id serving =>
    split
    next k task => exact if_neg (by rw [live id k serving task]; exact Bool.false_ne_true)
    next => rfl
  next => rfl

theorem arrived_withdrawn (id : Nat) (k : Task) (serving : ((s.docked c p m measured).car c).inService = some (.task id))
    (task : (s.docked c p m measured).task id = some k) (withdrawn : k.withdrawn = true) :
    s.arrived c m.target measured (s.car c).moveNumber = (((s.docked c p m measured).endTask id).settle.modCar c fun x =>
      { x with state := .ready, inService := none }).notePoint c := by
  rw [arrived_at_target state profile move]
  unfold State.arrivedAtTarget
  unfold State.docked at serving task ⊢
  dsimp only
  rw [serving]
  dsimp only
  rw [task]
  exact if_pos withdrawn

end Ends

variable {a : State} (d : s.Docked a c p m) (len : c < s.carousels.length)
include d len

/-- A task presents under a fresh presentation timer. -/
theorem docked_task_presents (id : Nat) (k : Task) (serving : (s.car c).inService = some (.task id))
    (task : s.task id = some k) :
    let t := a.present c
    s.Moved t c p m ∧ (t.car c).state = .presenting ∧ (t.car c).presentationTimer = some (s.now + s.presentationMs) ∧
      (t.car c).inService = some (.task id) ∧ t.task id = some { k with state := .presenting } ∧ t.bays = s.bays := by
  obtain ⟨st, there⟩ := d.offered.tasks id k task
  have serving' : (a.car c).inService = some (.task id) := by
    rw [d.car]
    exact serving
  have timer : a.now + a.presentationMs = s.now + s.presentationMs := by
    unfold State.presentationMs
    rw [d.now, d.putAway]
  have presented := present_task a c id _ serving' there
  rw [indicateTask_frame, timer] at presented
  have car : (a.present c).car c = { a.car c with
      state := .presenting, presentationTimer := some (s.now + s.presentationMs) } := by
    rw [presented]
    exact (State.car_modCar ..).trans (if_pos ⟨rfl, d.len ▸ len⟩)
  refine ⟨d.moved.congr (by rw [car]) (by rw [car]) (by rw [car]) ?_ ?_ ?_ ?_, by rw [car], by rw [car], ?_, ?_, ?_⟩
  · rw [presented]
    rfl
  · rw [presented]
    rfl
  · rw [presented]
    rfl
  · rw [presented]
    rfl
  · rw [car]
    exact serving'
  · rw [presented]
    exact (State.task_modTask ..).trans ((if_pos rfl).trans (congrArg _ there))
  · rw [presented]
    exact d.offered.bays

/-- A sweep step presents with its first SCAN-CARRIER, read attempt 1 and the read timer. -/
theorem docked_step_presents (w : SweepContext) (sweeps : c < s.audit.sweeps.length) (profile : (s.car c).profile = some p)
    (serving : (s.car c).inService = some .step) (sweep : (s.car c).sweep = some w) (room : s.outbox.fifo.length < 32) :
    let t := a.present c
    s.Moved t c p m ∧ (t.car c).state = .presenting ∧ (t.car c).inService = some .step ∧ (t.car c).sweep = some w ∧
      (t.car c).presentationTimer = (s.car c).presentationTimer ∧ t.bays = s.bays ∧
      t.sweepRecord c = { s.sweepRecord c with readAttempt := 1, readTimer := some (s.now + s.carrierReadMs) } ∧
      ∃ tag, t.outbox.fifo = s.outbox.fifo ++
        [OutFrame.mk p.reader kindScanCarrier tag [byte w.next, byte p.bays] .part none] := by
  obtain ⟨same, audit⟩ := d.sweep (by rw [sweep]; exact Option.some_ne_none w)
  have timer : a.now + a.carrierReadMs = s.now + s.carrierReadMs := by
    unfold State.carrierReadMs
    rw [d.now, d.putAway]
  have serving' : (a.car c).inService = some .step := by
    rw [d.car]
    exact serving
  obtain ⟨fifo, dropped, takes, presented⟩ := present_step a c w p (d.len ▸ len) serving' (same.trans sweep)
    ((d.profiles c).trans profile)
  have joined := (takes.room (by rw [d.offered.fifo]; exact room)).1
  have car : (a.present c).car c = { a.car c with state := .presenting } := by
    rw [presented]
    simp [State.car, d.len ▸ len]
  refine ⟨d.moved.congr (by rw [car]) (by rw [car]) (by rw [car]) ?_ ?_ ?_ ?_, by rw [car], ?_, ?_, ?_, ?_, ?_,
    a.outbox.tagCounter, ?_⟩
  · rw [presented]
  · rw [presented]
  · rw [presented]
  · rw [presented]
  · rw [car]
    exact serving'
  · rw [car]
    exact same.trans sweep
  · rw [car, d.car]
  · rw [presented]
    exact d.offered.bays
  · rw [presented]
    simp [State.sweepRecord, audit, timer, sweeps]
  · rw [presented, joined, d.offered.fifo]

/-- A task marked withdrawn ends; its carousel is READY after what that reports. -/
theorem docked_task_withdrawn (id : Nat) (k : Task) (state : (s.car c).state = .moving)
    (bays : k.bay.carousel < s.bays.length) (position : s.position k.bay < (s.baysOf k.bay.carousel).length)
    (task : s.task id = some k) :
    let v := a.endTask id
    let t := (v.settle.modCar c fun x => { x with state := .ready, inService := none }).notePoint c
    s.Moved v c p m ∧ v.task id = none ∧ v.orderUnit.retry = .all ∧ v.outbox.fifo = s.outbox.fifo ∧
      (∀ j, (v.bay j).count = (s.bay j).count) ∧
      (k.kind = .pick → (v.bay k.bay).reserved = (s.bay k.bay).reserved - (k.quantity - k.taken)) ∧
      (t.car c).state = .ready ∧ (t.car c).inService = none ∧ (t.car c).index = some m.target ∧
      (t.car c).move = none ∧ (t.car c).moveTimer = none ∧
      (t.car c).presentationTimer = (s.car c).presentationTimer ∧ c ∈ t.agenda.points := by
  intro v t
  obtain ⟨st, there⟩ := d.offered.tasks id k task
  have ended := endTask_ended a id true
  have bay : ∀ j, a.bay j = s.bay j := bay_congr d.offered.bays d.profiles
  have car : v.car c = a.car c := by
    unfold State.car
    rw [ended.carousels]
  have busy : v.idleReady c = false := by
    unfold State.idleReady
    rw [car, d.car]
    dsimp only
    rw [state]
    rfl
  have last : t.car c = { v.settle.car c with state := .ready, inService := none } := by
    have len' : c < v.settle.carousels.length := by
      rw [keeps_len v.settle_follows, ended.carousels, d.len]
      exact len
    show ((v.settle.modCar c _).notePoint c).car c = _
    rw [notePoint_frame]
    exact (State.car_modCar ..).trans (if_pos ⟨rfl, len'⟩)
  rw [settle_car_busy v c busy, car, d.car] at last
  refine ⟨d.moved.congr (by rw [car]) (by rw [car]) (by rw [car]) ended.balances ended.power ended.articles ended.transit,
    ended.task, (endTask_gives_back a id _ there).2, (congrArg Outbox.fifo ended.outbox).trans d.offered.fifo,
    fun j => (ended.counts j).trans (congrArg Bay.count (bay j)), fun pick => ?_, by rw [last], by rw [last], by rw [last],
    by rw [last], by rw [last], by rw [last], notePoint_points _ c⟩
  have position' : a.position k.bay < (a.baysOf k.bay.carousel).length := by
    unfold State.position State.baysPerCarrier State.baysOf at position ⊢
    rw [d.profiles, d.offered.bays]
    exact position
  rw [endTask_bay_pick a id _ there pick, bay_modBay_same a _ _ (d.offered.bays ▸ bays) position', bay]

end Arrival

/-- Settles O18: the move ends as `docked_spec` says, and its work presents or ends. -/
theorem arrivedAtTarget : Obligations.ArrivedAtTarget := by
  intro s c number id measured p m k bounded c8 state profile move moved
  have len : c < s.carousels.length := by rwa [bounded.eight.1]
  have bals : c < s.balances.length := by rwa [bounded.eight.2.2.1]
  have sweeps : c < s.audit.sweeps.length := by rwa [bounded.eight.2.2.2]
  have docks : s.waits c = false → s.Docked (s.docked c p m measured) c p m := fun idle =>
    docked_spec s c p m measured profile idle len bals
  have serves : ∀ {a}, s.Docked a c p m → (a.car c).inService = (s.car c).inService := fun d => by rw [d.car]
  refine ⟨fun stale => arrived_stale state profile move number stale, fun serving task live idle now => ?_,
    fun w serving sweep idle room now => ?_, fun serving task withdrawn here position idle now => ?_⟩
  · have d := docks idle
    obtain ⟨st, there⟩ := d.offered.tasks id k task
    intro t
    have is : t = _ := (congrArg _ now).trans (arrived_presents state profile move fun i x h held => by
      rw [serves d, serving] at h
      cases h
      rw [there] at held
      cases held
      exact live)
    rw [is]
    exact docked_task_presents d len id k serving task
  · have d := docks idle
    intro t
    have is : t = _ := (congrArg _ now).trans (arrived_presents state profile move fun i x h held => by
      rw [serves d, serving] at h
      cases h)
    rw [is]
    exact docked_step_presents d len w sweeps profile serving sweep room
  · have d := docks idle
    obtain ⟨st, there⟩ := d.offered.tasks id k task
    intro t a v
    have is : t = _ := (congrArg _ now).trans
      (arrived_withdrawn state profile move id _ ((serves d).trans serving) there withdrawn)
    have bays : k.bay.carousel < s.bays.length := by rwa [bounded.eight.2.1, here]
    refine ⟨is, ?_⟩
    rw [is]
    exact docked_task_withdrawn d len id k state bays (here ▸ position) task

end Sys2Proof.Machine
end

section
/-! The bay chosen for a placement (O31): the candidates of R79 and the first of them by the keys of R80. -/

namespace Sys2Proof.Machine

/-! ## The first item by key -/

/-- Keys are compared as lists of numbers are in the library's lexicographic order. -/
theorem keyBefore_iff_lt : ∀ a b : List Nat, keyBefore a b = true ↔ a < b
  | [], [] => by simp [keyBefore]
  | [], _ :: _ => by simp [keyBefore]
  | _ :: _, [] => by simp [keyBefore]
  | x :: a, y :: b => by simp [keyBefore, List.cons_lt_cons_iff, keyBefore_iff_lt a b]

/-- The head of a sorted list has the least key. -/
theorem sortByKey_head_le {α : Type} (key : α → List Nat) (l : List α) :
    ∀ x, (sortByKey key l).head? = some x → ∀ y ∈ l, key x ≤ key y := by
  induction l with
  | nil => exact fun _ _ => nofun
  | cons a l ih =>
    intro x head y hy
    unfold sortByKey at head
    cases sorted : sortByKey key l with
    | nil =>
      have none_left : l = [] := List.nil_perm.1 (sorted ▸ sortByKey_perm key l)
      rw [sorted] at head
      cases head
      rw [none_left, List.mem_singleton] at hy
      rw [hy]
    | cons h t =>
      rw [sorted] at head ih
      have least := ih h rfl
      unfold sortByKey.insertFirst at head
      split at head
      · next before =>
        cases head
        rcases List.mem_cons.1 hy with rfl | hy
        · exact le_of_lt ((keyBefore_iff_lt _ _).1 before)
        · exact least y hy
      · next behind =>
        cases head
        rcases List.mem_cons.1 hy with rfl | hy
        · exact le_refl _
        · rw [keyBefore_iff_lt, not_lt] at behind
          exact behind.trans (least y hy)

theorem sortByKey_head_mem {α : Type} (key : α → List Nat) (l : List α) (x : α) (head : (sortByKey key l).head? = some x) :
    x ∈ l :=
  (sortByKey_perm key l).mem_iff.1 (List.mem_of_mem_head? head)

theorem sortByKey_head_none {α : Type} (key : α → List Nat) (l : List α) (head : (sortByKey key l).head? = none) : l = [] :=
  List.nil_perm.1 (List.head?_eq_none_iff.1 head ▸ sortByKey_perm key l)

/-! ## Prospective loads (R27) -/

/-- The items of a stretch of a list, each read by its place. -/
theorem sum_map_drop_take {α : Type} (l : List α) (d : α) (g : α → Int) (zero : g d = 0) (m b : Nat) :
    (((l.drop m).take b).map g).sum = ((List.range b).map fun i => g (l.getD (m + i) d)).sum := by
  induction b with
  | zero => rfl
  | succ b ih =>
    rw [List.take_add_one, List.map_append, List.sum_append, ih, List.range_succ, List.map_append, List.sum_append,
      List.getElem?_drop, List.map_singleton, List.getD_eq_getElem?_getD]
    cases l[m + b]? <;> simp [zero]

/-- The weight one bay's incoming puts will add (R27). -/
def State.bayIncoming (s : State) (b : Bay) : Int :=
  match b.tyre with
  | some t => ((b.incoming * s.weight t.article : Nat) : Int)
  | none => 0

theorem incomingWeight_eq (s : State) (c j : Nat) : s.incomingWeight c j = ((List.range (s.baysPerCarrier c)).map fun b =>
    s.bayIncoming (s.bay { carousel := c, carrier := j, bay := b })).sum :=
  sum_map_drop_take (s.baysOf c) {} s.bayIncoming rfl _ _

theorem prospectiveLoads_getD (s : State) (c j : Nat) (h : j < (s.bal c).loads.length) :
    (s.prospectiveLoads c).getD j 0 = (s.bal c).loads.getD j 0 + s.incomingWeight c j := by
  unfold State.prospectiveLoads
  rw [List.getD_eq_getElem _ _ (by rwa [List.length_mapIdx]), List.getElem_mapIdx, List.getD_eq_getElem _ _ h]

/-! ## The candidates (R79) -/

theorem offersBays_iff (s : State) (c : Nat) : s.offersBays c = true ↔
    ((s.car c).state = .ready ∨ (s.car c).state = .moving ∨ (s.car c).state = .presenting) ∧ (s.bal c).fault = false := by
  simp [State.offersBays, or_assoc]

theorem roomFor_iff (s : State) (y : Tyre) (id : BayId) : s.roomFor y id = true ↔ (s.bay id).holds.any = false ∧
    ((s.bay id).state = .empty ∨
      ((s.bay id).tyre = some y ∧ (s.bay id).count + (s.bay id).incoming < s.stackLimit y.article)) := by
  simp [State.roomFor]

/-- W' of a bay: the worst imbalance of its carousel's prospective loads with the tyre added (R27, R80). -/
def State.worstWith (s : State) (y : Tyre) (id : BayId) : Int :=
  (stateOf (s.placementLoads id.carousel id.carrier y.article)).1

theorem placementAnswer_iff (s : State) (p : Profile) (y : Tyre) (id : BayId) (w : Int) :
    s.placementAnswer p id.carousel id.carrier y.article = some w ↔
      ((s.placementLoads id.carousel id.carrier y.article).getD id.carrier 0 ≤ p.ceiling ∧
        ∃ g, (s.bal id.carousel).enabledGrades.getLast? = some g ∧ s.worstWith y id ≤ g.imbalance ∧
          (stateOf (s.placementLoads id.carousel id.carrier y.article)).2 ≤ g.total) ∧ w = s.worstWith y id := by
  unfold State.placementAnswer State.worstWith
  dsimp only
  rw [← Balance.admits_iff]
  split
  · next ok => simp only [ok, true_and, Option.some.injEq, eq_comm]
  · next no => simp only [no, false_and, reduceCtorEq]

/-- A candidate bay for a tyre (R79): its carousel serves and lies in the article's zone, its stock side has room, and the
balance unit's two tests hold. -/
def State.isPlace (s : State) (art : Article) (y : Tyre) (id : BayId) : Prop :=
  ∃ p, (s.car id.carousel).profile = some p ∧ id.carousel < 8 ∧ art.zone.getLsbD id.carousel = true ∧
    s.offersBays id.carousel = true ∧ id.carrier < p.carriers ∧ id.bay < p.bays ∧ s.roomFor y id = true ∧
    s.placementAnswer p id.carousel id.carrier y.article = some (s.worstWith y id)

/-- A bay with what the keys of R80 ask of it. -/
def State.placeOf (s : State) (y : Tyre) (id : BayId) : Place :=
  { bay := id, worst := (s.worstWith y id).toNat, same := decide ((s.bay id).tyre = some y) }

theorem baysPerCarrier_some (s : State) (c : Nat) (p : Profile) (profile : (s.car c).profile = some p) :
    s.baysPerCarrier c = p.bays := by
  unfold State.baysPerCarrier
  rw [profile]

theorem mem_carrierPlaces (s : State) (p : Profile) (y : Tyre) (c carrier : Nat) (profile : (s.car c).profile = some p)
    (x : Place) : x ∈ s.carrierPlaces p y [] c carrier ↔ x = s.placeOf y x.bay ∧ x.bay.carousel = c ∧ x.bay.carrier = carrier ∧
      x.bay.bay < p.bays ∧ s.roomFor y x.bay = true ∧
      s.placementAnswer p c carrier y.article = some (s.worstWith y x.bay) := by
  have worst : ∀ b w, s.placementAnswer p c carrier y.article = some w →
      w = s.worstWith y { carousel := c, carrier, bay := b } := fun b w answer =>
    ((placementAnswer_iff s p y { carousel := c, carrier, bay := b } w).1 answer).2
  unfold State.carrierPlaces State.carrierBays
  rw [baysPerCarrier_some s c p profile]
  constructor
  · intro mem
    split at mem
    · cases mem
    · next w answer =>
      obtain ⟨_, listed, kept⟩ := List.mem_filterMap.1 mem
      obtain ⟨b, below, rfl⟩ := List.mem_map.1 listed
      split at kept
      · next room =>
        cases kept
        rw [worst b w answer]
        exact ⟨rfl, rfl, rfl, List.mem_range.1 below, room.2, (worst b w answer) ▸ answer⟩
      · cases kept
  · rintro ⟨eq, here, carrier_, below, room, answer⟩
    rw [answer]
    refine List.mem_filterMap.2 ⟨x.bay, List.mem_map.2 ⟨x.bay.bay, List.mem_range.2 below, ?_⟩, ?_⟩
    · rw [← here, ← carrier_]
    · rw [if_pos ⟨rfl, room⟩]
      exact congrArg some eq.symm

theorem mem_places_iff (s : State) (art : Article) (y : Tyre) (x : Place) :
    x ∈ s.places art y [] ↔ s.isPlace art y x.bay ∧ x = s.placeOf y x.bay := by
  unfold State.places
  simp only [List.mem_flatMap, List.mem_range]
  constructor
  · rintro ⟨c, c8, mem⟩
    split at mem
    · next p profile =>
      split at mem
      · next serves =>
        obtain ⟨carrier, below, mem⟩ := List.mem_flatMap.1 mem
        obtain ⟨eq, rfl, rfl, bay, room, answer⟩ := (mem_carrierPlaces s p y c carrier profile x).1 mem
        exact ⟨⟨p, profile, c8, serves.1, serves.2, List.mem_range.1 below, bay, room, answer⟩, eq⟩
      · cases mem
    · cases mem
  · rintro ⟨⟨p, profile, c8, zone, serves, carrier, bay, room, answer⟩, eq⟩
    refine ⟨_, c8, ?_⟩
    rw [profile]
    dsimp only
    rw [if_pos ⟨zone, serves⟩]
    refine List.mem_flatMap.2 ⟨_, List.mem_range.2 carrier, ?_⟩
    exact (mem_carrierPlaces s p y _ _ profile x).2 ⟨eq, rfl, rfl, bay, room, answer⟩

/-! ## The choice (R80) -/

/-- A chosen bay is a candidate, and its key is the least of any candidate's. -/
theorem choosePlace_some (s : State) (art : Article) (y : Tyre) (id : BayId) (chosen : s.choosePlace art y [] = some id) :
    s.isPlace art y id ∧ ∀ other, s.isPlace art y other →
      s.placeKey (s.placeOf y id) ≤ s.placeKey (s.placeOf y other) := by
  obtain ⟨x, head, rfl⟩ := Option.map_eq_some_iff.1 chosen
  obtain ⟨place, eq⟩ := (mem_places_iff s art y x).1 (sortByKey_head_mem _ _ _ head)
  refine ⟨place, fun other candidate => ?_⟩
  rw [← eq]
  exact sortByKey_head_le _ _ x head _ ((mem_places_iff s art y _).2 ⟨candidate, rfl⟩)

theorem choosePlace_none (s : State) (art : Article) (y : Tyre) (none_chosen : s.choosePlace art y [] = none) (id : BayId) :
    ¬s.isPlace art y id := fun candidate => by
  have empty := sortByKey_head_none _ _ (Option.map_eq_none_iff.1 none_chosen)
  have mem := (mem_places_iff s art y (s.placeOf y id)).2 ⟨candidate, rfl⟩
  rw [empty] at mem
  cases mem

theorem isPlace_iff (s : State) (art : Article) (y : Tyre) (id : BayId) : s.isPlace art y id ↔
    ∃ p, (s.car id.carousel).profile = some p ∧ id.carousel < 8 ∧ art.zone.getLsbD id.carousel = true ∧
      (((s.car id.carousel).state = .ready ∨ (s.car id.carousel).state = .moving ∨
        (s.car id.carousel).state = .presenting) ∧ (s.bal id.carousel).fault = false) ∧
      id.carrier < p.carriers ∧ id.bay < p.bays ∧ (s.bay id).holds.any = false ∧
      ((s.bay id).state = .empty ∨
        ((s.bay id).tyre = some y ∧ (s.bay id).count + (s.bay id).incoming < s.stackLimit y.article)) ∧
      (s.placementLoads id.carousel id.carrier y.article).getD id.carrier 0 ≤ p.ceiling ∧
      ∃ g, (s.bal id.carousel).enabledGrades.getLast? = some g ∧ s.worstWith y id ≤ g.imbalance ∧
        (stateOf (s.placementLoads id.carousel id.carrier y.article)).2 ≤ g.total := by
  simp only [State.isPlace, offersBays_iff, roomFor_iff, placementAnswer_iff, and_true, and_assoc]

/-- The keys of R80 in turn. -/
theorem placeKey_lt_iff (s : State) (y : Tyre) (a b : BayId) : s.placeKey (s.placeOf y a) < s.placeKey (s.placeOf y b) ↔
    (s.worstWith y a).toNat < (s.worstWith y b).toNat ∨ ((s.worstWith y a).toNat = (s.worstWith y b).toNat ∧
      (((s.bay a).tyre = some y ∧ ¬(s.bay b).tyre = some y) ∨ (((s.bay a).tyre = some y ↔ (s.bay b).tyre = some y) ∧
        ((s.car a.carousel).walkOrder.length < (s.car b.carousel).walkOrder.length ∨
        ((s.car a.carousel).walkOrder.length = (s.car b.carousel).walkOrder.length ∧
          (a.carousel < b.carousel ∨ (a.carousel = b.carousel ∧
            (a.carrier < b.carrier ∨ (a.carrier = b.carrier ∧ a.bay < b.bay))))))))) := by
  simp only [State.placeKey, State.placeOf, List.cons_lt_cons_iff, List.not_lt_nil, and_false, or_false, decide_eq_true_eq]
  by_cases here : (s.bay a).tyre = some y <;> by_cases there : (s.bay b).tyre = some y <;> simp [here, there]

/-- Settles O31: the choice is the head of the candidates in the order of their keys. -/
theorem chosenPlaceIsFirst : Obligations.ChosenPlaceIsFirst := by
  intro s art y loads worst serving candidate same queued before
  refine ⟨fun c j below => ?_, fun id chosen => ?_, fun none_chosen other => ?_⟩
  · rw [prospectiveLoads_getD s c j below, incomingWeight_eq]
    rfl
  · obtain ⟨place, first⟩ := choosePlace_some s art y id chosen
    refine ⟨(isPlace_iff s art y id).1 place, fun other is_candidate is_before => ?_⟩
    exact not_lt.2 (first other ((isPlace_iff s art y other).2 is_candidate)) ((placeKey_lt_iff s y other id).2 is_before)
  · exact fun is_candidate => choosePlace_none s art y none_chosen other ((isPlace_iff s art y other).2 is_candidate)

end Sys2Proof.Machine
end

section
/-! One SITE entry of a TABLE-LOAD (O45): the tests of R73, and the lanes added with the offer of the first (R96). -/

namespace Sys2Proof.Machine

/-! ## An order under the follow-ups -/

/-- The follow-ups keep an order but for what allocation changes. -/
theorem State.Keeps.order {p : Nat → Prop} {s t : State} (k : s.Keeps p t) (n : Nat) :
    (t.order n).map Order.fixed = (s.order n).map Order.fixed := by
  have found : ∀ l : List Order, (l.find? fun o => o.number == n).map Order.fixed =
      (l.map Order.fixed).find? fun o => o.number == n := fun l => by
    rw [List.find?_map]
    rfl
  unfold State.order
  rw [found, found, k.orders]

/-! ## The tests (R73) -/

theorem Site.inRange_iff (x : Site) : x.inRange = true ↔ 1 ≤ x.laneReaders.length ∧ x.laneReaders.length ≤ 16 ∧
    30 ≤ x.putAge ∧ x.putAge ≤ 900 ∧ 10 ≤ x.presentation ∧ x.presentation ≤ 600 ∧ 5 ≤ x.transit ∧ x.transit ≤ 300 ∧
    1 ≤ x.carrierRead ∧ x.carrierRead ≤ 30 := by
  simp [Site.inRange, and_assoc]

/-- In an ascending list the last number read tells whether all lie below a bound. -/
theorem foldl_last_le_iff (l : List Nat) (ascends : l.Pairwise (· < ·)) (m : Nat) :
    l.foldl (fun _ n => n + 1) 0 ≤ m ↔ ∀ n ∈ l, n < m := by
  induction l using List.reverseRecOn with
  | nil => simp
  | append_singleton l a _ =>
    have below := (List.pairwise_append.1 ascends).2.2
    rw [List.foldl_append]
    constructor
    · intro le n mem
      rcases List.mem_append.1 mem with mem | mem
      · exact (below n mem a (List.mem_singleton_self a)).trans le
      · rw [List.mem_singleton.1 mem]
        exact le
    · exact fun all => all a (by simp)

/-- A lane in use lies beyond the record's lanes exactly where the lanes needed are more (R73, test 3). -/
theorem lt_lanesNeeded_iff (s : State) (m : Nat) :
    m < s.lanesNeeded ↔ ∃ n l, m ≤ n ∧ s.lane n = some l ∧ l.state ≠ .free := by
  rw [← not_le]
  unfold State.lanesNeeded
  rw [foldl_last_le_iff _ (List.pairwise_lt_range.filter _)]
  simp only [List.mem_filter, List.mem_range, not_forall, not_lt]
  constructor
  · rintro ⟨n, ⟨below, busy⟩, le⟩
    cases lane : s.lane n with
    | none => simp [lane] at busy
    | some l => exact ⟨n, l, le, lane, by simpa [lane] using busy⟩
  · rintro ⟨n, l, le, lane, busy⟩
    exact ⟨n, ⟨(List.getElem?_eq_some_iff.1 lane).1, by simp [lane, busy]⟩, le⟩

theorem loadSite_start (s : State) (start : Nat) (bs : List Byte) (other : start ≠ 0) :
    s.loadSite start bs = .error .badValue :=
  if_pos other

/-- The tests on a record that is read (R73). -/
theorem loadSite_read (s : State) (bs : List Byte) (x : Site) (read : readSite bs = some x) : s.loadSite 0 bs =
    if x.inRange && distinctStations x.stations (s.carouselStations (fun _ => true) ++ s.ownLine) then
      if x.laneReaders.length < s.lanesNeeded then .error .inUse else .ok (s.acceptSite x)
    else .error .badValue := by
  unfold State.loadSite
  rw [if_neg (not_not.2 rfl), read]

/-! ## The lanes offered (R96) -/

/-- The part with the record and its lanes, before the lanes added are offered. -/
def State.sited (s : State) (x : Site) : State :=
  { s with
    putAway := { s.putAway with site := some x }
    consolidation := { s.consolidation with
      lanes := s.consolidation.lanes.take x.laneReaders.length ++
        List.replicate (x.laneReaders.length - s.consolidation.lanes.length) ({} : Lane) } }

theorem offerLanes_none_wait (l : List Nat) (s : State) (empty : s.orderUnit.laneWait = []) : l.foldl State.offerLane s = s := by
  induction l with
  | nil => rfl
  | cons n l ih => rw [List.foldl_cons, (offerLane_offers s n).1 empty, ih]

/-- With no order waiting the lanes added stay FREE. -/
theorem acceptSite_none_wait (s : State) (x : Site) (empty : s.orderUnit.laneWait = []) : s.acceptSite x = s.sited x :=
  offerLanes_none_wait _ (s.sited x) empty

/-- The numbers of the lanes added, lowest first. -/
theorem lanes_added (had count : Nat) (more : had < count) : ∃ rest,
    ((List.range count).filter fun n => decide (had ≤ n)) = had :: rest := by
  obtain ⟨extra, rfl⟩ := Nat.exists_eq_add_of_lt more
  have split : List.range (had + extra + 1) = List.range had ++ had :: List.range' (had + 1) extra := by
    rw [← List.range'_succ, Nat.add_assoc, List.range_add, List.range'_eq_map_range]
  have below : ((List.range had).filter fun n => decide (had ≤ n)) = [] := by
    simp
  rw [split, List.filter_append, below, List.nil_append, List.filter_cons_of_pos (by simp)]
  exact ⟨_, rfl⟩

/-- The part once the lane `n` is the order's, before the tasks it holds are handed out. -/
def State.assigned (s : State) (n number total : Nat) : State :=
  (({ s with orderUnit := { s.orderUnit with laneWait := [] } } : State).modLane n fun _ =>
    { state := .filling, order := some number, expected := total }).modOrder number fun o =>
      { o with lane := some n, state := .picking, held := [] }

theorem assignLane_follows (s : State) (n number : Nat) (o : Order) (waits : s.orderUnit.laneWait = [number])
    (order : s.order number = some o) : (s.assigned n number o.total).Follows (s.offerLane n) := by
  unfold State.offerLane
  rw [waits]
  dsimp only
  unfold State.assignLane
  rw [show ({ s with orderUnit := { s.orderUnit with laneWait := [] } } : State).order number = some o from order]
  exact State.follows_foldl _ State.follows_joinTail _ _

/-- The one order that waits takes the first lane added. -/
theorem acceptSite_follows (s : State) (x : Site) (number : Nat) (o : Order) (waits : s.orderUnit.laneWait = [number])
    (order : s.order number = some o) (more : s.consolidation.lanes.length < x.laneReaders.length) :
    ((s.sited x).assigned s.consolidation.lanes.length number o.total).Follows (s.acceptSite x) := by
  obtain ⟨rest, added⟩ := lanes_added _ _ more
  have first := assignLane_follows (s.sited x) s.consolidation.lanes.length number o waits order
  have all : s.acceptSite x = (((List.range x.laneReaders.length).filter fun n =>
      decide (s.consolidation.lanes.length ≤ n)).foldl State.offerLane (s.sited x)) := rfl
  rw [all, added, List.foldl_cons, offerLanes_none_wait rest _ first.laneWait]
  exact first

/-- The first lane added, once it is given to an order. -/
theorem sited_assigned_lane (s : State) (x : Site) (number total : Nat)
    (more : s.consolidation.lanes.length < x.laneReaders.length) :
    ((s.sited x).assigned s.consolidation.lanes.length number total).lane s.consolidation.lanes.length =
      some { state := .filling, order := some number, expected := total } := by
  have new : (s.sited x).consolidation.lanes[s.consolidation.lanes.length]? = some {} := by
    show (s.consolidation.lanes.take _ ++ List.replicate _ _)[s.consolidation.lanes.length]? = _
    rw [List.take_of_length_le more.le, List.getElem?_append_right le_rfl, Nat.sub_self, List.getElem?_replicate,
      if_pos (Nat.sub_pos_of_lt more)]
  show ((s.sited x).consolidation.lanes.modify _ _)[s.consolidation.lanes.length]? = _
  rw [List.getElem?_modify, new]
  exact congrArg some (if_pos rfl)

/-- The order that takes it. -/
theorem assigned_order (s : State) (n number total : Nat) : (s.assigned n number total).order number =
    (s.order number).map fun o => { o with lane := some n, state := .picking, held := [] } := by
  unfold State.assigned
  rw [order_modOrder]
  · rfl
  · exact fun _ => rfl

/-- Settles O45: the row loads the one entry by the tests of `loadSite`; a waiting order takes the first lane added, and the
follow-ups keep lane, order and record. -/
theorem siteEntryLoads : Obligations.SiteEntryLoads := by
  intro s f start bs bounded keyed q asked refused
  have row : exec .tableLoadSite s = .next (s.serve f fun s => s.tableLoad State.loadSite start [bs]) :=
    congrArg _ (onRequest_asked asked rfl)
  have refuses : ∀ r, s.takeRequest.loadSite start bs = .error r → refused r := fun r h =>
    row.trans (congrArg _ (serve_tableLoad_error q f h))
  refine ⟨fun other => refuses _ (loadSite_start _ _ _ other), fun x zero read => ?_⟩
  subst zero
  intro stations others ok used
  have loads := loadSite_read s.takeRequest bs x read
  have ok_iff : (x.inRange && distinctStations x.stations
      (s.takeRequest.carouselStations (fun _ => true) ++ s.takeRequest.ownLine)) = true ↔ ok := by
    rw [Bool.and_eq_true, Site.inRange_iff, distinctStations_iff]
    show _ ↔ _ ∧ _
    tauto
  have used_iff : x.laneReaders.length < s.takeRequest.lanesNeeded ↔ used := lt_lanesNeeded_iff s.takeRequest _
  have accepted : ok → ¬used → s.takeRequest.loadSite 0 bs = .ok (s.takeRequest.acceptSite x) := fun fine free => by
    rw [loads, if_pos (ok_iff.2 fine), if_neg (mt used_iff.1 free)]
  refine ⟨fun bad => refuses _ (loads.trans (if_neg (mt ok_iff.1 bad))),
    fun fine busy => refuses _ (loads.trans ((if_pos (ok_iff.2 fine)).trans (if_pos (used_iff.2 busy)))),
    fun fine free => ⟨fun empty => ?_, fun number o waits order more => ?_⟩⟩
  · have done := (accepted fine free).trans (congrArg _ (acceptSite_none_wait s.takeRequest x empty))
    exact row.trans (congrArg _ (serve_tableLoad_ok_quiet f done q))
  · have follows := (acceptSite_follows s.takeRequest x number o waits order more).trans (State.settle_follows _)
    have same := follows.order number
    rw [assigned_order, show (s.takeRequest.sited x).order number = some o from order] at same
    obtain ⟨o', found, fixed⟩ := Option.map_eq_some_iff.1 same
    refine ⟨_, row.trans (congrArg _ (serve_tableLoad_ok f (accepted fine free))), ?_, follows.laneWait, ?_, ?_, ?_,
      follows.articles, follows.balances⟩
    · rw [follows.putAway]
      rfl
    · rw [State.lane, follows.lanes]
      exact sited_assigned_lane s.takeRequest x number o.total more
    · rw [found]
      exact congrArg some (congrArg Order.lane fixed :)
    · rw [found]
      exact congrArg some (congrArg Order.state fixed :)

end Sys2Proof.Machine
end

section
/-! An infeed read that a group of the pending list takes (O29): the group chosen (R77) and the tyre cross-docked to it (R78,
R131, R132). -/

namespace Sys2Proof.Machine

/-! ## The group that can take the tyre (R77) -/

theorem windowAdmits_iff (w : Option Window) (tolerance x : Nat) :
    windowAdmits w tolerance x = true ↔ ∀ v, w = some v → max v.high x - min v.low x ≤ tolerance := by
  cases w <;> simp [windowAdmits]

theorem canTake_iff (s : State) (y : Tyre) (q : GroupRef) : s.canTake y q = true ↔
    ∃ h w, s.group q = some h ∧ s.order q.order = some w ∧ s.groupArticle q = y.article ∧ 1 ≤ h.need ∧ w.lane ≠ none ∧
      w.state ≠ .laneWait ∧ w.state ≠ .withdrawn ∧
      ∀ v, h.window = some v → max v.high y.batch - min v.low y.batch ≤ s.tolerance y.article := by
  unfold State.canTake
  cases s.order q.order with
  | none => simp
  | some w =>
    cases s.group q with
    | none => simp
    | some h => simp [windowAdmits_iff, and_assoc, Option.isSome_iff_ne_none]

theorem find_split {α : Type} (pick : α → Bool) (a b : List α) (x : α) (before : ∀ y ∈ a, pick y = false)
    (this : pick x = true) : (a ++ x :: b).find? pick = some x := by
  rw [List.find?_append, List.find?_eq_none.2 fun y mem => by simp [before y mem], List.find?_cons_of_pos this,
    Option.none_or]

/-! ## The tyre cross-docked (R78) -/

/-- The group once it has taken a tyre of a batch. -/
def Group.crossed (g : Group) (batch : Nat) : Group :=
  { g with need := g.need - 1, picked := g.picked + 1, window := widen g.window batch }

/-- The group takes the tyre, and leaves the pending list where that was its last need. -/
def State.crossed (s : State) (ref : GroupRef) (batch : Nat) : State :=
  let s1 := s.modGroup ref (·.crossed batch)
  if (s1.group ref).map Group.need = some 0 then
    { s1 with orderUnit := { s1.orderUnit with pending := s1.orderUnit.pending.filter (· != ref) } }
  else s1

section Crossed

variable (s : State) (ref : GroupRef) (batch : Nat)

theorem crossed_frame : s.crossed ref batch = { s with orderUnit := (s.crossed ref batch).orderUnit } := by
  unfold State.crossed
  dsimp only
  split <;> rfl

/-- What it does to the order unit follows from the order unit. -/
theorem crossed_orderUnit_congr (t : State) (same : t.orderUnit = s.orderUnit) :
    (t.crossed ref batch).orderUnit = (s.crossed ref batch).orderUnit := by
  have unit : (t.modGroup ref (·.crossed batch)).orderUnit = (s.modGroup ref (·.crossed batch)).orderUnit := by
    simp only [State.modGroup, State.modOrder_orderUnit, same]
  have group : (t.modGroup ref (·.crossed batch)).group ref = (s.modGroup ref (·.crossed batch)).group ref := by
    unfold State.group State.order
    rw [unit]
  unfold State.crossed
  dsimp only
  rw [apply_ite State.orderUnit, apply_ite State.orderUnit, group]
  dsimp only
  rw [unit]

theorem crossed_pool_retry : (s.crossed ref batch).orderUnit.pool = s.orderUnit.pool ∧
    (s.crossed ref batch).orderUnit.retry = s.orderUnit.retry := by
  unfold State.crossed
  dsimp only
  split <;> exact ⟨rfl, rfl⟩

variable (g : Group) (group : s.group ref = some g)
include group

theorem modGroup_crossed : (s.modGroup ref (·.crossed batch)).group ref = some (g.crossed batch) := by
  rw [group_modGroup, group]
  · rfl
  · exact fun _ => rfl

theorem crossed_group : (s.crossed ref batch).group ref = some (g.crossed batch) := by
  have taken := modGroup_crossed s ref batch g group
  unfold State.crossed
  dsimp only
  split <;> exact taken

theorem crossed_pending : (s.crossed ref batch).orderUnit.pending =
    if g.need - 1 = 0 then s.orderUnit.pending.filter (· != ref) else s.orderUnit.pending := by
  have last : ((s.modGroup ref (·.crossed batch)).group ref).map Group.need = some 0 ↔ g.need - 1 = 0 := by
    rw [modGroup_crossed s ref batch g group, Option.map_some, Option.some.injEq]
    rfl
  unfold State.crossed
  dsimp only
  split
  · next is_last => exact (if_pos (last.1 is_last)).symm
  · next more => exact (if_neg (mt last.2 more)).symm

end Crossed

/-- A ROUTE is built with no regard to the order unit. -/
theorem sendRoute_orderUnit (s : State) (o : OrderUnit) (source : ConveyorSource) (dest : RouteTo) (tyre : Tyre)
    (entry : Option Nat) : ({ s with orderUnit := o } : State).sendRoute source dest tyre entry =
      { s.sendRoute source dest tyre entry with orderUnit := o } := by
  unfold State.sendRoute State.build State.joinFifo
  dsimp only [State.takeTag]
  split
  · rfl
  · rw [if_neg (show ¬kindRoute = kindIndicate by decide), if_neg (show ¬kindRoute = kindIndicate by decide)]
    unfold State.dropFrame State.reportLost
    cases entry <;> rfl

/-- A tyre cross-docked: the entry with its ROUTE, and the group (R78). -/
theorem crossDock_eq (s : State) (ref : GroupRef) (y : Tyre) (time : Nat) (room : s.consolidation.transit.length < 64) :
    ∃ (place : Nat) (fifo : List OutFrame) (lost : Bool), place < 64 ∧ (∀ x ∈ s.consolidation.transit, x.place ≠ place) ∧
      FifoTakes s.outbox.fifo {
        dest := s.diverter, kind := kindRoute, tag := s.outbox.tagCounter
        payload := routePayload .infeed (.lane (s.laneOf ref.order)) y
        entry := some s.consolidation.nextSerial } fifo lost ∧
      s.crossDock ref y time = { s with
        orderUnit := (s.crossed ref y.batch).orderUnit
        outbox := { s.outbox with tagCounter := s.outbox.tagCounter + 1, fifo }
        line := { s.line with errors := { s.line.errors with full := s.line.errors.full || lost } }
        consolidation := { s.consolidation with
          transit := s.consolidation.transit.map (fun x =>
            if lost = true ∧ x.serial = s.consolidation.nextSerial then { x with unrouted := true } else x) ++
              [{ place, serial := s.consolidation.nextSerial, group := ref, tyre := y, lane := s.laneOf ref.order
                 source := .infeed, deadline := time + s.transitMs, unrouted := lost }]
          reserved := s.consolidation.reserved - 1
          nextSerial := s.consolidation.nextSerial + 1 }
        choices := s.choices + 1 } := by
  obtain ⟨place, fifo, lost, lt, free, takes, sent⟩ := fillEntry_sendRoute s ref y (s.laneOf ref.order) .infeed
    (time + s.transitMs) (.lane (s.laneOf ref.order)) room
  refine ⟨place, fifo, lost, lt, free, takes, ?_⟩
  obtain ⟨place', _, _, filled⟩ := fillEntry_filled s ref y (s.laneOf ref.order) .infeed (time + s.transitMs) room
  have unit : (s.fillEntry ref y (s.laneOf ref.order) .infeed (time + s.transitMs)).1.orderUnit = s.orderUnit := by
    rw [filled]
  have crosses : s.crossDock ref y time =
      ((s.fillEntry ref y (s.laneOf ref.order) .infeed (time + s.transitMs)).1.crossed ref y.batch).sendRoute .infeed
        (.lane (s.laneOf ref.order)) y
        (some (s.fillEntry ref y (s.laneOf ref.order) .infeed (time + s.transitMs)).2) := rfl
  rw [crosses, crossed_frame, crossed_orderUnit_congr s ref y.batch _ unit, sendRoute_orderUnit, sent]

/-- Put-away without the read it takes (R75). -/
def State.readTaken (s : State) (rest : List InfeedRead) : State :=
  { s with putAway := { s.putAway with reads := rest } }

theorem infeedRead_cons (s : State) (r : InfeedRead) (rest : List InfeedRead) (reads : s.putAway.reads = r :: rest) :
    s.infeedRead = (s.readTaken rest).handleInfeed r := by
  unfold State.infeedRead
  rw [reads]
  rfl

/-- The part with one transit entry more reserved (R130). -/
def State.reservedOne (s : State) : State :=
  { s with consolidation := { s.consolidation with reserved := s.consolidation.reserved + 1 } }

theorem grant_one (s : State) (room : s.consolidation.transit.length + s.consolidation.reserved < 64) :
    s.grant 1 = some s.reservedOne :=
  if_pos room

/-- A read of one tyre of a known article that a group takes. -/
theorem handleInfeed_taken (s t : State) (r : InfeedRead) (x : Tally) (art : Article) (read : r.tallies = [x])
    (one : x.count = 1) (known : s.article x.article = some art)
    (given : s.tryCrossDock { article := x.article, batch := x.batch } r.time = (t, true)) : s.handleInfeed r = t := by
  unfold State.handleInfeed
  rw [read]
  dsimp only
  rw [if_pos one, known]
  dsimp only
  rw [given]

theorem tryCrossDock_crosses (s : State) (y : Tyre) (time : Nat) (a b : List GroupRef) (ref : GroupRef)
    (room : s.consolidation.transit.length + s.consolidation.reserved < 64) (pending : s.orderUnit.pending = a ++ ref :: b)
    (able : s.canTake y ref = true) (before : ∀ q ∈ a, s.canTake y q = false) :
    s.tryCrossDock y time = (s.reservedOne.crossDock ref y time, true) := by
  have found : s.reservedOne.orderUnit.pending.find? (s.reservedOne.canTake y) = some ref :=
    (congrArg (List.find? _) pending).trans (find_split _ a b ref before able)
  unfold State.tryCrossDock
  rw [grant_one s room]
  dsimp only
  rw [found]

/-- The transit entry of a cross-dock (R78, R131). -/
def State.crossEntry (s : State) (ref : GroupRef) (y : Tyre) (time place : Nat) (lost : Bool) : TransitEntry :=
  { place, serial := s.consolidation.nextSerial, group := ref, tyre := y, lane := s.laneOf ref.order, source := .infeed
    deadline := time + s.transitMs, unrouted := lost }

/-- The read that the first able group takes. -/
theorem infeedRead_crosses (s : State) (r : InfeedRead) (rest : List InfeedRead) (x : Tally) (art : Article)
    (a b : List GroupRef) (ref : GroupRef) (reads : s.putAway.reads = r :: rest) (read : r.tallies = [x])
    (one : x.count = 1) (known : s.article x.article = some art)
    (room : s.consolidation.transit.length + s.consolidation.reserved < 64) (pending : s.orderUnit.pending = a ++ ref :: b)
    (able : s.canTake { article := x.article, batch := x.batch } ref = true)
    (before : ∀ q ∈ a, s.canTake { article := x.article, batch := x.batch } q = false) :
    ∃ (place : Nat) (fifo : List OutFrame) (lost : Bool), place < 64 ∧ (∀ x ∈ s.consolidation.transit, x.place ≠ place) ∧
      FifoTakes s.outbox.fifo {
        dest := s.diverter, kind := kindRoute, tag := s.outbox.tagCounter
        payload := routePayload .infeed (.lane (s.laneOf ref.order)) { article := x.article, batch := x.batch }
        entry := some s.consolidation.nextSerial } fifo lost ∧
      s.infeedRead = { s with
        putAway := { s.putAway with reads := rest }
        orderUnit := (s.crossed ref x.batch).orderUnit
        outbox := { s.outbox with tagCounter := s.outbox.tagCounter + 1, fifo }
        line := { s.line with errors := { s.line.errors with full := s.line.errors.full || lost } }
        consolidation := { s.consolidation with
          transit := s.consolidation.transit.map (fun x =>
            if lost = true ∧ x.serial = s.consolidation.nextSerial then { x with unrouted := true } else x) ++
              [s.crossEntry ref { article := x.article, batch := x.batch } r.time place lost]
          nextSerial := s.consolidation.nextSerial + 1 }
        choices := s.choices + 1 } := by
  obtain ⟨place, fifo, lost, lt, free, takes, crossed⟩ := crossDock_eq (s.readTaken rest).reservedOne ref
    { article := x.article, batch := x.batch } r.time (show s.consolidation.transit.length < 64 by omega)
  refine ⟨place, fifo, lost, lt, free, takes, ?_⟩
  rw [infeedRead_cons s r rest reads, handleInfeed_taken (s.readTaken rest) _ r x art read one known
    (tryCrossDock_crosses (s.readTaken rest) _ r.time a b ref room pending able before), crossed,
    crossed_orderUnit_congr s ref x.batch (s.readTaken rest).reservedOne rfl]
  rfl

/-- Settles O29: the walk of the pending list ends at the first able group, which takes the tyre; nothing is noted, so there
are no follow-ups. -/
theorem infeedCrossDocks : Obligations.InfeedCrossDocks := by
  intro s r rest x art a b ref g o lane bounded q reads read one known room pending group order has_lane y canTake able before
  have can_iff : ∀ p, s.canTake y p = true ↔ canTake p := fun p => by
    rw [canTake_iff, State.tolerance, known]
  obtain ⟨place, fifo, lost, lt, free, takes, now⟩ := infeedRead_crosses s r rest x art a b ref reads read one known room
    pending ((can_iff ref).2 able) fun p mem => Bool.eq_false_iff.2 (mt (can_iff p).1 (before p mem))
  have lane_of : s.laneOf ref.order = lane := by
    unfold State.laneOf
    rw [order, Option.bind_some, has_lane]
  obtain ⟨pool, retry⟩ := crossed_pool_retry s ref x.batch
  have quiet : s.infeedRead.quiet := by
    rw [now]
    exact ⟨q.1, retry.trans q.2⟩
  have unit : s.infeedRead.orderUnit = (s.crossed ref x.batch).orderUnit := by rw [now]
  have grouped : s.infeedRead.group ref = some (g.crossed x.batch) := by
    rw [← crossed_group s ref x.batch g group, State.group, State.order, unit]
    rfl
  have listed := crossed_pending s ref x.batch g group
  obtain ⟨h, _, there, _, _, need, _⟩ := able
  rw [group] at there
  cases there
  refine ⟨s.infeedRead, s.crossEntry ref y r.time place lost, lost, congrArg _ (State.settle_of_quiet _ quiet), ?_, ?_, lt,
    free, rfl, rfl, lane_of, rfl, rfl, rfl, ?_, fun last => ?_, fun more => ?_, ⟨fifo, ?_, ?_⟩, ?_, ?_, ?_, ?_, ?_, ?_⟩
  · rw [now]
  · rw [now]
    rfl
  · rw [grouped, Group.crossed]
    cases g.window <;> rfl
  · rw [unit, listed, if_pos (by omega)]
    simp
  · rw [unit, listed, if_neg (by omega)]
  · subst lane_of
    exact takes
  · rw [now]
  · rw [now]
  · rw [now]
  · rw [now]
  · rw [now]
  · rw [now]
  · rw [unit]
    exact pool

end Sys2Proof.Machine
end

section
/-! What the follow-ups of a step do to the line FIFO: a service point puts one frame at most into it, and no follow-up takes
a ROUTE out of it (R164). -/

namespace Sys2Proof.Machine

/-! ## One frame -/

/-- The FIFO takes one frame at most, and loses no ROUTE: `l` is the FIFO before, `m` after. -/
structure Feeds (l m : List OutFrame) : Prop where
  length : m.length ≤ l.length + 1
  routes : ∀ h ∈ l, h.kind = kindRoute → h ∈ m

theorem Feeds.refl (l : List OutFrame) : Feeds l l := ⟨Nat.le_succ _, fun _ mem _ => mem⟩

theorem Feeds.of_eq {l m : List OutFrame} (same : m = l) : Feeds l m := same ▸ Feeds.refl l

theorem replaceLast_length_mem {α : Type} (pick : α → Bool) (new : α) : ∀ l m, replaceLast pick new l = some m →
    m.length = l.length ∧ ∀ y ∈ l, pick y = false → y ∈ m
  | [], m, h => by cases h
  | x :: xs, m, h => by
    unfold replaceLast at h
    split at h
    · next later found =>
      cases h
      obtain ⟨length, mem⟩ := replaceLast_length_mem pick new xs later found
      refine ⟨congrArg Nat.succ length, fun y hy no => ?_⟩
      rcases List.mem_cons.1 hy with rfl | hy
      · exact List.mem_cons_self
      · exact List.mem_cons_of_mem _ (mem y hy no)
    · split at h
      · next picked =>
        cases h
        refine ⟨rfl, fun y hy no => ?_⟩
        rcases List.mem_cons.1 hy with rfl | hy
        · rw [picked] at no
          cases no
        · exact List.mem_cons_of_mem _ hy
      · cases h

theorem dropFrame_outbox (s : State) (f : OutFrame) : (s.dropFrame f).outbox = s.outbox := by
  have lost : ((s.lineError .full).reportLost f).outbox = s.outbox := by
    unfold State.reportLost
    split <;> rfl
  unfold State.dropFrame
  dsimp only
  split
  · exact lost
  · rw [notify_frame]
    exact lost

theorem joinFifo_feeds (s : State) (f : OutFrame) : Feeds s.outbox.fifo (s.joinFifo f).outbox.fifo := by
  unfold State.joinFifo
  split
  · exact ⟨by simp, fun h mem _ => List.mem_append_left _ mem⟩
  · split
    · split
      · next m replaced =>
        obtain ⟨length, mem⟩ := replaceLast_length_mem _ f _ m replaced
        refine ⟨by rw [length]; exact Nat.le_succ _, fun h hm route => mem h hm ?_⟩
        rw [route]
        rfl
      · exact .of_eq (by rw [dropFrame_outbox])
    · exact .of_eq (by rw [dropFrame_outbox])

theorem build_feeds (s : State) (dest kind : Byte) (payload : List Byte) (entry : Option Nat) :
    Feeds s.outbox.fifo (s.build dest kind payload entry).outbox.fifo :=
  joinFifo_feeds s.takeTag.2 _

theorem indicate_feeds (s : State) (c b : Nat) (a : Indication) (q w : Nat) :
    Feeds s.outbox.fifo (s.indicate c b a q w).outbox.fifo := by
  unfold State.indicate
  split
  · exact build_feeds s _ _ _ _
  · exact .refl _

theorem indicateTask_feeds (s : State) (c : Nat) (k : Task) : Feeds s.outbox.fifo (s.indicateTask c k).outbox.fifo := by
  unfold State.indicateTask
  split <;> exact indicate_feeds s _ _ _ _ _

theorem sendScan_feeds (s : State) (c carrier : Nat) : Feeds s.outbox.fifo (s.sendScan c carrier).outbox.fifo := by
  unfold State.sendScan
  split
  · exact build_feeds s _ _ _ _
  · exact .refl _

/-! ## Service points (R58) -/

theorem present_feeds (s : State) (c : Nat) : Feeds s.outbox.fifo (s.present c).outbox.fifo := by
  unfold State.present
  split
  · next id _ =>
    dsimp only
    split
    · next k _ =>
      exact indicateTask_feeds ((s.taskState id .presenting).modCar c fun x =>
        { x with state := .presenting, presentationTimer := some (s.now + s.presentationMs) }) c k
    · exact .refl _
  · split
    · exact sendScan_feeds (s.modCar c fun k => { k with state := .presenting }) c _
    · exact .refl _
  · exact .refl _

theorem startMove_fifo (s t : State) (c level target : Nat) (h : s.startMove c level target = some t) :
    t.outbox.fifo = s.outbox.fifo := by
  unfold State.startMove at h
  split at h
  · dsimp only at h
    split at h <;> cases h <;> rfl
  · cases h

theorem enterWait_fifo (s : State) (c level : Nat) : (s.enterWait c level).outbox.fifo = s.outbox.fifo := by
  unfold State.enterWait
  dsimp only
  split <;> rfl

theorem beginWork_feeds (s : State) (c : Nat) (w : Work) (level target : Nat) :
    Feeds s.outbox.fifo (s.beginWork c w level target).outbox.fifo := by
  unfold State.beginWork
  dsimp only
  split
  · exact present_feeds (s.modCar c fun k => { k with inService := some w }) c
  · split
    · next moved => exact .of_eq (startMove_fifo (s.modCar c fun k => { k with inService := some w }) _ c level target moved)
    · exact .of_eq (enterWait_fifo (s.modCar c fun k => { k with inService := some w }) c level)

theorem releaseTransit_fifo (s t : State) (id : Nat) (k : Task) (h : s.releaseTransit id k = some t) :
    t.outbox.fifo = s.outbox.fifo := by
  unfold State.releaseTransit at h
  split at h
  · obtain ⟨u, granted, rfl⟩ := Option.map_eq_some_iff.1 h
    unfold State.grant at granted
    split at granted
    · cases granted
      rfl
    · cases granted
  · cases h
    rfl

/-- Only an attempt that succeeds puts a frame into the FIFO. -/
theorem attemptRelease_feeds (s : State) (c id : Nat) (k : Task) :
    Feeds s.outbox.fifo (s.attemptRelease c id k).1.outbox.fifo ∧
      ((s.attemptRelease c id k).2 = false → (s.attemptRelease c id k).1.outbox.fifo = s.outbox.fifo) := by
  unfold State.attemptRelease
  split
  · split
    · next t granted =>
      refine ⟨?_, nofun⟩
      rw [← releaseTransit_fifo s t id k granted]
      exact beginWork_feeds (t.modCar c fun x => x.unqueue id) c _ _ _
    · exact ⟨.refl _, fun _ => rfl⟩
  · exact ⟨.refl _, fun _ => rfl⟩

theorem walk_feeds (c : Nat) (l : List Nat) (s : State) : Feeds s.outbox.fifo (State.walk c l s).1.outbox.fifo ∧
    ((State.walk c l s).2 = false → (State.walk c l s).1.outbox.fifo = s.outbox.fifo) := by
  induction l generalizing s with
  | nil => exact ⟨.refl _, fun _ => rfl⟩
  | cons id rest ih =>
    unfold State.walk
    split
    · exact ih s
    · next k _ =>
      split
      · obtain ⟨fed, same⟩ := attemptRelease_feeds s c id k
        split
        · next released =>
          rw [released] at fed
          exact ⟨fed, nofun⟩
        · next failed =>
          rw [failed] at same
          rw [← same rfl]
          exact ih _
      · exact ih s

theorem servicePoint_feeds (s : State) (c : Nat) : Feeds s.outbox.fifo (s.servicePoint c).outbox.fifo := by
  unfold State.servicePoint
  split
  · obtain ⟨fed, same⟩ := walk_feeds c (s.car c).walkOrder s
    split
    · next released =>
      rw [released] at fed
      exact fed
    · next u failed =>
      rw [failed] at same
      rw [← same rfl]
      unfold State.releaseStep
      split
      · split
        · exact beginWork_feeds u c _ _ _
        · exact .refl _
      · exact .refl _
  · exact .refl _

theorem joinTail_feeds (s : State) (id : Nat) : Feeds s.outbox.fifo (s.joinTail id).outbox.fifo := by
  unfold State.joinTail
  split
  · next k _ => exact servicePoint_feeds (s.modCar k.bay.carousel fun x => x.modQueue k.level (· ++ [id])) _
  · exact .refl _

/-! ## No ROUTE is taken out -/

/-- Every ROUTE of the FIFO stays in it. -/
def State.KeepsRoutes (s t : State) : Prop :=
  ∀ h ∈ s.outbox.fifo, h.kind = kindRoute → h ∈ t.outbox.fifo

namespace State.KeepsRoutes

theorem of_outbox {s t : State} (same : t.outbox = s.outbox) : s.KeepsRoutes t := fun _ mem _ => same ▸ mem

theorem refl (s : State) : s.KeepsRoutes s := of_outbox rfl

theorem trans {s t u : State} (a : s.KeepsRoutes t) (b : t.KeepsRoutes u) : s.KeepsRoutes u :=
  fun h mem route => b h (a h mem route) route

theorem foldl {α : Type} (f : State → α → State) (h : ∀ (s : State) a, s.KeepsRoutes (f s a)) (l : List α) (s : State) :
    s.KeepsRoutes (l.foldl f s) := by
  induction l generalizing s with
  | nil => exact refl s
  | cons a l ih => exact (h s a).trans (ih _)

theorem servicePoints (s : State) (l : List Nat) : s.KeepsRoutes (s.servicePoints l) := by
  have arranged : s.KeepsRoutes (s.arrange (l.filter s.idleReady)).2 := of_outbox (by
    unfold State.arrange
    split <;> rfl)
  exact arranged.trans (foldl _ (fun u c => (servicePoint_feeds u c).routes) _ _)

theorem placeTask (o : Order) (s : State) (id : Nat) : s.KeepsRoutes (s.placeTask o id) := by
  unfold State.placeTask
  split
  · exact of_outbox rfl
  · exact (joinTail_feeds s id).routes

theorem reservePlan (article : Nat) (plan made : List Draw) (s : State) :
    match s.reservePlan article plan made with
    | .ok t => s.KeepsRoutes t
    | .error x => s.KeepsRoutes x.2 := by
  induction plan generalizing s made with
  | nil => exact refl s
  | cons d ds ih =>
    unfold State.reservePlan
    cases claim : s.reserve d.bay { article, batch := d.batch } d.quantity with
    | none =>
      exact foldl (fun s (m : Draw) => s.reserveRelease m.bay m.quantity) (fun u m => of_outbox (by
        unfold State.reserveRelease
        split <;> rfl)) _ _
    | some u =>
      have first : s.KeepsRoutes u := of_outbox (by
        unfold State.reserve at claim
        dsimp only at claim
        split at claim
        · cases claim
          rfl
        · cases claim)
      have rest := ih (made ++ [d]) u
      dsimp only
      revert rest
      cases u.reservePlan article ds (made ++ [d]) with
      | ok t => exact first.trans
      | error x => exact first.trans

theorem allocated (s : State) (o : Order) (ref : GroupRef) (plan : List Draw) (ids : List Nat) :
    s.KeepsRoutes (s.allocated o ref plan ids) := by
  unfold State.allocated
  refine trans ?_ (foldl _ (placeTask o) _ _)
  exact foldl (fun s (x : Nat × Draw) => s.setTask x.1 (some (pickTask o ref x.2))) (fun u x => of_outbox rfl) _ s

theorem allocate (ref : GroupRef) (fuel : Nat) (out : List BayId) (s : State) :
    s.KeepsRoutes (State.allocate ref fuel out s).1 := by
  induction fuel generalizing s out with
  | zero => exact refl s
  | succ fuel ih =>
    unfold State.allocate
    split
    · next o g _ _ =>
      dsimp only
      split
      · exact refl s
      · next x _ =>
        split
        · exact refl s
        · generalize planDraws g.need _ = plan
          have kept := reservePlan (s.groupArticle ref) plan [] s
          revert kept
          cases s.reservePlan (s.groupArticle ref) plan [] with
          | ok u => exact fun kept => kept.trans (allocated u o ref plan _)
          | error y => exact fun kept => kept.trans (ih _ _)
    · exact refl s

theorem runRetries (n : Nat) (s : State) : s.KeepsRoutes (State.runRetries n s) := by
  induction n generalizing s with
  | zero => exact refl s
  | succ n ih =>
    unfold State.runRetries
    split
    · exact refl s
    · refine trans ?_ (ih _)
      have noted : s.KeepsRoutes { s with orderUnit := { s.orderUnit with retry := .none } } := of_outbox rfl
      refine noted.trans (foldl (State.retryGroup s.orderUnit.retry) (fun u ref => ?_) _ _)
      unfold State.retryGroup
      split
      · exact allocate ref _ _ u
      · exact refl u

/-- The follow-ups of a step take no ROUTE out of the FIFO. -/
theorem settle (s : State) : s.KeepsRoutes s.settle := by
  have agenda : ∀ (u : State) (a : Agenda), u.KeepsRoutes { u with agenda := a } := fun _ _ => of_outbox rfl
  unfold State.settle State.servePoints
  refine trans (trans ?_ (runRetries 4 _)) ((agenda _ _).trans (servicePoints _ _))
  unfold State.serveFreed
  split
  · exact (agenda _ _).trans (servicePoints _ _)
  · exact refl s

end State.KeepsRoutes

end Sys2Proof.Machine
end

section
/-! An infeed read that no group takes (O30): placement in the chosen bay (R79 to R81), or overflow with PUT-REFUSED (R76,
R82). -/

namespace Sys2Proof.Machine

/-! ## Overflow (R76, R82, R83) -/

/-- The ROUTE of a tyre that enters at the infeed. -/
def State.infeedRoute (s : State) (dest : RouteTo) (y : Tyre) : OutFrame :=
  { dest := s.diverter, kind := kindRoute, tag := s.outbox.tagCounter, payload := routePayload .infeed dest y }

theorem sendRoute_room (s : State) (dest : RouteTo) (y : Tyre) (room : s.outbox.fifo.length < 32) :
    s.sendRoute .infeed dest y = { s with outbox := { s.outbox with
      tagCounter := s.outbox.tagCounter + 1, fifo := s.outbox.fifo ++ [s.infeedRoute dest y] } } :=
  if_pos room

/-- A read sent to overflow: its ROUTE at the tail of the FIFO, and PUT-REFUSED. -/
theorem overflow_eq (s : State) (reason : PutRefusal) (y : Tyre) (shown : Option Tyre) (room : s.outbox.fifo.length < 32) :
    s.overflow reason y shown = { s with
      outbox := { s.outbox with
        tagCounter := s.outbox.tagCounter + 1, fifo := s.outbox.fifo ++ [s.infeedRoute (.overflow s.overflowCode) y] }
      link := (s.notify (.putRefused reason shown)).link } := by
  unfold State.overflow
  rw [sendRoute_room s _ y room]
  exact notify_eq s _ _ rfl

/-- A read with no or several tallies, or with one of several tyres, is a BAD-READ (R76). -/
theorem handleInfeed_bad (s : State) (r : InfeedRead) (bad : ∀ x, r.tallies = [x] → x.count ≠ 1) :
    s.handleInfeed r = s.badRead := by
  unfold State.handleInfeed
  split
  · next x read => exact if_neg (bad x read)
  · rfl

theorem handleInfeed_unknown (s : State) (r : InfeedRead) (x : Tally) (read : r.tallies = [x]) (one : x.count = 1)
    (unknown : s.article x.article = none) : s.handleInfeed r =
      s.overflow .unknownItem { article := x.article, batch := x.batch } (some { article := x.article, batch := x.batch }) := by
  unfold State.handleInfeed
  rw [read]
  dsimp only
  rw [if_pos one, unknown]

/-! ## A tyre no group takes (R77) -/

/-- A read of one tyre of a known article that no group takes. -/
theorem handleInfeed_placed (s t : State) (r : InfeedRead) (x : Tally) (art : Article) (read : r.tallies = [x])
    (one : x.count = 1) (known : s.article x.article = some art)
    (given : s.tryCrossDock { article := x.article, batch := x.batch } r.time = (t, false)) :
    s.handleInfeed r = t.placement art { article := x.article, batch := x.batch } := by
  unfold State.handleInfeed
  rw [read]
  dsimp only
  rw [if_pos one, known]
  dsimp only
  rw [given]

/-- The entry asked for, if one was free, is given back. -/
theorem tryCrossDock_none (s : State) (y : Tyre) (time : Nat) (unable : ∀ q ∈ s.orderUnit.pending, s.canTake y q = false) :
    ∃ agenda, s.tryCrossDock y time = ({ s with agenda }, false) := by
  have absent : s.reservedOne.orderUnit.pending.find? (s.reservedOne.canTake y) = none :=
    List.find?_eq_none.2 fun q mem => Bool.eq_false_iff.1 (unable q mem)
  unfold State.tryCrossDock
  split
  · exact ⟨s.agenda, rfl⟩
  · next u granted =>
    have is : u = s.reservedOne := by
      unfold State.grant at granted
      split at granted
      · exact (Option.some.inj granted).symm
      · cases granted
    rw [is, absent]
    exact ⟨_, rfl⟩

/-- The part once no group has taken the read; `agenda` may report the entry given back. -/
def State.passedOn (s : State) (rest : List InfeedRead) (agenda : Agenda) : State :=
  { s.readTaken rest with agenda }

/-- The read of a known article goes on to placement. -/
theorem infeedRead_places (s : State) (r : InfeedRead) (rest : List InfeedRead) (x : Tally) (art : Article)
    (reads : s.putAway.reads = r :: rest) (read : r.tallies = [x]) (one : x.count = 1)
    (known : s.article x.article = some art)
    (unable : ∀ q ∈ s.orderUnit.pending, s.canTake { article := x.article, batch := x.batch } q = false) :
    ∃ agenda, s.infeedRead = (s.passedOn rest agenda).placement art { article := x.article, batch := x.batch } := by
  obtain ⟨agenda, given⟩ := tryCrossDock_none (s.readTaken rest) { article := x.article, batch := x.batch } r.time unable
  refine ⟨agenda, ?_⟩
  rw [infeedRead_cons s r rest reads, handleInfeed_placed (s.readTaken rest) _ r x art read one known given]
  rfl

/-- The choice looks at neither the reads waiting nor what is noted. -/
theorem choosePlace_passedOn (s : State) (rest : List InfeedRead) (agenda : Agenda) (art : Article) (y : Tyre) :
    (s.passedOn rest agenda).choosePlace art y [] = s.choosePlace art y [] :=
  rfl

/-! ## Placement (R81) -/

theorem placement_overflows (s : State) (art : Article) (y : Tyre)
    (full : s.choosePlace art y [] = none ∨ s.freeTasks = []) : s.placement art y =
      s.overflow (if s.choosePlace art y [] = none then .noRoom else .noTask) y (some y) := by
  unfold State.placement
  cases chosen : s.choosePlace art y [] with
  | none => rfl
  | some id =>
    dsimp only
    rw [full.resolve_left (by rw [chosen]; exact nofun)]
    rfl

/-- The bay's record after INCOMING-ADD (R8). -/
def Bay.awaits (b : Bay) (y : Tyre) : Bay :=
  { b with incoming := b.incoming + 1, tyre := some y }

/-- The claim on a chosen bay is accepted: a candidate meets its condition (R8, R79). -/
theorem incomingAdd_chosen (s : State) (art : Article) (y : Tyre) (id : BayId) (chosen : s.choosePlace art y [] = some id) :
    s.incomingAdd id y = some (s.modBay id (·.awaits y)) := by
  obtain ⟨⟨_, _, _, _, _, _, _, room, _⟩, _⟩ := choosePlace_some s art y id chosen
  exact if_pos ((roomFor_iff s y id).1 room)

theorem commitPlace_chosen (s : State) (art : Article) (y : Tyre) (record fuel : Nat) (id : BayId)
    (chosen : s.choosePlace art y [] = some id) :
    State.commitPlace art y record (fuel + 1) [] s = (s.modBay id (·.awaits y)).placed record id y := by
  rw [State.commitPlace, chosen]
  dsimp only
  rw [incomingAdd_chosen s art y id chosen]

theorem placement_places (s : State) (art : Article) (y : Tyre) (id : BayId) (record : Nat) (free : List Nat)
    (chosen : s.choosePlace art y [] = some id) (records : s.freeTasks = record :: free) :
    s.placement art y = (s.modBay id (·.awaits y)).placed record id y := by
  unfold State.placement
  rw [chosen]
  dsimp only
  rw [records]
  exact commitPlace_chosen s art y record 1920 id chosen

/-- The record taken by the PUT task, before the task joins its queue. -/
def State.putMade (s : State) (record : Nat) (id : BayId) (y : Tyre) : State :=
  (s.modBay id (·.awaits y)).setTask record (some (putTask id y (s.now + s.putAgeMs)))

/-- A placement carried out: the follow-ups' frame from the task's making on, and the ROUTE to the mouth, which the FIFO has
room for beside the one frame a service point may send. -/
theorem placed_settle (s : State) (record : Nat) (id : BayId) (y : Tyre) (room : s.outbox.fifo.length ≤ 30) :
    ∃ t, ((s.modBay id (·.awaits y)).placed record id y).settle = t ∧ (s.putMade record id y).Follows t ∧
      ∃ h ∈ t.outbox.fifo, h.kind = kindRoute ∧ h.dest = s.diverter ∧
        h.payload = routePayload .infeed (.mouth id.carousel) y := by
  have joined := State.follows_joinTail (s.putMade record id y) record
  have fed := joinTail_feeds (s.putMade record id y) record
  have is : (s.modBay id (·.awaits y)).placed record id y =
      ((s.putMade record id y).joinTail record).sendRoute .infeed (.mouth id.carousel) y := rfl
  generalize (s.putMade record id y).joinTail record = w at joined fed is
  have short : w.outbox.fifo.length < 32 := by
    have := fed.length
    have same : (s.putMade record id y).outbox.fifo.length = s.outbox.fifo.length := rfl
    omega
  rw [is, sendRoute_room w _ y short]
  refine ⟨_, rfl, (joined.trans (State.keeps_outbox _ w _)).trans (State.settle_follows _), w.infeedRoute (.mouth id.carousel) y,
    State.KeepsRoutes.settle _ _ (List.mem_append_right _ (List.mem_singleton_self _)) rfl, rfl, ?_, rfl⟩
  show w.diverter = s.diverter
  unfold State.diverter
  rw [joined.putAway]
  rfl

theorem putMade_bay (s : State) (record : Nat) (id : BayId) (y : Tyre)
    (position : s.position id < (s.baysOf id.carousel).length) : (s.putMade record id y).bay id = (s.bay id).awaits y := by
  refine bay_modBay_same s id _ ?_ position
  by_contra out
  rw [State.baysOf, List.getD_eq_default _ _ (not_lt.1 out)] at position
  cases position

theorem putMade_task (s : State) (record : Nat) (id : BayId) (y : Tyre) (free : record ∈ s.freeTasks) :
    (s.putMade record id y).task record = some (putTask id y (s.now + s.putAgeMs)) := by
  have below : record < s.orderUnit.pool.length := by
    have listed := (List.mem_filter.1 free).2
    by_contra out
    rw [List.getElem?_eq_none (not_lt.1 out)] at listed
    cases listed
  unfold State.putMade
  rw [State.task_setTask, if_pos ⟨rfl, below⟩]

/-- Settles O30: the read goes through the stages of Table 4-2; what is noted on the way is taken at the end and leaves bay,
task and ROUTE. -/
theorem infeedPlacesTyre : Obligations.InfeedPlacesTyre := by
  intro s r rest bounded short reads
  have room : s.outbox.fifo.length < 32 := by omega
  refine ⟨?_, ?_, fun q bad => ?_, fun x q read one unknown => ?_⟩
  · intro x art id record free read one known y unable chosen position records
    obtain ⟨agenda, now⟩ := infeedRead_places s r rest x art reads read one known unable
    rw [placement_places (s.passedOn rest agenda) art y id record free ((choosePlace_passedOn s rest agenda art y).trans chosen) records] at now
    obtain ⟨t, is, follows, route⟩ := placed_settle (s.passedOn rest agenda) record id y short
    have made := putMade_task (s.passedOn rest agenda) record id y (by
      show record ∈ s.freeTasks
      rw [records]
      exact List.mem_cons_self)
    obtain ⟨state, transit, task⟩ := follows.tasks record _ made
    have shelf : (t.bay id).shelf = ((s.bay id).awaits y).shelf := (keeps_bay follows id).trans
      (congrArg Bay.shelf (putMade_bay (s.passedOn rest agenda) record id y position))
    refine ⟨t, _, congrArg Host.Outcome.next ((congrArg State.settle now).trans is), follows.putAway,
      (congrArg Bay.incoming shelf :), (congrArg Bay.tyre shelf :), (congrArg Bay.count shelf :), task, rfl, rfl, rfl, rfl,
      rfl, rfl, rfl, rfl, route, follows.balances, follows.articles, follows.link, follows.transit, follows.pending⟩
  · intro x art read one known y unable full
    obtain ⟨agenda, now⟩ := infeedRead_places s r rest x art reads read one known unable
    rw [placement_overflows (s.passedOn rest agenda) art y full, choosePlace_passedOn,
      overflow_eq (s.passedOn rest agenda) _ y _ room] at now
    refine ⟨_, congrArg (fun v : State => Host.Outcome.next v.settle) now, ?_,
      ⟨s.infeedRoute (.overflow s.overflowCode) y, State.KeepsRoutes.settle _ _
        (List.mem_append_right _ (List.mem_singleton_self _)) rfl, rfl, rfl, rfl⟩, ?_, ?_, ?_, ?_⟩
    · exact (State.settle_follows _).link.trans (notify_link_congr _ s _ rfl)
    · exact (State.settle_follows _).bays
    · exact (State.settle_follows _).balances
    · exact (State.settle_follows _).transit
    · exact (State.settle_follows _).pending
  · have now : s.infeedRead = _ := (infeedRead_cons s r rest reads).trans
      ((handleInfeed_bad (s.readTaken rest) r bad).trans (overflow_eq (s.readTaken rest).unreadTyre.2 _ _ _ room))
    have quiet : s.infeedRead.quiet := by
      rw [now]
      exact q
    have row : exec .infeedRead s = .next s.infeedRead := congrArg _ (State.settle_of_quiet _ quiet)
    rw [now] at row
    exact ⟨_, _, row, rfl, rfl, rfl, rfl, notify_link_congr _ s _ rfl, rfl, rfl, rfl⟩
  · have now : s.infeedRead = _ := (infeedRead_cons s r rest reads).trans
      ((handleInfeed_unknown (s.readTaken rest) r x read one unknown).trans (overflow_eq (s.readTaken rest) _ _ _ room))
    have quiet : s.infeedRead.quiet := by
      rw [now]
      exact q
    have row : exec .infeedRead s = .next s.infeedRead := congrArg _ (State.settle_of_quiet _ quiet)
    rw [now] at row
    exact ⟨_, _, row, rfl, rfl, rfl, notify_link_congr _ s _ rfl, rfl, rfl, rfl⟩

end Sys2Proof.Machine
end

section
/-! What reaches a carousel's mouth while a task is presented (O27): the end of the presentation (R66), and a PUT's reads and
keys (R85 to R87). -/

namespace Sys2Proof.Machine

/-! ## A task presented -/

/-- Task `id`, with the record `k`, is presented on carousel `c`, which has no balance fault and no entry on the power wait
list; the FIFO has room for two frames. -/
structure State.Presents (s : State) (c id : Nat) (k : Task) (p : Profile) : Prop where
  bounded : s.bounded
  c8 : c < 8
  here : k.bay.carousel = c
  position : s.position k.bay < (s.baysOf c).length
  profile : (s.car c).profile = some p
  state : (s.car c).state = .presenting
  serving : (s.car c).inService = some (.task id)
  task : s.task id = some k
  presented : k.state = .presenting
  sound : (s.bal c).fault = false
  idle : s.waits c = false
  short : s.outbox.fifo.length ≤ 30

/-- The task has ended in `v`, and what that reports is taken before the presentation ends in `t` (R54, R66, log 8). -/
def State.PresentationEnds (s : State) (c id : Nat) (v t : State) : Prop :=
  t = v.settle.presentationEnd c ∧ v.task id = none ∧ v.orderUnit.retry = .all ∧
    (t.car c).state = (if (s.car c).faultPending then .driveFault else .ready) ∧ (t.car c).inService = none ∧
    (t.car c).presentationTimer = none ∧ v.articles = s.articles

/-- The load of carrier `i` of carousel `c` has changed by `d` (R24). -/
def State.CarriesMore (s v : State) (c i : Nat) (d : Int) : Prop :=
  (v.bal c).total = (s.bal c).total + d ∧ (v.bal c).loads = (s.bal c).loads.modify i (· + d)

theorem endTask_retry (s : State) (id : Nat) (b : Bool) (k : Task) (task : s.task id = some k) :
    (s.endTask id b).orderUnit.retry = .all := by
  unfold State.endTask
  rw [task]
  exact noteRetry_all _

/-- The carousel presents until what the task's end reports is taken, so nothing serves it before. -/
theorem endPresented_ends (s u : State) (c id : Nat) (b : Bool) (k : Task) (task : u.task id = some k)
    (len : c < u.carousels.length) (state : (u.car c).state = .presenting)
    (fault : (u.car c).faultPending = (s.car c).faultPending) (articles : u.articles = s.articles) :
    s.PresentationEnds c id (u.endTask id b) (u.endPresented c id b) := by
  have ended := endTask_ended u id b
  have retry := endTask_retry u id b k task
  have is : u.endPresented c id b = (u.endTask id b).settle.presentationEnd c := rfl
  generalize u.endTask id b = v at ended retry is ⊢
  have car : v.car c = u.car c := by rw [State.car, ended.carousels, State.car]
  have busy : v.idleReady c = false := by
    unfold State.idleReady
    rw [car, state]
    rfl
  have rest := settle_car_busy v c busy
  have len' : c < v.settle.carousels.length := by rwa [keeps_len v.settle_follows, ended.carousels]
  obtain ⟨l, agenda, last, _⟩ := presentationEnd_eq v.settle c
  have record : (u.endPresented c id b).car c = (v.settle.car c).presented := by
    rw [is, last]
    exact (State.car_modCar ..).trans (if_pos ⟨rfl, len'⟩)
  have pending : (v.settle.car c).faultPending = (s.car c).faultPending := by
    rw [rest, car]
    exact fault
  refine ⟨is, ended.task, retry, ?_, ?_, ?_, ended.articles.trans articles⟩
  · rw [record, ← pending]
    rfl
  · rw [record]
    rfl
  · rw [record]
    rfl

theorem carriesMore_of_bal {s v : State} {c i : Nat} {d : Int} {flag : Bool}
    (bal : v.bal c = { (s.bal c).applyChange i d with fault := flag }) : s.CarriesMore v c i d := by
  unfold State.CarriesMore
  rw [bal]
  exact ⟨rfl, rfl⟩

theorem tidy_eq (b : Bay) : b.tidy = { b with tyre := if b.count + b.incoming = 0 then none else b.tyre } := by
  unfold Bay.tidy
  split <;> rfl

/-- A frame built with room in the FIFO joins its tail (R164). -/
theorem builds_room {s t : State} {dest kind : Byte} {payload : List Byte} (builds : s.Builds dest kind payload t)
    (room : s.outbox.fifo.length < 32) : t = { s with outbox := { s.outbox with
      tagCounter := s.outbox.tagCounter + 1
      fifo := s.outbox.fifo ++ [{ dest, kind, tag := s.outbox.tagCounter, payload }] } } := by
  obtain ⟨m, dropped, takes, now⟩ := builds
  obtain ⟨joined, kept⟩ := takes.room room
  rw [now, joined, kept, Bool.or_false]

/-! ## Nothing presented (R111) -/

theorem mouthRead_other (s : State) (c : Nat) (tallies : List Tally)
    (other : (s.car c).state ≠ .presenting ∨ (s.car c).inService = none) : s.mouthRead c tallies = s := by
  unfold State.mouthRead
  rcases other with state | none_there
  · split
    · next presenting _ => exact absurd presenting state
    · next presenting _ => exact absurd presenting state
    · rfl
  · rw [none_there]
    split
    · next serving => cases serving
    · next serving => cases serving
    · rfl

theorem mouthKey_other (s : State) (c : Nat) (key : Key)
    (other : ∀ id, ¬((s.car c).state = .presenting ∧ (s.car c).inService = some (.task id))) : s.mouthKey c key = s := by
  unfold State.mouthKey
  split
  · next id state serving => exact absurd ⟨state, serving⟩ (other id)
  · rfl

namespace State.Presents

variable {s : State} {c id : Nat} {k : Task} {p : Profile} (h : s.Presents c id k p)
include h

theorem carousel : k.bay.carousel < s.bays.length := by
  rw [h.bounded.eight.2.1, h.here]
  exact h.c8

theorem bay_len : s.position k.bay < (s.baysOf k.bay.carousel).length := by
  rw [h.here]
  exact h.position

theorem bal_len : c < s.balances.length := by
  rw [h.bounded.eight.2.2.1]
  exact h.c8

theorem car_len : c < s.carousels.length := by
  rw [h.bounded.eight.1]
  exact h.c8

theorem bay_modBay (f : Bay → Bay) : (s.modBay k.bay f).bay k.bay = f (s.bay k.bay) :=
  bay_modBay_same s k.bay f h.carousel h.bay_len

theorem wrongItem : s.wrongItem c k = { s with outbox := { s.outbox with
    tagCounter := s.outbox.tagCounter + 1
    fifo := s.outbox.fifo ++ [{ dest := p.reader, kind := kindIndicate, tag := s.outbox.tagCounter
                                payload := [byte k.bay.bay, 2, 0, 0] }] } } :=
  builds_room (wrongItem_builds s c k p h.profile) (by have := h.short; omega)

/-- The presented task ends with no claim before. -/
theorem ends : s.PresentationEnds c id (s.endTask id) (s.endPresented c id) :=
  endPresented_ends s s c id true k h.task h.car_len h.state rfl rfl

end State.Presents

/-! ## A PUT presented -/

/-- The bay record after PUT-TAKE (R9). -/
def Bay.gained (b : Bay) (y : Tyre) : Bay :=
  { b with tyre := some y, count := b.count + 1, incoming := b.incoming - 1 }

/-- The part after the PUT-TAKE of a confirmed tyre, the task's taken count and the retry noted (R85); `pool` and `agenda`
are what the claim leaves. -/
def State.confirmed (s : State) (c id : Nat) (k : Task) (y : Tyre) (pool : List (Option Task)) (agenda : Agenda) : State :=
  (State.modTask { s.modBay k.bay (·.gained y) with
      balances := s.balances.modify c fun b => b.applyChange k.bay.carrier (s.weight y.article)
      orderUnit := { s.orderUnit with pool }
      agenda } id fun t => { t with taken := 1 }).noteRetry (.articles [y.article])

theorem confirmed_task (s : State) (c id : Nat) (k : Task) (y : Tyre) (pool : List (Option Task)) (agenda : Agenda)
    (kept : pool.getD id none = some k) : (s.confirmed c id k y pool agenda).task id = some { k with taken := 1 } := by
  show (State.modTask _ id _).task id = _
  rw [State.task_modTask, if_pos rfl]
  show (pool.getD id none).map _ = _
  rw [kept]
  rfl

/-- A PUT already taken ends with its bay as it is. -/
theorem endTask_bay_put_taken (s : State) (id : Nat) (k : Task) (task : s.task id = some k) (put : k.kind = .put)
    (taken : k.taken ≠ 0) (j : BayId) : (s.endTask id).bay j = s.bay j := by
  refine bay_congr ?_ (fun d => by unfold State.car; rw [(endTask_ended s id true).carousels]) j
  rw [endTask_put s id k task put, if_neg taken, giveBack_eq]
  rfl

theorem putRead_wrong (s : State) (c id : Nat) (k : Task) (y : Tyre) (tyre : k.tyre = some y) (tallies : List Tally)
    (other : ∀ x, tallies = [x] → x.article ≠ y.article ∨ x.batch ≠ y.batch) :
    s.putRead c id k tallies = s.wrongItem c k := by
  unfold State.putRead
  rcases tallies with _ | ⟨x, _ | ⟨z, rest⟩⟩
  · rfl
  · refine if_neg fun same => ?_
    rw [tyre] at same
    cases same
    exact (other x rfl).elim (· rfl) (· rfl)
  · rfl

namespace State.Presents

variable {s : State} {c id : Nat} {k : Task} {p : Profile} (h : s.Presents c id k p)
include h

theorem mouthRead_put (put : k.kind = .put) (tallies : List Tally) : s.mouthRead c tallies = s.putRead c id k tallies := by
  unfold State.mouthRead
  simp only [h.state, h.serving, h.task, put]

theorem mouthKey_put (put : k.kind = .put) : s.mouthKey c .short = s ∧ s.mouthKey c .damaged = s.putDamaged c id k ∧
    s.mouthKey c .skip = s.park c id := by
  unfold State.mouthKey
  simp only [h.state, h.serving, h.task, put, and_self]

/-- What a PUT-TAKE by the presented task leaves (R9). -/
theorem putTake (y : Tyre) : ∃ (pool : List (Option Task)) (agenda : Agenda), s.putTake k.bay y =
      { s.modBay k.bay (·.gained y) with
        balances := s.balances.modify c fun b => b.applyChange k.bay.carrier (s.weight y.article)
        orderUnit := { s.orderUnit with pool }
        agenda } ∧
    pool.getD id none = some k := by
  obtain ⟨pool, agenda, changed, kept⟩ := loadChange_presented (s.modBay k.bay (·.gained y)) c id k h.serving h.task
    h.presented h.sound h.idle k.bay.carrier (s.weight y.article)
  refine ⟨pool, agenda, ?_, kept⟩
  unfold State.putTake
  dsimp only
  rw [h.here]
  exact changed

/-- The tyre read is the task's own (R85): bay and load take it, and the task ends complete. -/
theorem putRead_confirms (put : k.kind = .put) (y : Tyre) (tyre : k.tyre = some y) (bay count : Nat) :
    ∃ v, s.PresentationEnds c id v (s.putRead c id k [{ bay, article := y.article, batch := y.batch, count }]) ∧
      v.bay k.bay = (s.bay k.bay).gained y ∧ s.CarriesMore v c k.bay.carrier (s.weight y.article) ∧ v.link = s.link ∧
      v.outbox = s.outbox ∧ v.consolidation.transit = s.consolidation.transit := by
  obtain ⟨pool, agenda, claimed, kept⟩ := h.putTake y
  have read : s.putRead c id k [{ bay, article := y.article, batch := y.batch, count }] =
      (s.confirmed c id k y pool agenda).endPresented c id := by
    refine (if_pos tyre).trans ?_
    rw [claimed]
    rfl
  have task := confirmed_task s c id k y pool agenda kept
  have at_bay : (s.confirmed c id k y pool agenda).bay k.bay = (s.bay k.bay).gained y := h.bay_modBay (·.gained y)
  have bal : (s.confirmed c id k y pool agenda).bal c = (s.bal c).applyChange k.bay.carrier (s.weight y.article) :=
    (getD_modify _ _ _ _ _).trans (if_pos ⟨rfl, h.bal_len⟩)
  have ended := endTask_ended (s.confirmed c id k y pool agenda) id true
  refine ⟨_, read ▸ endPresented_ends s _ c id true _ task h.car_len h.state rfl rfl, ?_, ?_, ended.link, ended.outbox,
    ended.transit⟩
  · rw [endTask_bay_put_taken _ id _ task put Nat.one_ne_zero, at_bay]
  · refine carriesMore_of_bal (flag := (s.bal c).fault) ?_
    rw [State.bal, ended.balances]
    exact bal

/-- DAMAGED on a presented PUT not yet taken (R86): its bay awaits the tyre no longer. -/
theorem ends_put (put : k.kind = .put) (none_taken : k.taken = 0) : (s.endTask id).bay k.bay = { s.bay k.bay with
    incoming := (s.bay k.bay).incoming - 1
    tyre := if (s.bay k.bay).count + ((s.bay k.bay).incoming - 1) = 0 then none else (s.bay k.bay).tyre } := by
  rw [endTask_bay_put s id k h.task put none_taken, h.bay_modBay, tidy_eq]

end State.Presents

end Sys2Proof.Machine
end

section
/-! A PICK presented (O27): its last take (R116), DAMAGED (R117) and SKIP (R119). -/

namespace Sys2Proof.Machine

/-! ## The pending list keeps its groups -/

theorem returnNeed_pending (s : State) (r q : GroupRef) (n : Nat) (listed : q ∈ s.orderUnit.pending) :
    q ∈ (s.returnNeed r n).orderUnit.pending := by
  unfold State.returnNeed
  split
  · exact listed
  · split
    · exact listed
    · dsimp only
      split
      · exact listed
      · split
        · exact listed
        · unfold State.joinPending
          split
          · exact listed
          · exact (insertByKey_mem ..).2 (.inl listed)

theorem leaveGroup_pending (s : State) (id : Nat) (k : Task) (q : GroupRef) (listed : q ∈ s.orderUnit.pending) :
    q ∈ (s.leaveGroup id k).orderUnit.pending := by
  unfold State.leaveGroup
  split
  · exact listed
  · split
    · exact listed
    · split
      · exact listed
      · exact returnNeed_pending _ _ _ _ listed

theorem endTask_pending (s : State) (id : Nat) (k : Task) (task : s.task id = some k) (pick : k.kind = .pick)
    (q : GroupRef) (listed : q ∈ s.orderUnit.pending) : q ∈ (s.endTask id).orderUnit.pending := by
  rw [endTask_pick s id k task pick]
  refine leaveGroup_pending _ id k q ?_
  have same : (s.giveBack k.transit).orderUnit.pending = s.orderUnit.pending := by rw [giveBack_eq]
  unfold State.reserveRelease
  split
  · rwa [same]
  · exact same.symm ▸ listed

/-- A PICK with no remainder leaves its bay as it is. -/
theorem endTask_bay_pick_whole (s : State) (id : Nat) (k : Task) (task : s.task id = some k) (pick : k.kind = .pick)
    (whole : k.quantity - k.taken = 0) (j : BayId) : (s.endTask id).bay j = s.bay j := by
  rw [endTask_bay_pick s id k task pick, whole, modBay_eq_self s k.bay _ rfl]

theorem less_eq (b : Bay) : b.less = { b with
    count := b.count - 1, reserved := b.reserved - 1, tyre := if b.count - 1 + b.incoming = 0 then none else b.tyre } :=
  tidy_eq _

/-- A presented PICK whose last tyre is taken ends complete (R116). -/
theorem afterTake_ends (s : State) (c id : Nat) (k : Task) (task : s.task id = some k) (last : k.taken = k.quantity) :
    s.afterTake c id = s.endPresented c id := by
  unfold State.afterTake
  rw [task]
  exact if_pos last

/-! ## The last take (R113, R116) -/

/-- The transit entry of a tyre taken at the mouth (R131). -/
def State.mouthEntry (s : State) (c : Nat) (k : Task) (y : Tyre) (place : Nat) : TransitEntry :=
  { place, serial := s.consolidation.nextSerial, group := k.ref, tyre := y, lane := s.laneOf k.order, source := .mouth c
    deadline := s.now + s.transitMs, unrouted := false }

/-- The ROUTE of that tyre (R132). -/
def State.mouthRoute (s : State) (c : Nat) (k : Task) (y : Tyre) : OutFrame :=
  { dest := s.diverter, kind := kindRoute, tag := s.outbox.tagCounter
    payload := routePayload (.mouth c) (.lane (s.laneOf k.order)) y, entry := some s.consolidation.nextSerial }

/-- The part after a take whose ROUTE the FIFO has room for, before the task goes on or ends. -/
def State.routed (s : State) (c id : Nat) (k : Task) (y : Tyre) (pool : List (Option Task)) (agenda : Agenda)
    (place : Nat) : State :=
  { s.taken c id k y pool agenda with
    outbox := { s.outbox with
      tagCounter := s.outbox.tagCounter + 1, fifo := s.outbox.fifo ++ [s.mouthRoute c k y] }
    consolidation := { s.consolidation with
      transit := s.consolidation.transit ++ [s.mouthEntry c k y place]
      reserved := s.consolidation.reserved - 1
      nextSerial := s.consolidation.nextSerial + 1 }
    choices := s.choices + 1 }

namespace State.Presents

variable {s : State} {c id : Nat} {k : Task} {p : Profile} (h : s.Presents c id k p)
include h

theorem mouthKey_pick (pick : k.kind = .pick) : s.mouthKey c .short = s.pickShort c id k ∧
    s.mouthKey c .damaged = s.pickDamaged c id k ∧ s.mouthKey c .skip = s.endPresented c id := by
  unfold State.mouthKey
  simp only [h.state, h.serving, h.task, pick, and_self]

theorem take_routed (y : Tyre) (tyre : (s.bay k.bay).tyre = some y) (room : s.consolidation.transit.length < 64) :
    ∃ (pool : List (Option Task)) (agenda : Agenda) (place : Nat), pool.getD id none = some k ∧
      s.take c id k y = (s.routed c id k y pool agenda place).afterTake c id := by
  obtain ⟨pool, agenda, claimed, kept⟩ := pickTake_presented s c id k y h.serving h.task h.presented h.sound h.idle h.here tyre
  obtain ⟨place, fifo, lost, _, _, routed, sent⟩ := fillEntry_sendRoute ((s.pickTake k.bay).modTask id fun t =>
      { t with taken := t.taken + 1, transit := t.transit - 1 })
    k.ref y (s.laneOf k.order) (.mouth c) (s.now + s.transitMs) (.lane (s.laneOf k.order)) (by rw [claimed]; exact room)
  rw [claimed] at routed
  obtain ⟨joined, found⟩ := routed.room (show s.outbox.fifo.length < 32 by have := h.short; omega)
  refine ⟨pool, agenda, place, kept, ?_⟩
  have after : s.take c id k y = State.afterTake _ c id := congrArg (fun u : State =>
    (u.modGroup k.ref fun g => { g with picked := g.picked + 1 }).afterTake c id) sent
  rw [after, claimed, joined, found]
  simp only [Bool.false_eq_true, false_and, if_false, List.map_id', Bool.or_false]
  rfl

/-- The last tyre taken ends the task complete. -/
theorem take_ends (pick : k.kind = .pick) (kept : k.withdrawn = false) (transit : k.transit = 1) (last : k.quantity - k.taken = 1)
    (o : Order) (g : Group) (y : Tyre) (order : s.order k.order = some o) (live : o.state ≠ .withdrawn)
    (group : s.group k.ref = some g) (tyre : (s.bay k.bay).tyre = some y) (room : s.consolidation.transit.length < 64) :
    ∃ v place, s.PresentationEnds c id v (s.take c id k y) ∧ v.bay k.bay = (s.bay k.bay).less ∧
      s.CarriesMore v c k.bay.carrier (-(s.weight y.article : Int)) ∧
      v.group k.ref = some { g with picked := g.picked + 1, tasks := g.tasks.filter (· != id) } ∧
      v.consolidation.transit = s.consolidation.transit ++ [s.mouthEntry c k y place] ∧
      v.consolidation.reserved = s.consolidation.reserved - 1 ∧ v.link = s.link ∧
      v.outbox.fifo = s.outbox.fifo ++ [s.mouthRoute c k y] := by
  obtain ⟨pool, agenda, place, pool_kept, after⟩ := h.take_routed y tyre room
  have task : (s.routed c id k y pool agenda place).task id = some { k with taken := k.taken + 1, transit := k.transit - 1 } :=
    taken_task s c id k y pool agenda pool_kept
  have at_bay : (s.routed c id k y pool agenda place).bay k.bay = (s.bay k.bay).less :=
    taken_bay s c id k y pool agenda h.carousel h.bay_len
  have bal : (s.routed c id k y pool agenda place).bal c = _ := taken_bal s c id k y pool agenda h.bal_len
  have grouped : (s.routed c id k y pool agenda place).group k.ref = some { g with picked := g.picked + 1 } :=
    (taken_group s c id k y pool agenda).trans (congrArg (Option.map _) group)
  obtain ⟨o', order', same⟩ : ∃ o', (s.routed c id k y pool agenda place).order k.order = some o' ∧ o'.state = o.state :=
    order_modGroup _ k.ref _ o order
  have whole : k.quantity - (k.taken + 1) = 0 := by omega
  have ended := endTask_ended (s.routed c id k y pool agenda place) id true
  rw [afterTake_ends _ c id _ task (show k.taken + 1 = k.quantity by omega)] at after
  refine ⟨_, place, after ▸ endPresented_ends s _ c id true _ task h.car_len h.state rfl rfl, ?_, ?_, ?_, ended.transit, ?_,
    ended.link, congrArg Outbox.fifo ended.outbox⟩
  · rw [endTask_bay_pick_whole _ id _ task pick whole, at_bay]
  · refine carriesMore_of_bal (flag := (s.bal c).fault) ?_
    rw [State.bal, ended.balances]
    exact bal
  · have left := (endTask_group _ id _ task o' _ pick kept order' (same ▸ live) grouped).1
    dsimp only at left
    rwa [whole] at left
  · rw [(endTask_gives_back _ id _ task).1]
    show s.consolidation.reserved - 1 - (k.transit - 1) = _
    rw [transit]
    rfl

/-! ## SKIP (R119) -/

theorem skip_ends (pick : k.kind = .pick) (kept : k.withdrawn = false) (more : k.taken < k.quantity)
    (o : Order) (g : Group) (order : s.order k.order = some o) (live : o.state ≠ .withdrawn)
    (group : s.group k.ref = some g) : let v := s.endTask id
    v.bay k.bay = { s.bay k.bay with reserved := (s.bay k.bay).reserved - (k.quantity - k.taken) } ∧
      v.group k.ref = some { g with
        need := g.need + (k.quantity - k.taken), tasks := g.tasks.filter (· != id) } ∧ k.ref ∈ v.orderUnit.pending ∧
      v.consolidation.reserved = s.consolidation.reserved - k.transit := by
  obtain ⟨need, pending⟩ := endTask_group s id k h.task o g pick kept order live group
  refine ⟨?_, need, pending more, (endTask_gives_back s id k h.task).1⟩
  rw [endTask_bay_pick s id k h.task pick, h.bay_modBay]

end State.Presents

end Sys2Proof.Machine
end

section
/-! DAMAGED on a presented PICK (O27, R117): one tyre taken from the bay that goes nowhere; its need returns to the group. -/

namespace Sys2Proof.Machine

/-- The part after the claim and the task's change, with one transit entry given back and before the need returns; `pool`
and `agenda` are what the claim leaves. -/
def State.spoilt (s : State) (c id : Nat) (k : Task) (y : Tyre) (pool : List (Option Task)) (agenda : Agenda) : State :=
  (State.modTask { s.modBay k.bay Bay.less with
      balances := s.balances.modify c fun b => b.applyChange k.bay.carrier (-(s.weight y.article : Int))
      orderUnit := { s.orderUnit with pool, retry := s.orderUnit.retry.join .all }
      agenda } id fun t => { t with quantity := t.quantity - 1, transit := t.transit - 1 }).giveBack 1

/-- The order of a group keeps its state when need returns. -/
theorem returnNeed_order (s : State) (r : GroupRef) (n : Nat) (o : Order) (order : s.order r.order = some o) :
    ∃ o', (s.returnNeed r n).order r.order = some o' ∧ o'.state = o.state := by
  have raised := order_modGroup s r (fun g => { g with need := g.need + n }) o order
  unfold State.returnNeed
  rw [order]
  dsimp only
  split
  · exact ⟨o, order, rfl⟩
  · split
    · exact raised
    · split
      · exact raised
      · unfold State.joinPending
        split
        · exact raised
        · exact raised

/-- What DAMAGED leaves in `u` before the task goes on or ends. -/
structure State.Spoils (s : State) (c id : Nat) (k : Task) (g : Group) (y : Tyre) (u : State) : Prop where
  bay : u.bay k.bay = (s.bay k.bay).less
  bal : u.bal c = (s.bal c).applyChange k.bay.carrier (-(s.weight y.article : Int))
  task : u.task id = some { k with quantity := k.quantity - 1, transit := k.transit - 1 }
  order : ∃ o, u.order k.order = some o ∧ o.state ≠ .withdrawn
  group : u.group k.ref = some { g with need := g.need + 1 }
  pending : k.ref ∈ u.orderUnit.pending
  reserved : u.consolidation.reserved = s.consolidation.reserved - 1
  transit : u.consolidation.transit = s.consolidation.transit
  freed : u.agenda.freed = true
  carousels : u.carousels = s.carousels
  articles : u.articles = s.articles
  link : u.link = s.link
  outbox : u.outbox = s.outbox

namespace State.Presents

variable {s : State} {c id : Nat} {k : Task} {p : Profile} (h : s.Presents c id k p)
include h

theorem pickDamaged_spoils (o : Order) (g : Group) (y : Tyre) (order : s.order k.order = some o)
    (live : o.state ≠ .withdrawn) (group : s.group k.ref = some g) (tyre : (s.bay k.bay).tyre = some y) :
    ∃ u, s.Spoils c id k g y u ∧ s.pickDamaged c id k = u.afterTake c id := by
  obtain ⟨pool, agenda, claimed, kept⟩ := pickTake_presented s c id k y h.serving h.task h.presented h.sound h.idle h.here tyre
  have task : (s.spoilt c id k y pool agenda).task id = some { k with quantity := k.quantity - 1, transit := k.transit - 1 } := by
    unfold State.spoilt
    rw [giveBack_eq]
    show (State.modTask _ id _).task id = _
    rw [State.task_modTask, if_pos rfl]
    show (pool.getD id none).map _ = _
    rw [kept]
    rfl
  have order' : (s.spoilt c id k y pool agenda).order k.ref.order = some o := by
    unfold State.spoilt
    rw [giveBack_eq]
    exact order
  have group' : (s.spoilt c id k y pool agenda).group k.ref = some g := by
    unfold State.spoilt
    rw [giveBack_eq]
    exact group
  obtain ⟨need, listed⟩ := returnNeed_group _ k.ref 1 o g order' live group'
  obtain ⟨o', order'', same⟩ := returnNeed_order _ k.ref 1 o order'
  have done : s.pickDamaged c id k = ((s.spoilt c id k y pool agenda).returnNeed k.ref 1).afterTake c id := by
    unfold State.pickDamaged
    rw [claimed]
    rfl
  have freed : (s.spoilt c id k y pool agenda).agenda.freed = true := by
    rw [State.spoilt, giveBack_eq]
    exact Bool.or_true _
  obtain ⟨unit, returned, pool_same⟩ := returnNeed_ended (s.spoilt c id k y pool agenda) k.ref 1
  have bal : (s.spoilt c id k y pool agenda).bal c = _ := (getD_modify _ _ _ _ _).trans (if_pos ⟨rfl, h.bal_len⟩)
  refine ⟨_, { bay := ?_, bal := ?_, task := ?_, order := ⟨o', order'', same ▸ live⟩, group := need
               pending := listed Nat.one_pos, reserved := ?_, transit := ?_, freed := returned ▸ freed, carousels := ?_, articles := ?_
               link := ?_, outbox := ?_ }, done⟩
  · rw [returned]
    exact h.bay_modBay Bay.less
  · rw [returned]
    exact bal
  · rw [returned, State.task, pool_same]
    exact task
  all_goals rw [returned, State.spoilt, giveBack_eq]
  all_goals rfl

/-- DAMAGED with more to be taken: the task goes on, shown afresh. -/
theorem pickDamaged_goes_on (pick : k.kind = .pick) (more : 2 ≤ k.quantity - k.taken) (o : Order) (g : Group) (y : Tyre)
    (order : s.order k.order = some o) (live : o.state ≠ .withdrawn) (group : s.group k.ref = some g)
    (tyre : (s.bay k.bay).tyre = some y) :
    ∃ u, s.Spoils c id k g y u ∧ s.pickDamaged c id k = { u with outbox := { s.outbox with
      tagCounter := s.outbox.tagCounter + 1
      fifo := s.outbox.fifo ++ [{
        dest := p.reader, kind := kindIndicate, tag := s.outbox.tagCounter
        payload := [byte k.bay.bay, 0, byte (k.quantity - k.taken - 1),
          byte (if (s.bay k.bay).count - 1 + (s.bay k.bay).incoming = 0 then 0 else s.widthClass y.article)] }] } } := by
  obtain ⟨u, spoils, after⟩ := h.pickDamaged_spoils o g y order live group tyre
  refine ⟨u, spoils, ?_⟩
  have profile : (u.car c).profile = some p := by
    rw [State.car, spoils.carousels]
    exact h.profile
  have shown := afterTake_shows u c id _ p spoils.task pick profile (show k.taken ≠ k.quantity - 1 by omega)
  have tyre' : (u.bay k.bay).tyre = if (s.bay k.bay).count - 1 + (s.bay k.bay).incoming = 0 then none else some y := by
    rw [spoils.bay, less_eq, tyre]
  have width : (((u.bay k.bay).tyre.map fun z => u.widthClass z.article).getD 0) =
      if (s.bay k.bay).count - 1 + (s.bay k.bay).incoming = 0 then 0 else s.widthClass y.article := by
    have class_of : u.widthClass y.article = s.widthClass y.article := by
      unfold State.widthClass State.article
      rw [spoils.articles]
    rw [tyre']
    split
    · rfl
    · exact class_of
  dsimp only at shown
  rw [width, show k.quantity - 1 - k.taken = k.quantity - k.taken - 1 by omega] at shown
  rw [after, builds_room shown (by rw [spoils.outbox]; have := h.short; omega), spoils.outbox]

/-- DAMAGED at the last tyre: the task ends complete. -/
theorem pickDamaged_ends (pick : k.kind = .pick) (kept : k.withdrawn = false) (transit : k.transit = 1)
    (last : k.quantity - k.taken = 1) (o : Order) (g : Group) (y : Tyre) (order : s.order k.order = some o)
    (live : o.state ≠ .withdrawn) (group : s.group k.ref = some g) (tyre : (s.bay k.bay).tyre = some y) :
    ∃ v, s.PresentationEnds c id v (s.pickDamaged c id k) ∧ v.bay k.bay = (s.bay k.bay).less ∧
      s.CarriesMore v c k.bay.carrier (-(s.weight y.article : Int)) ∧
      v.group k.ref = some { g with need := g.need + 1, tasks := g.tasks.filter (· != id) } ∧
      k.ref ∈ v.orderUnit.pending ∧ v.consolidation.reserved = s.consolidation.reserved - 1 ∧
      v.consolidation.transit = s.consolidation.transit ∧ v.link = s.link ∧ v.outbox = s.outbox := by
  obtain ⟨u, spoils, after⟩ := h.pickDamaged_spoils o g y order live group tyre
  have car : u.car c = s.car c := by rw [State.car, spoils.carousels, State.car]
  have whole : k.quantity - 1 - k.taken = 0 := by omega
  have ended := endTask_ended u id true
  obtain ⟨o', order', live'⟩ := spoils.order
  rw [afterTake_ends u c id _ spoils.task (show k.taken = k.quantity - 1 by omega)] at after
  refine ⟨_, after ▸ endPresented_ends s u c id true _ spoils.task (spoils.carousels ▸ h.car_len) (car ▸ h.state) (by rw [car])
    spoils.articles, ?_, ?_, ?_, endTask_pending u id _ spoils.task pick _ spoils.pending, ?_, ended.transit.trans spoils.transit,
    ended.link.trans spoils.link, ended.outbox.trans spoils.outbox⟩
  · rw [endTask_bay_pick_whole u id _ spoils.task pick whole, spoils.bay]
  · refine carriesMore_of_bal (flag := (s.bal c).fault) ?_
    rw [State.bal, ended.balances]
    exact spoils.bal
  · have left := (endTask_group u id _ spoils.task o' _ pick kept order' live' spoils.group).1
    dsimp only at left
    rwa [whole] at left
  · rw [(endTask_gives_back u id _ spoils.task).1, spoils.reserved]
    show s.consolidation.reserved - 1 - (k.transit - 1) = _
    rw [transit]
    rfl

end State.Presents

end Sys2Proof.Machine
end

section
/-! What SHORT (O27, R118) is made of: withdrawals that leave the mouth alone (R15), a load change with its check while a task
is presented (R24, R25), and an entry in the discrepancy list (R151). -/

namespace Sys2Proof.Machine

/-! ## Orders and groups read through what allocation leaves -/

/-- An order is found with the same state wherever the orders agree but for what allocation changes. -/
theorem order_of_fixed {s t : State} (same : t.orderUnit.orders.map Order.fixed = s.orderUnit.orders.map Order.fixed)
    {n : Nat} {o : Order} (order : s.order n = some o) : ∃ o', t.order n = some o' ∧ o'.fixed = o.fixed := by
  have kept : s.Keeps (fun _ => False) { s with orderUnit := { s.orderUnit with orders := t.orderUnit.orders } } :=
    { State.Keeps.refl (fun _ => False) s with orders := same, busy := nofun }
  have found := kept.order n
  rw [order] at found
  exact Option.map_eq_some_iff.1 found

theorem group_fixed (o : Order) (line group : Nat) : (o.group line group).map Group.fixed = o.fixed.group line group := by
  have found : ∀ l : List Group, (l.find? fun g => g.number == group).map Group.fixed =
      (l.map Group.fixed).find? fun g => g.number == group := fun l => by
    rw [List.find?_map]
    rfl
  have lines : o.fixed.lines[line]? = o.lines[line]?.map fun l => { l with groups := l.groups.map Group.fixed } :=
    List.getElem?_map
  unfold Order.group
  rw [lines]
  cases o.lines[line]? with
  | none => rfl
  | some l => exact found l.groups

/-- So is a group. -/
theorem group_of_fixed {s t : State} (same : t.orderUnit.orders.map Order.fixed = s.orderUnit.orders.map Order.fixed)
    {r : GroupRef} {g : Group} (group : s.group r = some g) : ∃ g', t.group r = some g' := by
  unfold State.group at group ⊢
  cases order : s.order r.order with
  | none =>
    rw [order] at group
    cases group
  | some o =>
    obtain ⟨o', order', fixed⟩ := order_of_fixed same order
    rw [order] at group
    rw [order']
    have read := group_fixed o' r.line r.group
    rw [fixed, ← group_fixed, show o.group r.line r.group = some g from group] at read
    obtain ⟨g', there, _⟩ := Option.map_eq_some_iff.1 read
    exact ⟨g', there⟩

/-! ## Withdrawals leave the mouth alone -/

/-- What of a carousel record tells how a presentation ends (R66). -/
def Carousel.standing (k : Carousel) : CarouselState × Bool :=
  (k.state, k.faultPending)

/-- What the withdrawal of tasks that wait leaves: the frames, the orders but for what allocation changes, each carousel's
state and noted fault, and no new entry on the power wait list. -/
structure State.Undisturbed (s t : State) : Prop where
  outbox : t.outbox = s.outbox
  orders : t.orderUnit.orders.map Order.fixed = s.orderUnit.orders.map Order.fixed
  cars : t.carousels.map Carousel.standing = s.carousels.map Carousel.standing
  waits : ∀ c, s.waits c = false → t.waits c = false

namespace State.Undisturbed

theorem refl (s : State) : s.Undisturbed s := ⟨rfl, rfl, rfl, fun _ => id⟩

theorem trans {s t u : State} (a : s.Undisturbed t) (b : t.Undisturbed u) : s.Undisturbed u where
  outbox := b.outbox.trans a.outbox
  orders := b.orders.trans a.orders
  cars := b.cars.trans a.cars
  waits := fun c h => b.waits c (a.waits c h)

theorem car {s t : State} (h : s.Undisturbed t) (c : Nat) :
    (t.car c).state = (s.car c).state ∧ (t.car c).faultPending = (s.car c).faultPending := by
  have all := congrArg (fun l : List (CarouselState × Bool) => l.getD c (Carousel.standing {})) h.cars
  simp only [List.getD_map] at all
  exact ⟨congrArg Prod.fst all, congrArg Prod.snd all⟩

theorem length {s t : State} (h : s.Undisturbed t) : t.carousels.length = s.carousels.length := by
  simpa using congrArg List.length h.cars

theorem modCar (s : State) (c : Nat) (f : Carousel → Carousel) (same : ∀ k, (f k).standing = k.standing) :
    s.Undisturbed (s.modCar c f) where
  outbox := rfl
  orders := rfl
  cars := (map_modify_comm _ f id same s.carousels c).trans (List.modify_id ..)
  waits := fun _ => id

theorem of_orders {s t : State} (frame : t = { s with orderUnit := t.orderUnit, bays := t.bays, agenda := t.agenda
                                                      consolidation := t.consolidation })
    (orders : t.orderUnit.orders.map Order.fixed = s.orderUnit.orders.map Order.fixed) : s.Undisturbed t := by
  rw [frame]
  exact ⟨rfl, orders, rfl, fun _ => id⟩

end State.Undisturbed

theorem detach_undisturbed (s : State) (id : Nat) (k : Task) : s.Undisturbed (s.detach id k) := by
  have noted : ∀ (u : State) (c : Nat), u.Undisturbed (u.notePoint c) := fun u c => by
    rw [notePoint_frame]
    exact .of_orders rfl rfl
  have left : ∀ c, s.Undisturbed (s.leaveWait c) := fun c => ⟨rfl, rfl, rfl, fun d idle => by
    rw [State.waits, List.any_eq_false] at idle ⊢
    exact fun e mem => idle e (List.mem_of_mem_filter mem)⟩
  unfold State.detach
  dsimp only
  split
  · refine .trans (.trans (left k.bay.carousel) (.modCar _ _ _ ?_)) (noted _ _)
    exact fun _ => rfl
  · exact .modCar s _ _ fun _ => rfl
  · refine .trans (.modCar s k.bay.carousel (fun x => x.unqueue id) fun _ => rfl) (.of_orders rfl ?_)
    refine (State.keeps_modOrder (fun _ => True) _ _ _ ?_).orders
    exact fun _ => rfl

theorem returnNeed_orders (s : State) (r : GroupRef) (n : Nat) :
    (s.returnNeed r n).orderUnit.orders.map Order.fixed = s.orderUnit.orders.map Order.fixed := by
  have raised := (State.keeps_modGroup (fun _ => True) s r (fun g => { g with need := g.need + n }) fun _ => rfl).orders
  unfold State.returnNeed
  split
  · rfl
  · split
    · rfl
    · dsimp only
      split
      · exact raised
      · split
        · exact raised
        · unfold State.joinPending
          split
          · exact raised
          · exact raised

theorem leaveGroup_orders (s : State) (id : Nat) (k : Task) :
    (s.leaveGroup id k).orderUnit.orders.map Order.fixed = s.orderUnit.orders.map Order.fixed := by
  unfold State.leaveGroup
  split
  · rfl
  · split
    · rfl
    · split
      · rfl
      · exact (returnNeed_orders ..).trans (State.keeps_modGroup (fun _ => True) s k.ref
          (fun g => { g with tasks := g.tasks.filter (· != id) }) fun _ => rfl).orders

theorem endTask_undisturbed (s : State) (id : Nat) (k : Task) (task : s.task id = some k) (pick : k.kind = .pick) :
    s.Undisturbed (s.endTask id) := by
  have ended := endTask_ended s id true
  refine ⟨ended.outbox, ?_, by rw [ended.carousels], fun c idle => by rwa [State.waits, ended.power]⟩
  rw [endTask_pick s id k task pick]
  refine (leaveGroup_orders _ id k).trans ?_
  rw [reserveRelease_orders, giveBack_eq]

theorem withdrawFrom_undisturbed (id : BayId) (s : State) (j : Nat) : s.Undisturbed (s.withdrawFrom id j) := by
  unfold State.withdrawFrom
  split
  · next k task =>
    split
    · next draws =>
      exact (detach_undisturbed s j k).trans (endTask_undisturbed _ j k ((detach_task s j k j).trans task) draws.1)
    · exact .refl s
  · exact .refl s

theorem withdrawn_undisturbed (s : State) (id : BayId) : s.Undisturbed (s.withdrawn id) := by
  have all : ∀ (l : List Nat) (u : State), u.Undisturbed (l.foldl (State.withdrawFrom id) u) := by
    intro l
    induction l with
    | nil => exact .refl
    | cons j l ih => exact fun u => (withdrawFrom_undisturbed id u j).trans (ih _)
  unfold State.withdrawn
  split
  · exact .refl s
  · exact all _ s

/-- With no task to withdraw a hold withdraws nothing. -/
theorem withdrawn_none (s : State) (id : BayId) (none_draws : ∀ j m, s.task j = some m → ¬m.drawsOn id) :
    s.withdrawn id = s := by
  have one : ∀ j, s.withdrawFrom id j = s := fun j => by
    unfold State.withdrawFrom
    split
    · next m task => exact if_neg (none_draws j m task)
    · rfl
  have all : ∀ l : List Nat, l.foldl (State.withdrawFrom id) s = s := fun l => by
    induction l with
    | nil => rfl
    | cons j l ih => rw [List.foldl_cons, one, ih]
  unfold State.withdrawn
  split
  · rfl
  · exact all _

/-! ## A load change with its check (R24, R25) -/

/-- A load change on a carousel with no balance fault, no entry on the power wait list and no work in POWER-WAIT: the balance
record with its flag and notice, task records in BALANCE-WAIT, and a service point noted. -/
theorem loadChange_still (s : State) (c i : Nat) (δ : Int) (check : Bool) (sound : (s.bal c).fault = false)
    (idle : s.waits c = false)
    (stays : ∀ id k, (s.car c).inService = some (.task id) → s.task id = some k → k.state ≠ .powerWait) :
    ∃ (flag : Bool) (link : LinkPort) (pool : List (Option Task)) (agenda : Agenda),
      s.loadChange c i δ check = { s.modBal c (fun b => { b.applyChange i δ with fault := flag }) with
        link, orderUnit := { s.orderUnit with pool }, agenda } ∧
      (∀ id k, s.task id = some k → k.state ≠ .balanceWait → pool.getD id none = some k) ∧
      ∀ id, s.task id = none → pool.getD id none = none := by
  obtain ⟨flag, link, checked⟩ := balanceCheck_frame (s.modBal c fun b => b.applyChange i δ) c check
  have twice : (s.modBal c fun b => b.applyChange i δ).modBal c (fun b => { b with fault := flag }) =
      s.modBal c fun b => { b.applyChange i δ with fault := flag } := by
    unfold State.modBal
    dsimp only
    rw [List.modify_modify_eq]
    rfl
  rw [twice] at checked
  have car : ((s.modBal c fun b => b.applyChange i δ).balanceCheck c check).car c = s.car c := by
    rw [checked]
    rfl
  have tasks : ∀ id, ((s.modBal c fun b => b.applyChange i δ).balanceCheck c check).task id = s.task id := fun id => by
    rw [checked]
    rfl
  have waits : ((s.modBal c fun b => b.applyChange i δ).balanceCheck c check).waits c = false := by
    rw [checked]
    exact idle
  have frame : ∀ (pool : List (Option Task)) (agenda : Agenda),
      ({ (s.modBal c fun b => b.applyChange i δ).balanceCheck c check with
        orderUnit := { ((s.modBal c fun b => b.applyChange i δ).balanceCheck c check).orderUnit with pool }, agenda } : State) =
      { s.modBal c (fun b => { b.applyChange i δ with fault := flag }) with
        link, orderUnit := { s.orderUnit with pool }, agenda } := fun pool agenda => by
    rw [checked]
    rfl
  unfold State.loadChange
  dsimp only
  rw [sound]
  generalize (s.modBal c fun b => b.applyChange i δ).balanceCheck c check = m at car tasks waits frame ⊢
  obtain ⟨pool, retested, kept⟩ := retestTasks_frame (m.car c).walkOrder m
  have all := retestTasks_task (m.car c).walkOrder m
  rw [retested] at all ⊢
  have still : State.retestWaiting { m with orderUnit := { m.orderUnit with pool } } c =
      { m with orderUnit := { m.orderUnit with pool } } := by
    refine retestWaiting_stays _ c fun id k serving task => .inl ?_
    have was := (all id).symm.trans task
    rw [tasks] at was
    obtain ⟨x, task', same⟩ := Option.map_eq_some_iff.1 was
    have other := stays id x (car ▸ serving) task'
    rw [← same]
    split
    · unfold State.retested
      split
      · exact nofun
      · exact other
    · exact other
  rw [still, Bool.false_and, Bool.false_or, if_neg (by simpa [State.waits] using waits), notePoint_frame]
  refine ⟨flag, link, pool, _, frame pool _, fun id k task => kept id k ((tasks id).trans task), fun id task => ?_⟩
  refine (all id).trans ?_
  rw [tasks, task]
  rfl

/-! ## The discrepancy list (R151) -/

/-- A logging changes the list and sends a notice. -/
theorem logEntry_frame (s : State) (e : Discrepancy) : (s.logEntry e).1 =
    { s with audit := (s.logEntry e).1.audit, link := (s.logEntry e).1.link } := by
  unfold State.logEntry
  split
  · dsimp only
    rw [notify_frame]
  · dsimp only
    split
    · rfl
    · rw [notify_frame]

theorem logEntry_list (s : State) (e : Discrepancy) (room : s.audit.list.length < 32) :
    ∃ n, (s.logEntry e).1.audit.list = s.audit.list ++ [{ e with number := n }] := by
  refine ⟨s.audit.nextNumber, ?_⟩
  unfold State.logEntry
  rw [if_pos room]
  dsimp only
  rw [notify_frame]

end Sys2Proof.Machine
end

section
/-! SHORT on a presented PICK (O27, R118): the remainder is released, the bay is emptied and held for AUDIT with the
withdrawals of R15, and a SHORT-PICK is logged. -/

namespace Sys2Proof.Machine

/-! ## The bay record -/

/-- A bay's record with nothing in it and nothing promised. -/
def Bay.emptied (b : Bay) : Bay :=
  { b with count := 0, reserved := 0 }.tidy

/-- The bay's record after SHORT (R12). -/
def Bay.shorted (b : Bay) : Bay :=
  { b with
    count := 0, reserved := 0, holds := b.holds.put .audit true, tyre := if b.incoming = 0 then none else b.tyre }

/-- What was promised out of the bay does not tell in the record emptied. -/
theorem emptied_shelf (b : Bay) : b.emptied = b.shelf.emptied :=
  rfl

theorem emptied_of_shelf (a b : Bay) (held : a.shelf = { b.shelf with holds := b.holds.put .audit true }) :
    a.emptied = b.shorted := by
  rw [emptied_shelf, held, Bay.emptied, tidy_eq, Bay.shorted]
  simp only [Bay.shelf, Nat.zero_add]

/-! ## The release of the remainder -/

section Released

variable (s : State) (id : BayId) (n : Nat)

theorem reserveRelease_shelved : s.Shelved (s.reserveRelease id n) :=
  .of_keeps (State.keeps_reserveRelease (fun _ => True) _ _ _)

theorem reserveRelease_undisturbed : s.Undisturbed (s.reserveRelease id n) := by
  obtain ⟨⟨o, frame, _⟩, _⟩ := reserveRelease_frame s id n
  refine .of_orders ?_ (congrArg _ (reserveRelease_orders s id n))
  rw [frame]

theorem reserveRelease_task (j : Nat) : (s.reserveRelease id n).task j = s.task j := by
  obtain ⟨⟨o, frame, pool⟩, _⟩ := reserveRelease_frame s id n
  rw [frame, State.task, pool, State.task]

theorem reserveRelease_car (c : Nat) : (s.reserveRelease id n).car c = s.car c := by
  obtain ⟨⟨o, frame, _⟩, _⟩ := reserveRelease_frame s id n
  rw [frame]
  rfl

end Released

/-- Bays that agree but for what is promised have their places alike. -/
theorem State.Shelved.place {s t : State} (kept : s.Shelved t) (id : BayId) (carousel : id.carousel < s.bays.length)
    (position : s.position id < (s.baysOf id.carousel).length) :
    id.carousel < t.bays.length ∧ t.position id < (t.baysOf id.carousel).length := by
  have all : t.bays.length = s.bays.length := by simpa using congrArg List.length kept.bays
  have own : (t.baysOf id.carousel).length = (s.baysOf id.carousel).length := by
    simpa using congrArg List.length (kept.baysOf id.carousel)
  rw [all, own, kept.position]
  exact ⟨carousel, position⟩

/-! ## The claim -/

theorem modBay_modBay (s : State) (id : BayId) (f g : Bay → Bay) :
    (s.modBay id f).modBay id g = s.modBay id fun b => g (f b) := by
  unfold State.modBay
  dsimp only
  rw [List.modify_modify_eq]
  congr 2
  funext l
  exact List.modify_modify_eq ..

/-- The rest of the claim once AUDIT is set in `u`: the count with its load change and check, and the SHORT-PICK logged; `s`
is the part before the claim. -/
def State.shorted (s : State) (id : BayId) (u : State) : State :=
  let t := (u.modBay id Bay.emptied).loadChange id.carousel id.carrier (-(s.bayLoad (s.bay id))) true
  (t.logEntry (t.entryFor id .shortPick (s.bay id) [] none true)).1

/-- What SHORT leaves in `u` before the task ends. -/
structure State.Shorts (s : State) (c id : Nat) (k : Task) (u : State) : Prop where
  bay : u.bay k.bay = (s.bay k.bay).shorted
  load : s.CarriesMore u c k.bay.carrier (-(s.bayLoad (s.bay k.bay)))
  task : u.task id = some k
  orders : u.orderUnit.orders.map Order.fixed = s.orderUnit.orders.map Order.fixed
  alone : (∀ j m, s.task j = some m → m.kind = .pick → m.bay = k.bay → j = id) → u.orderUnit.orders = s.orderUnit.orders
  gone : (s.bay k.bay).holds.any = false → ∀ j m, s.task j = some m → m.kind = .pick → m.bay = k.bay →
    m.withdrawable = true → u.task j = none
  list : s.audit.list.length < 32 → ∃ n, u.audit.list = s.audit.list ++ [Discrepancy.mk n c (s.position k.bay) .shortPick
    (s.bay k.bay).tyre (s.bay k.bay).count (s.bay k.bay).incoming [] 0 none true]
  length : u.carousels.length = s.carousels.length
  car : (u.car c).state = (s.car c).state ∧ (u.car c).faultPending = (s.car c).faultPending
  articles : u.articles = s.articles
  transit : u.consolidation.transit = s.consolidation.transit
  outbox : u.outbox = s.outbox

/-- The withdrawals of SHORT (R15), after the remainder is released: the part as it then stands. -/
structure State.Clears (s : State) (c id : Nat) (k : Task) (w : State) : Prop where
  shelved : s.Shelved w
  undisturbed : s.Undisturbed w
  task : w.task id = some k
  alone : (∀ j m, s.task j = some m → m.kind = .pick → m.bay = k.bay → j = id) → w.orderUnit.orders = s.orderUnit.orders
  gone : (s.bay k.bay).holds.any = false → ∀ j m, s.task j = some m → m.kind = .pick → m.bay = k.bay →
    m.withdrawable = true → w.task j = none
  service : ∀ j, (w.car c).inService = some (.task j) → j = id

namespace State.Presents

variable {s : State} {c id : Nat} {k : Task} {p : Profile} (h : s.Presents c id k p)
include h

/-- A task presented is not withdrawn. -/
theorem not_drawsOn (b : BayId) : ¬k.drawsOn b := by
  rintro ⟨_, _, waits⟩
  rw [Task.withdrawable, h.presented] at waits
  cases waits

theorem clears (n : Nat) : s.Clears c id k ((s.reserveRelease k.bay n).withdrawn k.bay) := by
  have released := reserveRelease_task s k.bay n
  have car := reserveRelease_car s k.bay n c
  have before := reserveRelease_shelved s k.bay n
  have spec := withdrawn_spec (s.reserveRelease k.bay n) k.bay
  refine {
    shelved := before.trans spec.shelved
    undisturbed := (reserveRelease_undisturbed s k.bay n).trans (withdrawn_undisturbed _ k.bay)
    task := spec.stays id k ((released id).trans h.task) (h.not_drawsOn k.bay)
    alone := fun only => ?_
    gone := fun free j m task pick bay waits => ?_
    service := fun j serving => ?_ }
  · rw [withdrawn_none _ k.bay fun j m task draws => ?_, reserveRelease_orders]
    have ⟨pick, bay, _⟩ := draws
    rw [released] at task
    have same := only j m task pick bay
    rw [same, h.task] at task
    cases task
    exact h.not_drawsOn k.bay draws
  · rw [before.holds, if_neg (by simp [free])] at spec
    have below : j < 128 := h.bounded.pool ▸ task_lt s j m task
    by_contra there
    obtain ⟨x, now⟩ := Option.ne_none_iff_exists'.1 there
    have was := spec.old j x now
    rw [released, task] at was
    cases was
    exact spec.gone j (List.mem_range.2 below) m now ⟨pick, bay, waits⟩
  · rcases spec.service c with same | ⟨none_there, _⟩
    · rw [serving, car, h.serving] at same
      cases same
      rfl
    · rw [serving] at none_there
      cases none_there

/-- The load change of SHORT and its logging, after the withdrawals that leave `w`. -/
theorem shorted_shorts (w : State) (clears : s.Clears c id k w) (f : Bay → Bay)
    (shelf : ∀ b, (f b).shelf = { b.shelf with holds := b.holds.put .audit true }) :
    s.Shorts c id k (s.shorted k.bay (w.modBay k.bay f)) := by
  obtain ⟨carousel, position⟩ := clears.shelved.place k.bay h.carousel h.bay_len
  have emptied : (w.modBay k.bay fun b => (f b).emptied).bay k.bay = (s.bay k.bay).shorted := by
    have own : (w.bay k.bay).shelf = (s.bay k.bay).shelf := clears.shelved.bay k.bay
    rw [bay_modBay_same w k.bay _ carousel position]
    refine emptied_of_shelf _ _ ?_
    rw [shelf, own, clears.shelved.holds]
  have bal : (w.modBay k.bay fun b => (f b).emptied).bal c = s.bal c := clears.shelved.bal c
  obtain ⟨flag, link, pool, agenda, changed, kept, freed⟩ := loadChange_still (w.modBay k.bay fun b => (f b).emptied) c
    k.bay.carrier (-(s.bayLoad (s.bay k.bay))) true (by rw [bal]; exact h.sound) (clears.undisturbed.waits c h.idle)
    fun j m serving task => by
      obtain rfl := clears.service j serving
      have same := clears.task.symm.trans task
      cases same
      rw [h.presented]
      exact nofun
  unfold State.shorted
  dsimp only
  rw [modBay_modBay, h.here, changed]
  have balance := (bal_modBal (w.modBay k.bay fun b => (f b).emptied) c c fun b =>
    { b.applyChange k.bay.carrier (-(s.bayLoad (s.bay k.bay))) with fault := flag }).trans
      (if_pos ⟨rfl, by rw [State.modBay_balances, clears.shelved.balances]; exact h.bal_len⟩)
  rw [bal] at balance
  exact {
    bay := by
      rw [logEntry_frame]
      exact emptied
    load := by
      rw [logEntry_frame]
      exact carriesMore_of_bal balance
    task := by
      rw [logEntry_frame]
      exact kept id k clears.task (by rw [h.presented]; exact nofun)
    orders := by
      rw [logEntry_frame]
      exact clears.undisturbed.orders
    alone := by
      rw [logEntry_frame]
      exact clears.alone
    gone := fun free j m task pick bay waits => by
      rw [logEntry_frame]
      exact freed j (clears.gone free j m task pick bay waits)
    list := fun room => by
      refine (logEntry_list _ _ ?_).imp fun n listed => listed.trans ?_
      · exact clears.shelved.list ▸ room
      · rw [← h.here, ← clears.shelved.position k.bay, ← clears.shelved.list]
        rfl
    length := by
      rw [logEntry_frame]
      exact clears.undisturbed.length
    car := by
      rw [logEntry_frame]
      exact clears.undisturbed.car c
    articles := by
      rw [logEntry_frame]
      exact clears.shelved.articles
    transit := by
      rw [logEntry_frame]
      exact clears.shelved.transit
    outbox := by
      rw [logEntry_frame]
      exact clears.undisturbed.outbox }

theorem shortClaim_shorts (n : Nat) : s.Shorts c id k (s.shortClaim k.bay n) := by
  obtain ⟨f, shelf, held⟩ := holdSet_eq (s.reserveRelease k.bay n) k.bay .audit
  have is : s.shortClaim k.bay n = s.shorted k.bay ((s.reserveRelease k.bay n).holdSet k.bay .audit) := rfl
  rw [is, held]
  exact h.shorted_shorts _ (h.clears n) f shelf

end State.Presents

end Sys2Proof.Machine
end

section
/-! The presented task at the mouth settled (O27): SHORT ends the task, and the statement put together. -/

namespace Sys2Proof.Machine

/-- A PICK whose bay is settled already ends without a claim (R118). -/
theorem endTask_settled (s : State) (id : Nat) (k : Task) (task : s.task id = some k) (pick : k.kind = .pick) :
    s.endTask id false = (((s.giveBack k.transit).leaveGroup id k).setTask id none).noteRetry .all := by
  unfold State.endTask
  rw [task]
  dsimp only
  rw [pick]
  rfl

theorem endTask_settled_bay (s : State) (id : Nat) (k : Task) (task : s.task id = some k) (pick : k.kind = .pick)
    (j : BayId) : (s.endTask id false).bay j = s.bay j := by
  refine bay_congr ?_ (fun d => by unfold State.car; rw [(endTask_ended s id false).carousels]) j
  obtain ⟨_, left, _⟩ := leaveGroup_ended (s.giveBack k.transit) id k
  rw [endTask_settled s id k task pick, left, giveBack_eq]
  rfl

theorem endTask_settled_group (s : State) (id : Nat) (k : Task) (task : s.task id = some k) (pick : k.kind = .pick)
    (kept : k.withdrawn = false) (more : k.taken < k.quantity) (o : Order) (g : Group) (order : s.order k.order = some o)
    (live : o.state ≠ .withdrawn) (group : s.group k.ref = some g) :
    (s.endTask id false).group k.ref = some { g with
        need := g.need + (k.quantity - k.taken), tasks := g.tasks.filter (· != id) } ∧
      k.ref ∈ (s.endTask id false).orderUnit.pending := by
  have order' : (s.giveBack k.transit).order k.order = some o := by
    rw [giveBack_eq]
    exact order
  have group' : (s.giveBack k.transit).group k.ref = some g := by
    rw [giveBack_eq]
    exact group
  rw [endTask_settled s id k task pick]
  obtain ⟨need, pending⟩ := leaveGroup_group _ id k o g kept order' live group'
  exact ⟨need, pending more⟩

/-- The end of a task that SHORT has settled. -/
structure State.ShortEnds (s : State) (c id : Nat) (k : Task) (g : Group) (v : State) : Prop where
  ends : s.PresentationEnds c id v (s.pickShort c id k)
  bay : v.bay k.bay = (s.bay k.bay).shorted
  load : s.CarriesMore v c k.bay.carrier (-(s.bayLoad (s.bay k.bay)))
  pending : k.ref ∈ v.orderUnit.pending
  gone : (s.bay k.bay).holds.any = false → ∀ j m, j ≠ id → s.task j = some m → m.kind = .pick → m.bay = k.bay →
    m.withdrawable = true → v.task j = none
  alone : (∀ j m, s.task j = some m → m.kind = .pick → m.bay = k.bay → j = id) → v.group k.ref =
    some { g with need := g.need + (k.quantity - k.taken), tasks := g.tasks.filter (· != id) }
  list : s.audit.list.length < 32 → ∃ n, v.audit.list = s.audit.list ++ [Discrepancy.mk n c (s.position k.bay) .shortPick
    (s.bay k.bay).tyre (s.bay k.bay).count (s.bay k.bay).incoming [] 0 none true]
  transit : v.consolidation.transit = s.consolidation.transit
  outbox : v.outbox = s.outbox

namespace State.Presents

variable {s : State} {c id : Nat} {k : Task} {p : Profile} (h : s.Presents c id k p)
include h

theorem pickShort_ends (pick : k.kind = .pick) (kept : k.withdrawn = false) (more : k.taken < k.quantity) (o : Order)
    (g : Group) (order : s.order k.order = some o) (live : o.state ≠ .withdrawn) (group : s.group k.ref = some g) :
    ∃ v, s.ShortEnds c id k g v := by
  have shorts := h.shortClaim_shorts (k.quantity - k.taken)
  have is : s.pickShort c id k = (s.shortClaim k.bay (k.quantity - k.taken)).endPresented c id false := rfl
  generalize s.shortClaim k.bay (k.quantity - k.taken) = u at shorts is
  have ended := endTask_ended u id false
  obtain ⟨o', order', fixed⟩ := order_of_fixed shorts.orders order
  have live' : o'.state ≠ .withdrawn := by
    rw [show o'.state = o.state from (congrArg Order.state fixed :)]
    exact live
  obtain ⟨g', group'⟩ := group_of_fixed shorts.orders group
  refine ⟨u.endTask id false, {
    ends := is ▸ endPresented_ends s u c id false k shorts.task (shorts.length ▸ h.car_len) (shorts.car.1.trans h.state)
      shorts.car.2 shorts.articles
    bay := (endTask_settled_bay u id k shorts.task pick k.bay).trans shorts.bay
    load := ?_
    pending := (endTask_settled_group u id k shorts.task pick kept more o' g' order' live' group').2
    gone := fun free j m ne task pick' bay waits => (ended.others j ne).trans (shorts.gone free j m task pick' bay waits)
    alone := fun only => ?_
    list := fun room => (shorts.list room).imp fun n listed => (congrArg AuditUnit.list ended.audit).trans listed
    transit := ended.transit.trans shorts.transit
    outbox := ended.outbox.trans shorts.outbox }⟩
  · rw [State.CarriesMore, State.bal, ended.balances]
    exact shorts.load
  · have orders := shorts.alone only
    have same_order : u.order k.order = some o := by
      rw [State.order, orders]
      exact order
    have same_group : u.group k.ref = some g := by
      rw [State.group, State.order, orders]
      exact group
    exact (endTask_settled_group u id k shorts.task pick kept more o g same_order live same_group).1

end State.Presents

/-- Settles O27: a case for each read and key; a task that ends does so in `endPresented_ends`. -/
theorem mouthReadsAndKeys : Obligations.MouthReadsAndKeys := by
  refine ⟨fun s f c => ⟨fun role => ?_, fun role => ?_⟩, fun s c id k p bay count tallies key bounded c8 =>
    ⟨fun other => ⟨mouthRead_other s c tallies other, mouthKey_other s c key fun j now => ?_⟩,
      fun step => mouthKey_other s c key fun j now => ?_, fun here position profile state serving task presented sound
        idle short => ?_⟩⟩
  · unfold State.deliver
    rw [role]
  · unfold State.deliver
    rw [role]
  · exact other.elim (· now.1) fun none_there => nomatch none_there.symm.trans now.2
  · exact nomatch step.symm.trans now.2
  have h : s.Presents c id k p := ⟨bounded, c8, here, position, profile, state, serving, task, presented, sound, idle, short⟩
  intro b left tag shown wrong load ended
  refine ⟨fun put none_taken y tyre => ?_, fun pick kept transit more o g y order live group tyre => ?_⟩
  · obtain ⟨short_key, damaged_key, skip_key⟩ := h.mouthKey_put put
    refine ⟨?_, fun other => ?_, ?_, skip_key, short_key⟩
    · rw [h.mouthRead_put put]
      exact h.putRead_confirms put y tyre bay count
    · rw [h.mouthRead_put put, putRead_wrong s c id k y tyre tallies other]
      exact h.wrongItem
    · have ended := endTask_ended s id true
      refine ⟨_, _, h.ends, ?_, h.ends_put put none_taken, ended.balances, ended.link, ended.outbox⟩
      rw [damaged_key, State.putDamaged, tyre]
  · obtain ⟨short_key, damaged_key, skip_key⟩ := h.mouthKey_pick pick
    intro w after
    have same : b.less = after := less_eq b
    refine ⟨fun last room => ?_, fun two => ?_, fun last => ?_, ?_, ?_⟩
    · obtain ⟨v, place, ends, bay', load', group', transit', reserved', link', fifo⟩ := h.take_ends pick kept
        (transit.trans last) last o g y order live group tyre room
      rw [mouthRead_pick s c id k _ state serving task pick, pickRead_take s c id k y bay count tyre]
      exact ⟨v, s.mouthEntry c k y place, ends, bay'.trans same, load', group', transit', rfl, rfl, rfl, rfl, rfl, rfl,
        reserved', link', fifo⟩
    · obtain ⟨u, spoils, now⟩ := h.pickDamaged_goes_on pick two o g y order live group tyre
      have car : u.car c = s.car c := by rw [State.car, spoils.carousels, State.car]
      rw [damaged_key, now]
      exact ⟨spoils.bay.trans same, carriesMore_of_bal (flag := (s.bal c).fault) spoils.bal, spoils.task, spoils.group,
        spoils.pending, spoils.reserved, spoils.freed, spoils.transit, spoils.link, rfl,
        (congrArg Carousel.state car).trans state, (congrArg Carousel.inService car).trans serving,
        congrArg Carousel.presentationTimer car⟩
    · rw [damaged_key]
      obtain ⟨v, ends, bay', rest⟩ := h.pickDamaged_ends pick kept (transit.trans last) last o g y order live group tyre
      exact ⟨v, ends, bay'.trans same, rest⟩
    · obtain ⟨v, ends⟩ := h.pickShort_ends pick kept (by omega) o g order live group
      rw [short_key]
      have weight : s.bayLoad b = b.count * w := by
        unfold State.bayLoad
        rw [tyre]
        exact Nat.cast_mul ..
      exact ⟨v, ends.ends, ends.bay, weight ▸ ends.load, ends.pending, ends.gone, ends.alone, ends.list, ends.transit,
        ends.outbox⟩
    · have ended := endTask_ended s id true
      obtain ⟨bay', group', pending', reserved'⟩ := h.skip_ends pick kept (by omega) o g order live group
      rw [skip_key]
      exact ⟨_, h.ends, bay', ended.balances, group', pending', transit ▸ reserved', ended.transit, ended.link, ended.outbox,
        ended.audit⟩

end Sys2Proof.Machine
end

section
/-! The bays an allocation attempt draws on (O52): the candidates of R98, the anchor of R99 and the draws of R100. -/

namespace Sys2Proof.Machine

/-! ## A list sorted by key -/

theorem mem_insertFirst {α : Type} (key : α → List Nat) (x : α) (l : List α) :
    ∀ y, y ∈ sortByKey.insertFirst key x l ↔ y = x ∨ y ∈ l := by
  induction l with
  | nil => exact fun _ => List.mem_cons
  | cons a l ih =>
    intro y
    unfold sortByKey.insertFirst
    split
    · rw [List.mem_cons, ih, List.mem_cons]
      exact or_left_comm
    · exact List.mem_cons

theorem insertFirst_sorted {α : Type} (key : α → List Nat) (x : α) (l : List α)
    (sorted : l.Pairwise fun a b => key a ≤ key b) :
    (sortByKey.insertFirst key x l).Pairwise fun a b => key a ≤ key b := by
  induction l with
  | nil => exact List.pairwise_singleton _ _
  | cons a l ih =>
    obtain ⟨first, rest⟩ := List.pairwise_cons.1 sorted
    unfold sortByKey.insertFirst
    split
    · next before =>
      refine List.pairwise_cons.2 ⟨fun y hy => ?_, ih rest⟩
      rcases (mem_insertFirst key x l y).1 hy with rfl | hy
      · exact le_of_lt ((keyBefore_iff_lt _ _).1 before)
      · exact first y hy
    · next behind =>
      rw [keyBefore_iff_lt, not_lt] at behind
      refine List.pairwise_cons.2 ⟨fun y hy => ?_, sorted⟩
      rcases List.mem_cons.1 hy with rfl | hy
      · exact behind
      · exact behind.trans (first y hy)

theorem sortByKey_sorted {α : Type} (key : α → List Nat) (l : List α) :
    (sortByKey key l).Pairwise fun a b => key a ≤ key b := by
  induction l with
  | nil => exact List.Pairwise.nil
  | cons x l ih => exact insertFirst_sorted key x _ ih

/-! ## The candidates (R98) -/

theorem removalTest_iff (s : State) (c i n article : Nat) : s.removalTest c i n article = true ↔
    ∃ e, (s.bal c).enabledGrades.getLast? = some e ∧
      (stateOf ((s.bal c).loads.modify i (· - ((n * s.weight article : Nat) : Int)))).1 ≤ e.imbalance ∧
      (stateOf ((s.bal c).loads.modify i (· - ((n * s.weight article : Nat) : Int)))).2 ≤ e.total :=
  Balance.admits_iff _ _ _

theorem candidate_eq_some_iff (s : State) (article need : Nat) (w : Option Window) (id : BayId) (x : Candidate) :
    s.candidate article need w id = some x ↔ x.bay = id ∧ (s.bay id).tyre = some { article, batch := x.batch } ∧
      (s.bay id).holds.any = false ∧ x.available = (s.bay id).available ∧ 0 < x.available ∧
      windowAdmits w (s.tolerance article) x.batch = true ∧
      s.removalTest id.carousel id.carrier (min x.available need) article = true := by
  obtain ⟨bay, batch, available⟩ := x
  unfold State.candidate
  dsimp only
  split
  · next t tyre =>
    obtain ⟨code, made⟩ := t
    rw [tyre, Option.ite_none_right_eq_some]
    simp only [Option.some.injEq, Candidate.mk.injEq, Tyre.mk.injEq]
    constructor
    · rintro ⟨⟨rfl, pos, unheld, admits, test⟩, rfl, rfl, rfl⟩
      exact ⟨rfl, ⟨rfl, rfl⟩, unheld, rfl, pos, admits, test⟩
    · rintro ⟨rfl, ⟨rfl, rfl⟩, unheld, rfl, pos, admits, test⟩
      exact ⟨⟨rfl, pos, unheld, admits, test⟩, rfl, rfl, rfl⟩
  · next bare => simp [bare]

theorem mem_candidates_iff (s : State) (article need : Nat) (w : Option Window) (x : Candidate) :
    x ∈ s.candidates article need w [] ↔ ∃ c p, c < 8 ∧ p < (s.baysOf c).length ∧ s.offersBays c = true ∧
      s.candidate article need w (s.bayAt c p) = some x := by
  unfold State.candidates
  simp only [List.mem_flatMap, List.mem_range]
  constructor
  · rintro ⟨c, c8, listed⟩
    split at listed
    · next serves =>
      obtain ⟨p, below, kept⟩ := List.mem_filterMap.1 listed
      exact ⟨c, p, c8, List.mem_range.1 below, serves, kept⟩
    · cases listed
  · rintro ⟨c, p, c8, below, serves, kept⟩
    refine ⟨c, c8, ?_⟩
    rw [if_pos serves]
    exact List.mem_filterMap.2 ⟨p, List.mem_range.2 below, kept⟩

/-- No two candidates are of one bay. -/
theorem candidates_distinct (s : State) (article need : Nat) (w : Option Window) {a b : Candidate}
    (ha : a ∈ s.candidates article need w []) (hb : b ∈ s.candidates article need w []) (same : a.bay = b.bay) : a = b :=
  List.inj_on_of_nodup_map (s.candidates_place article need w []).1 ha hb (congrArg s.place same)

/-- A candidate is of a bay the part has. -/
theorem candidate_bay (s : State) (article need : Nat) (w : Option Window) {a : Candidate}
    (ha : a ∈ s.candidates article need w []) :
    ∃ c p, c < 8 ∧ p < (s.baysOf c).length ∧ a.bay = s.bayAt c p := by
  obtain ⟨c, p, c8, below, _, kept⟩ := (mem_candidates_iff s article need w a).1 ha
  exact ⟨c, p, c8, below, ((candidate_eq_some_iff ..).1 kept).1⟩

/-! ## The anchor (R99) -/

/-- The candidates whose batch lies within the tolerance of `x`. -/
def spanOf (cands : List Candidate) (x t : Nat) : List Candidate :=
  cands.filter fun c => decide (x ≤ c.batch) && decide (c.batch ≤ x + t)

/-- What candidates have available together. -/
def availableOf (l : List Candidate) : Nat :=
  (l.map Candidate.available).sum

theorem spanSum_eq (cands : List Candidate) (x t : Nat) : spanSum cands x t = availableOf (spanOf cands x t) := rfl

theorem anchor_eq_none (cands : List Candidate) (need t : Nat)
    (short : ∀ x ∈ cands, availableOf (spanOf cands x.batch t) < need) : anchor cands need t = none := by
  unfold anchor
  rw [Option.map_eq_none_iff, List.find?_eq_none]
  intro x listed
  rw [decide_eq_true_eq, not_le, spanSum_eq]
  exact short x ((sortByKey_perm _ _).mem_iff.1 listed)

/-- The first candidate by batch whose span reaches the need gives the anchor. -/
theorem anchor_eq_some (cands : List Candidate) (need t : Nat) (x : Candidate) (listed : x ∈ cands)
    (reaches : need ≤ availableOf (spanOf cands x.batch t))
    (first : ∀ y ∈ cands, y.batch < x.batch → availableOf (spanOf cands y.batch t) < need) :
    anchor cands need t = some x.batch := by
  have sorted := sortByKey_sorted (fun c : Candidate => [c.batch]) cands
  have perm := sortByKey_perm (fun c : Candidate => [c.batch]) cands
  have there : x ∈ sortByKey (fun c : Candidate => [c.batch]) cands := perm.mem_iff.2 listed
  unfold anchor
  cases found : (sortByKey (fun c : Candidate => [c.batch]) cands).find?
      fun c => decide (need ≤ spanSum cands c.batch t) with
  | none => exact absurd (decide_eq_true reaches) (List.find?_eq_none.1 found x there)
  | some y =>
    obtain ⟨ok, front, back, split, fail⟩ := List.find?_eq_some_iff_append.1 found
    have y_reaches : need ≤ availableOf (spanOf cands y.batch t) := of_decide_eq_true ok
    have y_listed : y ∈ cands := perm.mem_iff.1 (List.mem_of_find?_eq_some found)
    have not_below : x.batch ≤ y.batch := not_lt.1 fun lt => absurd y_reaches (not_le.2 (first y y_listed lt))
    have not_above : y.batch ≤ x.batch := by
      rw [split] at there sorted
      rcases List.mem_append.1 there with before | after
      · have failed := fail x before
        rw [spanSum_eq, decide_eq_true reaches] at failed
        cases failed
      rcases List.mem_cons.1 after with rfl | after
      · exact le_refl _
      · have le := (List.pairwise_cons.1 (List.pairwise_append.1 sorted).2.1).1 x after
        simpa [le_iff_lt_or_eq, List.cons_lt_cons_iff] using le
    exact congrArg some (le_antisymm not_above not_below)

/-! ## The order of the draws (R100) -/

/-- The bay of `a` is drawn before that of `b`: batch ascending, available quantity descending, lowest C.K.B. -/
def Candidate.drawnBefore (a b : Candidate) : Prop :=
  a.batch < b.batch ∨ (a.batch = b.batch ∧ (b.available < a.available ∨
    (a.available = b.available ∧ (a.bay.carousel < b.bay.carousel ∨ (a.bay.carousel = b.bay.carousel ∧
      (a.bay.carrier < b.bay.carrier ∨ (a.bay.carrier = b.bay.carrier ∧ a.bay.bay < b.bay.bay)))))))

theorem le_foldl_max (l : List Nat) (m : Nat) : m ≤ l.foldl max m ∧ ∀ x ∈ l, x ≤ l.foldl max m := by
  induction l generalizing m with
  | nil => exact ⟨le_refl m, nofun⟩
  | cons a l ih =>
    obtain ⟨from_start, each⟩ := ih (max m a)
    refine ⟨(le_max_left m a).trans from_start, fun x hx => ?_⟩
    rcases List.mem_cons.1 hx with rfl | hx
    · exact (le_max_right m x).trans from_start
    · exact each x hx

/-- The keys of two different bays, in order, put the one before the other. -/
theorem drawnBefore_of_key_le (most : Nat) (a b : Candidate) (ha : a.available ≤ most) (hb : b.available ≤ most)
    (apart : a.bay ≠ b.bay) (le : [a.batch, most - a.available, a.bay.carousel, a.bay.carrier, a.bay.bay] ≤
      [b.batch, most - b.available, b.bay.carousel, b.bay.carrier, b.bay.bay]) : a.drawnBefore b := by
  obtain ⟨⟨c, k, n⟩, batch, available⟩ := a
  obtain ⟨⟨c', k', n'⟩, batch', available'⟩ := b
  simp only [le_iff_lt_or_eq, List.cons_lt_cons_iff, List.not_lt_nil, and_false, or_false, List.cons.injEq, and_true] at le
  simp only [ne_eq, BayId.mk.injEq] at apart
  simp only [Candidate.drawnBefore]
  simp only at ha hb
  omega

theorem mem_drawOrder (cands : List Candidate) (x t : Nat) (c : Candidate) :
    c ∈ drawOrder cands x t ↔ c ∈ spanOf cands x t :=
  (sortByKey_perm _ _).mem_iff

theorem availableOf_drawOrder (cands : List Candidate) (x t : Nat) :
    availableOf (drawOrder cands x t) = availableOf (spanOf cands x t) :=
  ((sortByKey_perm _ _).map _).sum_eq

/-- Candidates of different bays are drawn in the order of R100. -/
theorem drawOrder_ordered (s : State) (article need : Nat) (w : Option Window) (x t : Nat) :
    (drawOrder (s.candidates article need w []) x t).Pairwise Candidate.drawnBefore := by
  have listed : ∀ c ∈ drawOrder (s.candidates article need w []) x t, c ∈ s.candidates article need w [] := fun c h =>
    List.mem_of_mem_filter ((mem_drawOrder _ _ _ c).1 h)
  have bays : ((drawOrder (s.candidates article need w []) x t).map fun c => s.place c.bay).Nodup := by
    rw [drawOrder, ((sortByKey_perm _ _).map _).nodup_iff]
    exact (s.candidates_place article need w []).1.sublist (List.filter_sublist.map _)
  have apart : (drawOrder (s.candidates article need w []) x t).Pairwise fun a b => a.bay ≠ b.bay :=
    (List.pairwise_map.1 bays).imp fun ne same => ne (congrArg s.place same)
  have most : ∀ c ∈ s.candidates article need w [], c.available ≤
      ((s.candidates article need w []).map Candidate.available).foldl max 0 := fun c h =>
    (le_foldl_max _ 0).2 _ (List.mem_map_of_mem h)
  refine (apart.and (sortByKey_sorted _ _)).imp_of_mem fun {a b} ha hb both => ?_
  exact drawnBefore_of_key_le _ a b (most a (listed a ha)) (most b (listed b hb)) both.1 both.2

/-! ## The draws (R100) -/

/-- A draw of all that a bay offers. -/
def Candidate.whole (c : Candidate) : Draw :=
  { bay := c.bay, batch := c.batch, quantity := c.available }

theorem planDraws_zero (l : List Candidate) : planDraws 0 l = [] := by
  cases l <;> rfl

/-- Each bay is drawn whole but the last, which gives what is still to be drawn. -/
theorem planDraws_split (l : List Candidate) (need : Nat) (pos : 0 < need) (enough : need ≤ availableOf l) :
    ∃ full last rest, l = full ++ last :: rest ∧ availableOf full < need ∧ need ≤ availableOf full + last.available ∧
      planDraws need l = full.map Candidate.whole ++
        [{ bay := last.bay, batch := last.batch, quantity := need - availableOf full }] := by
  induction l generalizing need with
  | nil => exact absurd enough (not_le.2 pos)
  | cons c l ih =>
    have all : availableOf (c :: l) = c.available + availableOf l := List.sum_cons
    unfold planDraws
    rw [if_neg pos.ne']
    by_cases last : need ≤ c.available
    · refine ⟨[], c, l, rfl, pos, by simpa [availableOf] using last, ?_⟩
      rw [min_eq_right last, Nat.sub_self, planDraws_zero]
      rfl
    · have more : c.available < need := not_le.1 last
      obtain ⟨full, last, rest, split, low, high, plan⟩ := ih (need - c.available) (by omega) (by omega)
      have grown : availableOf (c :: full) = c.available + availableOf full := List.sum_cons
      refine ⟨c :: full, last, rest, by rw [split]; rfl, by omega, by omega, ?_⟩
      rw [min_eq_left more.le, plan, grown, Nat.sub_sub]
      rfl

end Sys2Proof.Machine
end

section
/-! One allocation attempt (O52): the RESERVE claims, the records, the group and its window (R92, R97, R100, R101). -/

namespace Sys2Proof.Machine

/-! ## The RESERVE claims (R10, R100) -/

/-- The part once the tyres of a draw are promised out of its bay. -/
def State.promised (s : State) (d : Draw) : State :=
  s.modBay d.bay fun b => { b with reserved := b.reserved + d.quantity }

/-- Claims of draws that their bays offer, each bay once, are all accepted. -/
theorem reservePlan_promised (article : Nat) (plan made : List Draw) (s : State) (offered : ∀ d ∈ plan, s.offers article d)
    (apart : (plan.map fun d => s.place d.bay).Nodup) :
    s.reservePlan article plan made = .ok (plan.foldl State.promised s) := by
  induction plan generalizing s made with
  | nil => rfl
  | cons d plan ih =>
    obtain ⟨new, apart⟩ := List.nodup_cons.1 apart
    have claim : s.reserve d.bay { article, batch := d.batch } d.quantity = some (s.promised d) :=
      if_pos (offered d List.mem_cons_self)
    unfold State.reservePlan
    rw [claim]
    refine ih (made ++ [d]) (s.promised d) (fun x hx => ?_) apart
    have same : (s.promised d).bay x.bay = s.bay x.bay := State.bay_modBay_other s d.bay x.bay _ fun e =>
      new (List.mem_map.2 ⟨x, hx, e.symm⟩)
    unfold State.offers
    rw [same]
    exact offered x (List.mem_cons_of_mem d hx)

theorem promised_frame (plan : List Draw) (s : State) :
    plan.foldl State.promised s = { s with bays := (plan.foldl State.promised s).bays } := by
  induction plan generalizing s with
  | nil => rfl
  | cons d plan ih => exact ih (s.promised d)

theorem promised_bay_other (plan : List Draw) (s : State) (id : BayId) (other : ∀ d ∈ plan, s.place d.bay ≠ s.place id) :
    (plan.foldl State.promised s).bay id = s.bay id := by
  induction plan generalizing s with
  | nil => rfl
  | cons d plan ih =>
    exact (ih (s.promised d) fun x hx => other x (List.mem_cons_of_mem d hx)).trans
      (State.bay_modBay_other s d.bay id _ (other d List.mem_cons_self))

/-- Every bay of the plan has its draw promised. -/
theorem promised_bay (plan : List Draw) (s : State) (d : Draw) (drawn : d ∈ plan)
    (apart : (plan.map fun d => s.place d.bay).Nodup)
    (room : d.bay.carousel < s.bays.length ∧ s.position d.bay < (s.baysOf d.bay.carousel).length) :
    (plan.foldl State.promised s).bay d.bay = { s.bay d.bay with reserved := (s.bay d.bay).reserved + d.quantity } := by
  induction plan generalizing s with
  | nil => cases drawn
  | cons a plan ih =>
    obtain ⟨new, apart⟩ := List.nodup_cons.1 apart
    rcases List.mem_cons.1 drawn with rfl | later
    · refine (promised_bay_other plan (s.promised d) d.bay fun x hx e => ?_).trans
        (bay_modBay_same s d.bay _ room.1 room.2)
      exact new (List.mem_map.2 ⟨x, hx, e⟩)
    · have other : (s.promised a).bay d.bay = s.bay d.bay := State.bay_modBay_other s a.bay d.bay _ fun e =>
        new (List.mem_map.2 ⟨d, later, e.symm⟩)
      have room' : d.bay.carousel < (s.promised a).bays.length ∧
          (s.promised a).position d.bay < ((s.promised a).baysOf d.bay.carousel).length := by
        refine ⟨by simpa [State.promised] using room.1, ?_⟩
        show s.position d.bay < ((s.bays.modify a.bay.carousel _).getD d.bay.carousel []).length
        rw [getD_modify]
        split
        · rw [List.length_modify]
          exact room.2
        · exact room.2
      rw [List.foldl_cons, ih (s.promised a) later apart room', other]

/-! ## The records (R97, R100) -/

theorem freeTasks_eq (s : State) (pool : s.orderUnit.pool.length = 128) :
    s.freeTasks = (List.range 128).filter fun id => (s.task id).isNone := by
  refine List.filter_congr fun id below => ?_
  rw [List.mem_range, ← pool] at below
  rw [State.task, List.getD_eq_getElem?_getD, List.getElem?_eq_getElem below]
  cases s.orderUnit.pool[id] <;> rfl

/-- The part once the record `id` is the task of a draw. -/
def State.handed (o : Order) (ref : GroupRef) (s : State) (x : Nat × Draw) : State :=
  s.setTask x.1 (some (pickTask o ref x.2))

variable (o : Order) (ref : GroupRef)

theorem handed_frame (l : List (Nat × Draw)) (s : State) :
    l.foldl (State.handed o ref) s =
      { s with orderUnit := { s.orderUnit with pool := (l.foldl (State.handed o ref) s).orderUnit.pool } } := by
  induction l generalizing s with
  | nil => rfl
  | cons x l ih => exact ih (s.handed o ref x)

theorem handed_task_other (ids : List Nat) (plan : List Draw) (s : State) (id : Nat) (other : id ∉ ids) :
    ((ids.zip plan).foldl (State.handed o ref) s).task id = s.task id := by
  induction ids generalizing plan s with
  | nil => rfl
  | cons i ids ih =>
    obtain ⟨ne, rest⟩ := not_or.1 (mt List.mem_cons.2 other)
    cases plan with
    | nil => rfl
    | cons d plan =>
      refine (ih plan (s.handed o ref (i, d)) rest).trans ?_
      exact (State.task_setTask ..).trans (if_neg fun e => ne e.1.symm)

/-- Each record in turn is the task of the draw at its place. -/
theorem handed_task (ids : List Nat) (plan : List Draw) (s : State) (distinct : ids.Nodup)
    (room : ∀ id ∈ ids, id < s.orderUnit.pool.length) (i id : Nat) (d : Draw) (record : ids[i]? = some id)
    (draw : plan[i]? = some d) : ((ids.zip plan).foldl (State.handed o ref) s).task id = some (pickTask o ref d) := by
  induction ids generalizing plan s i with
  | nil => cases record
  | cons j ids ih =>
    obtain ⟨new, distinct⟩ := List.nodup_cons.1 distinct
    cases plan with
    | nil => cases draw
    | cons e plan =>
      cases i with
      | zero =>
        cases record
        cases draw
        refine (handed_task_other o ref ids plan _ id new).trans ?_
        exact (State.task_setTask ..).trans (if_pos ⟨rfl, room id List.mem_cons_self⟩)
      | succ i =>
        refine ih plan (s.handed o ref (j, e)) distinct (fun k hk => ?_) i record draw
        show k < (s.orderUnit.pool.modify j _).length
        rw [List.length_modify]
        exact room k (List.mem_cons_of_mem j hk)

/-! ## The window (R92) -/

/-- `w` is the narrowest window over the window `v`, if any, and the batches `l`. -/
structure Window.Spans (v : Option Window) (l : List Draw) (w : Window) : Prop where
  batches : ∀ d ∈ l, w.low ≤ d.batch ∧ d.batch ≤ w.high
  window : ∀ x, v = some x → w.low ≤ x.low ∧ x.high ≤ w.high
  low : (∃ d ∈ l, d.batch = w.low) ∨ ∃ x, v = some x ∧ x.low = w.low
  high : (∃ d ∈ l, d.batch = w.high) ∨ ∃ x, v = some x ∧ x.high = w.high

theorem Window.Spans.single (d : Draw) : Window.Spans none [d] { low := d.batch, high := d.batch } where
  batches := fun x hx => by rw [List.mem_singleton.1 hx]; exact ⟨le_refl _, le_refl _⟩
  window := nofun
  low := .inl ⟨d, List.mem_singleton_self d, rfl⟩
  high := .inl ⟨d, List.mem_singleton_self d, rfl⟩

theorem Window.Spans.start (v : Window) : Window.Spans (some v) [] v where
  batches := nofun
  window := fun x hx => by cases hx; exact ⟨le_refl _, le_refl _⟩
  low := .inr ⟨v, rfl, rfl⟩
  high := .inr ⟨v, rfl, rfl⟩

theorem Window.Spans.add {v : Option Window} {l : List Draw} {w : Window} (h : Window.Spans v l w) (d : Draw) :
    Window.Spans v (l ++ [d]) { low := min w.low d.batch, high := max w.high d.batch } where
  batches := fun x hx => by
    rcases List.mem_append.1 hx with hx | hx
    · have := h.batches x hx
      exact ⟨(min_le_left _ _).trans this.1, this.2.trans (le_max_left _ _)⟩
    · rw [List.mem_singleton.1 hx]
      exact ⟨min_le_right _ _, le_max_right _ _⟩
  window := fun x hx =>
    ⟨(min_le_left _ _).trans (h.window x hx).1, (h.window x hx).2.trans (le_max_left _ _)⟩
  low := by
    rcases le_total w.low d.batch with le | le
    · rw [min_eq_left le]
      exact h.low.imp_left fun ⟨x, hx, e⟩ => ⟨x, List.mem_append_left _ hx, e⟩
    · rw [min_eq_right le]
      exact .inl ⟨d, by simp, rfl⟩
  high := by
    rcases le_total d.batch w.high with le | le
    · rw [max_eq_left le]
      exact h.high.imp_left fun ⟨x, hx, e⟩ => ⟨x, List.mem_append_left _ hx, e⟩
    · rw [max_eq_right le]
      exact .inl ⟨d, by simp, rfl⟩

theorem foldl_widen_append {v : Option Window} {l : List Draw} {w : Window}
    (made : l.foldl (fun w d => widen w d.batch) v = some w) (spans : Window.Spans v l w) (d : Draw) :
    ∃ x, (l ++ [d]).foldl (fun w d => widen w d.batch) v = some x ∧ Window.Spans v (l ++ [d]) x := by
  refine ⟨_, ?_, spans.add d⟩
  rw [List.foldl_append, made]
  rfl

/-- Draws widen a window to the narrowest over them all. -/
theorem foldl_widen_spans (v : Option Window) (l : List Draw) (d : Draw) :
    ∃ w, (l ++ [d]).foldl (fun w d => widen w d.batch) v = some w ∧ Window.Spans v (l ++ [d]) w := by
  induction l using List.reverseRecOn generalizing d with
  | nil =>
    cases v with
    | none => exact ⟨_, rfl, .single d⟩
    | some v => exact foldl_widen_append (l := []) rfl (.start v) d
  | append_singleton l e ih =>
    obtain ⟨w, made, spans⟩ := ih e
    exact foldl_widen_append made spans d

end Sys2Proof.Machine
end

section
/-! One allocation attempt put together (O52): R97 to R101. -/

namespace Sys2Proof.Machine

/-! ## The attempt -/

/-- The group once its whole need is drawn (R92, R100). -/
def Group.drawn (g : Group) (plan : List Draw) (ids : List Nat) : Group :=
  { g with
    need := 0
    tasks := g.tasks ++ ids
    window := plan.foldl (fun w d => widen w d.batch) g.window }

/-- The part once a plan's draws are promised and its tasks made, before these are placed. -/
def State.allotted (s : State) (o : Order) (ref : GroupRef) (plan : List Draw) (ids : List Nat) : State :=
  let v := ((ids.zip plan).foldl (State.handed o ref) (plan.foldl State.promised s)).modGroup ref fun g => g.drawn plan ids
  { v with orderUnit := { v.orderUnit with pending := v.orderUnit.pending.filter (· != ref) } }

/-- The plan of an attempt whose anchor is the batch `x`. -/
def State.planAt (s : State) (ref : GroupRef) (g : Group) (x : Nat) : List Draw :=
  planDraws g.need (drawOrder (s.candidates (s.groupArticle ref) g.need g.window []) x (s.tolerance (s.groupArticle ref)))

/-- The draws of a plan are of different bays that the part has, and within what these offer (R98, R100). -/
structure State.Bears (s : State) (article : Nat) (plan : List Draw) : Prop where
  offers : ∀ d ∈ plan, s.offers article d
  apart : (plan.map fun d => s.place d.bay).Nodup
  bays : ∀ d ∈ plan, ∃ c p, c < 8 ∧ p < (s.baysOf c).length ∧ d.bay = s.bayAt c p

section Attempt

variable (s : State) (ref : GroupRef) (o : Order) (g : Group) (order : s.order ref.order = some o)
  (group : s.group ref = some g)

theorem planAt_borne (x : Nat) : State.Bears s (s.groupArticle ref) (s.planAt ref g x) := by
  obtain ⟨apart, offers⟩ := s.candidates_place (s.groupArticle ref) g.need g.window []
  obtain ⟨sub, source⟩ := planDraws_from g.need
    (drawOrder (s.candidates (s.groupArticle ref) g.need g.window []) x (s.tolerance (s.groupArticle ref)))
  have listed : ∀ c ∈ drawOrder (s.candidates (s.groupArticle ref) g.need g.window []) x
      (s.tolerance (s.groupArticle ref)), c ∈ s.candidates (s.groupArticle ref) g.need g.window [] := fun c h =>
    List.mem_of_mem_filter ((mem_drawOrder _ _ _ c).1 h)
  refine ⟨fun d hd => ?_, ?_, fun d hd => ?_⟩
  · obtain ⟨c, hc, bay, batch, le⟩ := source d hd
    obtain ⟨unheld, tyre, room⟩ := offers c (listed c hc)
    unfold State.offers
    rw [bay, batch]
    exact ⟨unheld, tyre, by omega⟩
  · have ordered : ((drawOrder (s.candidates (s.groupArticle ref) g.need g.window []) x
        (s.tolerance (s.groupArticle ref))).map fun c => s.place c.bay).Nodup := by
      rw [drawOrder, ((sortByKey_perm _ _).map _).nodup_iff]
      exact apart.sublist (List.filter_sublist.map _)
    have places := sub.map s.place
    rw [List.map_map, List.map_map] at places
    exact ordered.sublist places
  · obtain ⟨c, hc, bay, _⟩ := source d hd
    obtain ⟨k, p, k8, below, at_⟩ := candidate_bay s _ _ _ (listed c hc)
    exact ⟨k, p, k8, below, bay.trans at_⟩

/-- The plan draws whole bays in the order of R100 and what is still needed from the last. -/
theorem planAt_split (x : Nat) (need : 0 < g.need) (enough : g.need ≤ availableOf (spanOf
      (s.candidates (s.groupArticle ref) g.need g.window []) x (s.tolerance (s.groupArticle ref)))) :
    ∃ (full : List Candidate) (last : Candidate), (full ++ [last]).Pairwise Candidate.drawnBefore ∧
      (∀ c ∈ full ++ [last], c ∈ spanOf (s.candidates (s.groupArticle ref) g.need g.window []) x
        (s.tolerance (s.groupArticle ref))) ∧
      (∀ c ∈ spanOf (s.candidates (s.groupArticle ref) g.need g.window []) x (s.tolerance (s.groupArticle ref)),
        c ∈ full ++ [last] ∨ last.drawnBefore c) ∧
      availableOf full < g.need ∧ g.need ≤ availableOf full + last.available ∧
      s.planAt ref g x = full.map Candidate.whole ++
        [{ bay := last.bay, batch := last.batch, quantity := g.need - availableOf full }] := by
  have ordered := drawOrder_ordered s (s.groupArticle ref) g.need g.window x (s.tolerance (s.groupArticle ref))
  unfold State.planAt
  generalize s.candidates (s.groupArticle ref) g.need g.window [] = cands at enough ordered ⊢
  generalize s.tolerance (s.groupArticle ref) = t at enough ordered ⊢
  rw [← availableOf_drawOrder] at enough
  obtain ⟨full, last, rest, split, low, high, plan⟩ := planDraws_split (drawOrder cands x t) g.need need enough
  have front : drawOrder cands x t = (full ++ [last]) ++ rest := by rw [split, List.append_assoc]; rfl
  rw [front] at ordered
  obtain ⟨front_ordered, _, across⟩ := List.pairwise_append.1 ordered
  refine ⟨full, last, front_ordered, fun c hc => ?_, fun c hc => ?_, low, high, plan⟩
  · exact (mem_drawOrder cands x t c).1 (front ▸ List.mem_append_left rest hc)
  · have mem := (mem_drawOrder cands x t c).2 hc
    rw [front] at mem
    exact (List.mem_append.1 mem).imp_right (across last (by simp) c)

include order group

/-- With no anchor nothing changes (R99). -/
theorem allocateGroup_no_anchor (short : anchor (s.candidates (s.groupArticle ref) g.need g.window []) g.need
    (s.tolerance (s.groupArticle ref)) = none) : s.allocateGroup ref = (s, false) := by
  show State.allocate ref (1920 + 1) [] s = _
  unfold State.allocate
  rw [order, group]
  dsimp only
  rw [short]

/-- With an anchor the plan's claims are accepted; it wants free records for all its draws (R97, R100). -/
theorem allocateGroup_anchored (x : Nat) (found : anchor (s.candidates (s.groupArticle ref) g.need g.window []) g.need
    (s.tolerance (s.groupArticle ref)) = some x) : s.allocateGroup ref =
      if s.freeTasks.length < (s.planAt ref g x).length then (s, false)
      else ((s.freeTasks.take (s.planAt ref g x).length).foldl (State.placeTask o)
        (s.allotted o ref (s.planAt ref g x) (s.freeTasks.take (s.planAt ref g x).length)), true) := by
  have offered := planAt_borne s ref g x
  have few : (s.freeTasks.take (s.planAt ref g x).length).length < (s.planAt ref g x).length ↔
      s.freeTasks.length < (s.planAt ref g x).length := by
    rw [List.length_take]
    omega
  show State.allocate ref (1920 + 1) [] s = _
  unfold State.allocate
  rw [order, group]
  dsimp only
  rw [found]
  dsimp only
  rw [show planDraws g.need _ = s.planAt ref g x from rfl]
  by_cases lacks : s.freeTasks.length < (s.planAt ref g x).length
  · rw [if_pos (few.2 lacks), if_pos lacks]
  · rw [if_neg (mt few.1 lacks), if_neg lacks, reservePlan_promised _ _ [] s offered.offers offered.apart]
    rfl

end Attempt

/-! ## The part once the draws are promised and the tasks made -/

section Allotted

variable (s : State) (o : Order) (ref : GroupRef) (plan : List Draw) (ids : List Nat)

theorem allotted_frame : s.allotted o ref plan ids = { s with
    bays := (s.allotted o ref plan ids).bays
    orderUnit := { s.orderUnit with
      pool := (s.allotted o ref plan ids).orderUnit.pool
      orders := (s.modGroup ref fun g => g.drawn plan ids).orderUnit.orders
      pending := s.orderUnit.pending.filter (· != ref) } } := by
  unfold State.allotted
  rw [handed_frame o ref, promised_frame]
  rfl

theorem allotted_group (g : Group) (group : s.group ref = some g) :
    (s.allotted o ref plan ids).group ref = some (g.drawn plan ids) := by
  have same : (s.allotted o ref plan ids).group ref = (s.modGroup ref fun g => g.drawn plan ids).group ref := by
    rw [allotted_frame]
    rfl
  rw [same, group_modGroup, group]
  · rfl
  · exact fun _ => rfl

theorem promised_task (id : Nat) : (plan.foldl State.promised s).task id = s.task id := by
  rw [promised_frame]
  rfl

theorem allotted_task (distinct : ids.Nodup) (room : ∀ id ∈ ids, id < s.orderUnit.pool.length) (i id : Nat) (d : Draw)
    (record : ids[i]? = some id) (draw : plan[i]? = some d) :
    (s.allotted o ref plan ids).task id = some (pickTask o ref d) := by
  refine handed_task o ref ids plan _ distinct (fun j hj => ?_) i id d record draw
  rw [promised_frame]
  exact room j hj

theorem allotted_task_other (id : Nat) (other : id ∉ ids) : (s.allotted o ref plan ids).task id = s.task id :=
  (handed_task_other o ref ids plan _ id other).trans (promised_task s plan id)

theorem allotted_bay (id : BayId) : (s.allotted o ref plan ids).bay id = (plan.foldl State.promised s).bay id := by
  unfold State.allotted
  rw [handed_frame o ref]
  rfl

end Allotted

/-- Settles O52: the candidates are `mem_candidates_iff`, the anchor is that of R99, and the plan splits into bays drawn
whole and the last. -/
theorem allocationDraws : Obligations.AllocationDraws := by
  intro s ref o g bounded order group need article t cands span total before place
  have free : s.freeTasks = (List.range 128).filter fun id => (s.task id).isNone := freeTasks_eq s bounded.pool
  have placed : State.placeTask o = place := by
    funext v id
    rfl
  refine ⟨fun x => ?_, fun short => ?_, fun x listed reaches first => ?_⟩
  · rw [mem_candidates_iff]
    refine exists_congr fun c => exists_congr fun p => ?_
    rw [offersBays_iff, candidate_eq_some_iff, windowAdmits_iff]
    constructor
    · rintro ⟨c8, below, ⟨serves, sound⟩, bay, tyre, unheld, available, pos, admits, test⟩
      rw [← bay] at tyre unheld available test
      have here : x.bay.carousel = c := by rw [bay]; rfl
      rw [here] at test
      exact ⟨c8, below, bay, serves, sound, tyre, unheld, available, pos, admits, (removalTest_iff ..).1 test⟩
    · rintro ⟨c8, below, bay, serves, sound, tyre, unheld, available, pos, admits, test⟩
      have here : x.bay.carousel = c := by rw [bay]; rfl
      rw [← bay, here]
      exact ⟨c8, below, ⟨serves, sound⟩, rfl, tyre, unheld, available, pos, admits, (removalTest_iff ..).2 test⟩
  · exact allocateGroup_no_anchor s ref o g order group (anchor_eq_none cands g.need t short)
  have anchored := allocateGroup_anchored s ref o g order group x.batch
    (anchor_eq_some cands g.need t x listed reaches first)
  obtain ⟨full, last, ordered, inside, outside, low, high, plan_is⟩ := planAt_split s ref g x.batch need reaches
  refine ⟨full, last, ordered, inside, outside, low, high, ?_⟩
  intro plan records
  have offered := planAt_borne s ref g x.batch
  rw [show s.planAt ref g x.batch = plan from plan_is] at anchored offered
  rw [free] at anchored
  refine ⟨fun few => anchored.trans (if_pos few), fun room => ?_⟩
  obtain ⟨w, widened, spans⟩ := foldl_widen_spans g.window (full.map Candidate.whole)
    { bay := last.bay, batch := last.batch, quantity := g.need - availableOf full }
  have distinct : (records.take plan.length).Nodup :=
    (List.nodup_range.filter _).sublist (List.take_sublist _ _)
  have ids_room : ∀ id ∈ records.take plan.length, id < s.orderUnit.pool.length := fun id h => by
    rw [bounded.pool]
    exact List.mem_range.1 (List.mem_of_mem_filter (List.mem_of_mem_take h))
  refine ⟨s.allotted o ref plan (records.take plan.length), w, ?_, allotted_frame s o ref plan _, ?_, spans.batches,
    spans.window, spans.low, spans.high, fun i id d record draw => ?_, fun id other => ?_, fun d hd => ?_, fun c p other => ?_⟩
  · rw [anchored, if_neg (not_lt.2 room), placed]
  · rw [allotted_group s o ref plan _ g group, Group.drawn]
    exact congrArg (fun v => some { g with need := 0, tasks := g.tasks ++ records.take plan.length, window := v }) widened
  · refine allotted_task s o ref plan _ distinct ids_room i id d ?_ draw
    rw [List.getElem?_take, if_pos (List.getElem?_eq_some_iff.1 draw).1]
    exact record
  · exact allotted_task_other s o ref plan _ id other
  · obtain ⟨c, p, c8, below, bay⟩ := offered.bays d hd
    rw [allotted_bay]
    refine promised_bay plan s d hd offered.apart ?_
    have at_ : s.place d.bay = (c, p) := by rw [bay, s.place_bayAt]
    rw [show d.bay.carousel = c from congrArg Prod.fst at_, show s.position d.bay = p from congrArg Prod.snd at_]
    exact ⟨by rw [bounded.eight.2.1]; exact c8, below⟩
  · rw [allotted_bay]
    refine promised_bay_other plan s _ fun d hd same => other ?_
    obtain ⟨c', p', _, _, bay⟩ := offered.bays d hd
    rw [bay, s.place_bayAt, s.place_bayAt] at same
    cases same
    exact List.mem_map.2 ⟨d, hd, bay⟩

end Sys2Proof.Machine
end

section
/-! What the follow-ups of a step are made of, as far as the order unit goes (R57, R106): service points change its task
records alone, and an allocation is either refused or made and placed. -/

namespace Sys2Proof.Machine

/-! ## Service points and the order unit -/

/-- The order unit changes in its task records alone. -/
def State.KeepsOrders (s t : State) : Prop :=
  ∃ pool, t.orderUnit = { s.orderUnit with pool }

namespace State.KeepsOrders

theorem of_eq {s t : State} (same : t.orderUnit = s.orderUnit) : s.KeepsOrders t := ⟨s.orderUnit.pool, same⟩

theorem refl (s : State) : s.KeepsOrders s := of_eq rfl

theorem trans {s t u : State} (a : s.KeepsOrders t) (b : t.KeepsOrders u) : s.KeepsOrders u := by
  obtain ⟨p, a⟩ := a
  obtain ⟨q, b⟩ := b
  exact ⟨q, by rw [b, a]⟩

theorem orders {s t : State} (h : s.KeepsOrders t) : t.orderUnit.orders = s.orderUnit.orders := by
  obtain ⟨_, h⟩ := h
  rw [h]

theorem pending {s t : State} (h : s.KeepsOrders t) : t.orderUnit.pending = s.orderUnit.pending := by
  obtain ⟨_, h⟩ := h
  rw [h]

section Single

variable (s : State)

theorem modTask (id : Nat) (f : Task → Task) : s.KeepsOrders (s.modTask id f) := ⟨_, rfl⟩

theorem present (c : Nat) : s.KeepsOrders (s.present c) := by
  unfold State.present
  split
  · next id _ =>
    have shown : s.KeepsOrders ((s.taskState id .presenting).modCar c fun k =>
        { k with state := .presenting, presentationTimer := some (s.now + s.presentationMs) }) :=
      modTask s id fun t => { t with state := .presenting }
    dsimp only
    split
    · exact shown.trans (of_eq (State.indicateTask_orderUnit _ _ _))
    · exact shown
  · split
    · exact of_eq (State.sendScan_orderUnit _ _ _)
    · exact refl s
  · exact refl s

theorem startMove (t : State) (c level target : Nat) (h : s.startMove c level target = some t) : s.KeepsOrders t := by
  unfold State.startMove at h
  split at h
  · dsimp only at h
    split at h
    all_goals
      cases h
      exact ⟨_, rfl⟩
  · cases h

theorem enterWait (c level : Nat) : s.KeepsOrders (s.enterWait c level) := by
  unfold State.enterWait
  dsimp only
  split
  all_goals exact ⟨_, rfl⟩

theorem beginWork (c : Nat) (w : Work) (level target : Nat) : s.KeepsOrders (s.beginWork c w level target) := by
  have served : s.KeepsOrders (s.modCar c fun k => { k with inService := some w }) := of_eq rfl
  unfold State.beginWork
  dsimp only
  split
  · exact served.trans (present _ c)
  · split
    · next h => exact served.trans (startMove _ _ _ _ _ h)
    · exact served.trans (enterWait _ _ _)

theorem releaseTransit (id : Nat) (k : Task) (t : State) (h : s.releaseTransit id k = some t) : s.KeepsOrders t := by
  unfold State.releaseTransit at h
  split at h
  · obtain ⟨u, granted, rfl⟩ := Option.map_eq_some_iff.1 h
    unfold State.grant at granted
    split at granted
    · cases granted
      exact ⟨_, rfl⟩
    · cases granted
  · cases h
    exact refl s

theorem attemptRelease (c id : Nat) (k : Task) : s.KeepsOrders (s.attemptRelease c id k).1 := by
  unfold State.attemptRelease
  split
  · split
    · next u h =>
      have off : u.KeepsOrders (u.modCar c fun k => k.unqueue id) := of_eq rfl
      exact ((releaseTransit s id k u h).trans off).trans (beginWork _ _ _ _ _)
    · exact refl s
  · exact modTask s id _

theorem walk (c : Nat) (l : List Nat) : s.KeepsOrders (State.walk c l s).1 := by
  induction l generalizing s with
  | nil => exact refl s
  | cons id rest ih =>
    unfold State.walk
    split
    · exact ih s
    · next k _ =>
      split
      · have tried := attemptRelease s c id k
        split
        · next e => rw [e] at tried; exact tried
        · next e => rw [e] at tried; exact tried.trans (ih _)
      · exact ih s

theorem releaseStep (c : Nat) : s.KeepsOrders (s.releaseStep c) := by
  unfold State.releaseStep
  split
  · split
    · exact beginWork s _ _ _ _
    · exact refl s
  · exact refl s

theorem servicePoint (c : Nat) : s.KeepsOrders (s.servicePoint c) := by
  unfold State.servicePoint
  split
  · have walked := walk s c (s.car c).walkOrder
    split
    · next e => rw [e] at walked; exact walked
    · next e => rw [e] at walked; exact walked.trans (releaseStep _ c)
  · exact refl s

end Single

end State.KeepsOrders

/-! ## An allocation, refused or made (R97 to R101) -/

/-- A refused allocation changes nothing; one that is made promises its draws, makes its tasks in free records and places
them. -/
theorem allocateGroup_cases (s : State) (ref : GroupRef) : s.allocateGroup ref = (s, false) ∨
    ∃ (o : Order) (plan : List Draw) (ids : List Nat), s.order ref.order = some o ∧ (∀ id ∈ ids, s.task id = none) ∧
      ids.Nodup ∧ s.allocateGroup ref = (ids.foldl (State.placeTask o) (s.allotted o ref plan ids), true) := by
  cases order : s.order ref.order with
  | none =>
    refine .inl ?_
    show State.allocate ref (1920 + 1) [] s = _
    unfold State.allocate
    rw [order]
  | some o =>
  cases group : s.group ref with
  | none =>
    refine .inl ?_
    show State.allocate ref (1920 + 1) [] s = _
    unfold State.allocate
    rw [order, group]
  | some g =>
  cases found : anchor (s.candidates (s.groupArticle ref) g.need g.window []) g.need (s.tolerance (s.groupArticle ref)) with
  | none => exact .inl (allocateGroup_no_anchor s ref o g order group found)
  | some x =>
    have anchored := allocateGroup_anchored s ref o g order group x found
    by_cases few : s.freeTasks.length < (s.planAt ref g x).length
    · exact .inl (anchored.trans (if_pos few))
    · exact .inr ⟨o, _, _, rfl, fun id h => s.freeTasks_free id (List.mem_of_mem_take h),
        s.freeTasks_nodup.sublist (List.take_sublist _ _), anchored.trans (if_neg few)⟩

/-- Its new tasks are of the group's order; every other task stands. -/
theorem allotted_task_cases (s : State) (o : Order) (ref : GroupRef) (plan : List Draw) (ids : List Nat) (id : Nat) (t : Task)
    (task : (s.allotted o ref plan ids).task id = some t) : t.order = ref.order ∨ s.task id = some t := by
  have made : ∀ (l : List (Nat × Draw)) (v : State), (l.foldl (State.handed o ref) v).task id = some t →
      t.order = ref.order ∨ v.task id = some t := by
    intro l
    induction l with
    | nil => exact fun _ h => .inr h
    | cons x l ih =>
      intro v h
      refine (ih (v.handed o ref x) h).elim .inl fun h => ?_
      rw [State.handed, State.task_setTask] at h
      split at h
      · cases h
        exact .inl rfl
      · exact .inr h
  exact (made (ids.zip plan) _ task).imp_right fun h => (promised_task s plan id).symm.trans h

/-! ## What the follow-ups keep -/

/-- A property of the part that everything the follow-ups of a step are made of keeps, allocation for the groups that `may`
names. -/
structure FollowClosed (may : GroupRef → Prop) (P : State → Prop) : Prop where
  agenda : ∀ s a, P s → P { s with agenda := a }
  choices : ∀ s n, P s → P { s with choices := n }
  retry : ∀ s r, P s → P { s with orderUnit := { s.orderUnit with retry := r } }
  queue : ∀ s c f, P s → P (s.modCar c f)
  point : ∀ s c, P s → P (s.servicePoint c)
  held : ∀ s n id, P s → P (s.modOrder n fun o => { o with held := o.held ++ [id] })
  allotted : ∀ s o ref plan ids, may ref → (∀ id ∈ ids, s.task id = none) → P s → P (s.allotted o ref plan ids)

namespace FollowClosed

theorem foldl {α : Type} {P : State → Prop} {f : State → α → State} (h : ∀ s a, P s → P (f s a)) (l : List α) {s : State}
    (hs : P s) : P (l.foldl f s) := by
  induction l generalizing s with
  | nil => exact hs
  | cons a l ih => exact ih (h s a hs)

variable {may : GroupRef → Prop} {P : State → Prop} (h : FollowClosed may P) {s : State} (hs : P s)
include h hs

theorem joinTail (id : Nat) : P (s.joinTail id) := by
  unfold State.joinTail
  split
  · exact h.point _ _ (h.queue _ _ _ hs)
  · exact hs

theorem placeTask (o : Order) (id : Nat) : P (s.placeTask o id) := by
  unfold State.placeTask
  split
  · exact h.held _ _ _ hs
  · exact h.joinTail hs id

theorem placeTasks (o : Order) (ids : List Nat) : P (ids.foldl (State.placeTask o) s) :=
  foldl (P := P) (fun _ id hs => h.placeTask hs o id) ids hs

theorem allocateGroup (ref : GroupRef) (allowed : may ref) : P (s.allocateGroup ref).1 := by
  rcases allocateGroup_cases s ref with refused | ⟨o, plan, ids, _, free, _, made⟩
  · rw [refused]
    exact hs
  · rw [made]
    exact h.placeTasks (h.allotted s o ref plan ids allowed free hs) o ids

theorem servicePoints (l : List Nat) : P (s.servicePoints l) := by
  refine foldl (P := P) (fun _ c hs => h.point _ c hs) _ ?_
  obtain ⟨_, n, arranged⟩ := arrange_perm s (l.filter s.idleReady)
  rw [arranged]
  exact h.choices s n hs

variable (pending : ∀ s, P s → ∀ ref ∈ s.orderUnit.pending, may ref)
include pending

theorem retryGroup (r : Retry) (ref : GroupRef) : P (s.retryGroup r ref) := by
  unfold State.retryGroup
  split
  · next listed =>
    rw [Bool.and_eq_true] at listed
    exact h.allocateGroup hs ref (pending s hs ref (List.contains_iff_mem.1 listed.1))
  · exact hs

theorem runRetries (n : Nat) : P (State.runRetries n s) := by
  induction n generalizing s with
  | zero => exact hs
  | succ n ih =>
    unfold State.runRetries
    split
    · exact hs
    · exact ih (foldl (P := P) (fun _ ref hs => h.retryGroup hs pending _ ref) _ (h.retry s .none hs))

/-- So the follow-ups of a step keep it, where only groups that `may` names are pending. -/
theorem settle : P s.settle := by
  have freed : P s.serveFreed := by
    unfold State.serveFreed
    split
    · exact h.servicePoints (h.agenda s _ hs) _
    · exact hs
  exact h.servicePoints (h.agenda _ _ (h.runRetries freed pending 4)) _

end FollowClosed

end Sys2Proof.Machine
end

section
/-! The steps of an ORDER-PLACE (O51): the tests of R93, the order seated (R95), its groups allocated in turn, and what the
two policies do with those left short (R102, R103). -/

namespace Sys2Proof.Machine

/-! ## The tests (R93) -/

/-- Tests 1 to 3: the number, the lines and the total are in range. -/
def orderInRange (number : Nat) (lines : List LineRequest) : Prop :=
  number ≠ 0 ∧ 1 ≤ lines.length ∧ lines.length ≤ 8 ∧
    (∀ l ∈ lines, 1 ≤ l.quantity ∧ l.quantity ≤ 16 ∧ (l.setSize = 1 ∨ l.setSize = 2 ∨ l.setSize = 4) ∧
      l.quantity % l.setSize = 0) ∧ (lines.map LineRequest.quantity).sum ≤ 16

theorem LineRequest.inRange_iff (l : LineRequest) : l.inRange = true ↔
    1 ≤ l.quantity ∧ l.quantity ≤ 16 ∧ (l.setSize = 1 ∨ l.setSize = 2 ∨ l.setSize = 4) ∧ l.quantity % l.setSize = 0 := by
  simp [LineRequest.inRange, and_assoc]

section Tests

variable (s : State) (number : Nat) (lines : List LineRequest)

theorem orderRefusal_badValue (bad : ¬orderInRange number lines) : s.orderRefusal number lines = some .badValue := by
  unfold State.orderRefusal
  by_cases size : number = 0 ∨ lines.length < 1 ∨ 8 < lines.length
  · exact if_pos size
  by_cases ranges : lines.all LineRequest.inRange = false
  · rw [if_neg size, if_pos ranges]
  rw [Bool.not_eq_false, List.all_eq_true] at ranges
  rw [if_neg size, if_neg (by rw [Bool.not_eq_false, List.all_eq_true]; exact ranges), if_pos]
  simp only [not_or, not_lt] at size
  by_contra total
  exact bad ⟨size.1, size.2.1, size.2.2, fun l hl => (l.inRange_iff).1 (ranges l hl), not_lt.1 total⟩

variable (fine : orderInRange number lines)
include fine

/-- An order in range is tested for its articles, its number and room in the order table. -/
theorem orderRefusal_inRange : s.orderRefusal number lines =
    if lines.any (fun l => (s.article l.article).isNone) then some .unknownItem
    else if (s.order number).isSome then some .inUse
    else if 64 ≤ s.orderUnit.orders.length then some .noSpace
    else none := by
  obtain ⟨named, some_line, few, ranges, total⟩ := fine
  have all : lines.all LineRequest.inRange = true := List.all_eq_true.2 fun l hl => (l.inRange_iff).2 (ranges l hl)
  unfold State.orderRefusal
  rw [if_neg (by omega), if_neg (by rw [all]; exact nofun), if_neg (by omega)]

theorem orderRefusal_unknown (unknown : ¬∀ l ∈ lines, s.article l.article ≠ none) :
    s.orderRefusal number lines = some .unknownItem := by
  rw [orderRefusal_inRange s number lines fine, if_pos]
  simpa using unknown

variable (known : ∀ l ∈ lines, s.article l.article ≠ none)
include known

theorem orderRefusal_known : s.orderRefusal number lines =
    if (s.order number).isSome then some .inUse
    else if 64 ≤ s.orderUnit.orders.length then some .noSpace
    else none := by
  rw [orderRefusal_inRange s number lines fine, if_neg]
  simpa [Option.ne_none_iff_isSome] using known

theorem orderRefusal_inUse (used : s.order number ≠ none) : s.orderRefusal number lines = some .inUse := by
  rw [orderRefusal_known s number lines fine known, if_pos (Option.ne_none_iff_isSome.1 used)]

variable (fresh : s.order number = none)
include fresh

theorem orderRefusal_noSpace (full : 64 ≤ s.orderUnit.orders.length) : s.orderRefusal number lines = some .noSpace := by
  rw [orderRefusal_known s number lines fine known, fresh, if_neg nofun, if_pos full]

theorem orderRefusal_none (room : s.orderUnit.orders.length < 64) : s.orderRefusal number lines = none := by
  rw [orderRefusal_known s number lines fine known, fresh, if_neg nofun, if_neg (not_le.2 room)]

end Tests

/-! ## One new order in the table -/

/-- A list whose last item alone has a key. -/
theorem map_append_singleton_if {α : Type} (p : α → Prop) [DecidablePred p] (f : α → α) (l : List α) (x : α)
    (others : ∀ y ∈ l, ¬p y) (last : p x) : ((l ++ [x]).map fun y => if p y then f y else y) = l ++ [f x] := by
  rw [List.map_append, List.map_singleton, if_pos last]
  congr 1
  exact (List.map_congr_left fun y hy => if_neg (others y hy)).trans (List.map_id' l)

theorem order_eq_none_iff (s : State) (n : Nat) : s.order n = none ↔ ∀ o ∈ s.orderUnit.orders, o.number ≠ n := by
  unfold State.order
  rw [List.find?_eq_none]
  simp

section Newest

/-- The order `o`, of number `n`, stands last in the order table, and no other has its number. -/
def State.newest (s : State) (n : Nat) (o : Order) : Prop :=
  ∃ l : List Order, s.orderUnit.orders = l ++ [o] ∧ (∀ q ∈ l, q.number ≠ n) ∧ o.number = n

variable {s : State} {n : Nat} {o : Order} (h : s.newest n o)
include h

theorem State.newest.order : s.order n = some o := by
  obtain ⟨l, orders, others, number⟩ := h
  have none_before : l.find? (fun q => q.number == n) = none := List.find?_eq_none.2 fun q hq => by simpa using others q hq
  unfold State.order
  rw [orders, List.find?_append, none_before, Option.none_or, List.find?_cons_of_pos (by simpa using number)]

theorem State.newest.number : o.number = n := by
  obtain ⟨_, _, _, number⟩ := h
  exact number

theorem State.newest.unique (q : Order) (mem : q ∈ s.orderUnit.orders) (number : q.number = n) : q = o := by
  obtain ⟨l, orders, others, _⟩ := h
  rw [orders] at mem
  rcases List.mem_append.1 mem with old | last
  · exact absurd number (others q old)
  · exact List.mem_singleton.1 last

theorem State.newest.modOrder (f : Order → Order) (same : (f o).number = o.number) : (s.modOrder n f).newest n (f o) := by
  obtain ⟨l, orders, others, number⟩ := h
  refine ⟨l, ?_, others, same.trans number⟩
  rw [State.modOrder_orderUnit]
  dsimp only
  rw [orders, map_append_singleton_if (fun q => q.number = n) f l o others number]

/-- It stays so where orders change but in what allocation changes. -/
theorem State.newest.of_fixed {t : State}
    (same : t.orderUnit.orders.map Order.fixed = s.orderUnit.orders.map Order.fixed) :
    ∃ o', t.newest n o' ∧ o'.fixed = o.fixed := by
  obtain ⟨l, orders, others, number⟩ := h
  rw [orders, List.map_append, List.map_singleton] at same
  obtain ⟨l', tail, split, front, last⟩ := List.map_eq_append_iff.1 same
  obtain ⟨o', rest, rfl, fixed, none_left⟩ := List.map_eq_cons_iff.1 last
  rw [List.map_eq_nil_iff.1 none_left] at split
  refine ⟨o', ⟨l', split, fun q hq => ?_, (congrArg Order.number fixed).trans number⟩, fixed⟩
  have mem : q.fixed ∈ l.map Order.fixed := front ▸ List.mem_map_of_mem hq
  obtain ⟨q', hq', same⟩ := List.mem_map.1 mem
  rw [show q.number = q'.number from (congrArg Order.number same).symm]
  exact others q' hq'

end Newest

/-! ## The order seated (R94, R95) -/

/-- The record of a placed order, whose groups have the need `need` of its lines. -/
def placedOrder (number : Nat) (priority : Priority) (policy : ShortPolicy) (lines : List LineRequest) (lane : Option Nat)
    (need : LineRequest → Nat) : Order where
  number := number
  priority := priority
  policy := policy
  lane := lane
  state := if lane = none then .laneWait else .picking
  lines := lines.map fun l => { article := l.article, quantity := l.quantity, setSize := l.setSize
                                groups := (List.range (l.quantity / l.setSize)).map fun n => { number := n, need := need l } }

theorem placedOrder_fixed (number : Nat) (priority : Priority) (policy : ShortPolicy) (lines : List LineRequest)
    (lane : Option Nat) (need : LineRequest → Nat) : (placedOrder number priority policy lines lane need).fixed =
      placedOrder number priority policy lines lane fun _ => 0 := by
  simp [placedOrder, Order.fixed, List.map_map, Function.comp_def, Group.fixed]

theorem placedOrder_total (number : Nat) (priority : Priority) (policy : ShortPolicy) (lines : List LineRequest)
    (lane : Option Nat) (need : LineRequest → Nat) :
    (placedOrder number priority policy lines lane need).total = (lines.map LineRequest.quantity).sum := by
  simp [placedOrder, Order.total, List.map_map, Function.comp_def]

/-- The part with the order seated: on its lane, or on the lane wait list as `wait`. -/
def State.seated (s : State) (o : Order) (total : Nat) (wait : List Nat) : State :=
  { s with
    orderUnit := { s.orderUnit with
      orders := s.orderUnit.orders ++ [o]
      laneWait := if s.freeLane = none then wait else s.orderUnit.laneWait }
    consolidation := { s.consolidation with lanes := match s.freeLane with
      | some n => s.consolidation.lanes.modify n fun _ => { state := .filling, order := some o.number, expected := total }
      | none => s.consolidation.lanes } }

/-- The part with a new order in its table (R94, step 1). -/
def State.withOrder (s : State) (o : Order) : State :=
  { s with orderUnit := { s.orderUnit with orders := s.orderUnit.orders ++ [o] } }

section Seated

variable (s : State) (number : Nat) (priority : Priority) (policy : ShortPolicy) (lines : List LineRequest)
  (fresh : s.order number = none)
include fresh

theorem withOrder_newest (o : Order) (number_is : o.number = number) : (s.withOrder o).newest number o :=
  ⟨s.orderUnit.orders, rfl, (order_eq_none_iff s number).1 fresh, number_is⟩

/-- A new order goes behind every order that is not of lower priority (R95). -/
theorem laneWait_split (o : Order) (number_is : o.number = number) : ∃ before after,
    s.orderUnit.laneWait = before ++ after ∧
      insertByKey (s.withOrder o).laneKey number s.orderUnit.laneWait = before ++ number :: after ∧
      (∀ m ∈ before, m ≠ number → o.priority = .rush → (s.order m).map Order.priority = some .rush) ∧
      ∀ m q, after.head? = some m → s.order m = some q → o.priority = .rush ∧ q.priority = .normal := by
  have rank_new : (s.withOrder o).priorityRank number = if o.priority = .rush then 0 else 1 := by
    unfold State.priorityRank
    rw [(withOrder_newest s number fresh o number_is).order]
  have others : ∀ q ∈ s.orderUnit.orders, (q.number == number) = false := fun q hq => by
    simpa using (order_eq_none_iff s number).1 fresh q hq
  have place_new : (s.withOrder o).sequenceOf number = s.orderUnit.orders.length := by
    unfold State.sequenceOf State.withOrder
    rw [List.findIdx_append, List.findIdx_eq_length_of_false others, if_neg (lt_irrefl _),
      List.findIdx_cons, show (o.number == number) = true by simpa using number_is]
    simp
  have old : ∀ m, m ≠ number → (s.withOrder o).order m = s.order m := fun m ne => by
    have last : ([o].find? fun q => q.number == m) = none := List.find?_eq_none.2 fun q hq => by
      rw [List.mem_singleton.1 hq, number_is]
      simpa using ne.symm
    unfold State.order State.withOrder
    rw [List.find?_append, last, Option.or_none]
  obtain ⟨before, after, split, joined, behind, ahead⟩ :=
    insertByKey_split (s.withOrder o).laneKey number s.orderUnit.laneWait
  refine ⟨before, after, split, joined, fun m hm ne rush => ?_, fun m q head there => ?_⟩
  · have low := behind m hm
    rw [← Bool.not_eq_true, keyBefore_iff_lt] at low
    unfold State.laneKey at low
    rw [rank_new, place_new, if_pos rush] at low
    unfold State.priorityRank at low
    rw [old m ne] at low
    cases order : s.order m with
    | none => simp [order, List.cons_lt_cons_iff] at low
    | some q =>
      cases urgency : q.priority with
      | normal => simp [order, urgency, List.cons_lt_cons_iff] at low
      | rush => simp [urgency]
  · have ne : m ≠ number := fun e => by rw [e, fresh] at there; cases there
    have earlier : (s.withOrder o).sequenceOf m < s.orderUnit.orders.length := by
      have found : s.orderUnit.orders.findIdx (fun q => q.number == m) < s.orderUnit.orders.length :=
        List.findIdx_lt_length_of_exists ⟨q, List.mem_of_find?_eq_some there, (List.find?_eq_some_iff_append.1 there).1⟩
      unfold State.sequenceOf State.withOrder
      rw [List.findIdx_append, if_pos found]
      exact found
    have low := ahead m head
    rw [keyBefore_iff_lt] at low
    unfold State.laneKey at low
    rw [rank_new, place_new] at low
    unfold State.priorityRank at low
    rw [old m ne, there] at low
    cases new : o.priority <;> cases urgency : q.priority <;> simp [new, urgency, List.cons_lt_cons_iff] at low ⊢
    all_goals omega

/-- Step 2 of R94: the lowest FREE lane, or the place on the lane wait list. -/
theorem seatOrder_eq (wait : List Nat)
    (joined : insertByKey (s.withOrder (newOrder number priority policy lines)).laneKey number s.orderUnit.laneWait = wait) :
    (s.withOrder (newOrder number priority policy lines)).seatOrder number =
      s.seated (placedOrder number priority policy lines s.freeLane LineRequest.setSize)
        (lines.map LineRequest.quantity).sum wait := by
  have newest := withOrder_newest s number fresh (newOrder number priority policy lines) rfl
  have total : (newOrder number priority policy lines).total = (lines.map LineRequest.quantity).sum :=
    placedOrder_total number priority policy lines none LineRequest.setSize
  have others := (order_eq_none_iff s number).1 fresh
  unfold State.seatOrder State.seated
  rw [show (s.withOrder (newOrder number priority policy lines)).freeLane = s.freeLane from rfl]
  cases free : s.freeLane with
  | none =>
    dsimp only
    rw [show (s.withOrder _).orderUnit.laneWait = s.orderUnit.laneWait from rfl, joined]
    rfl
  | some lane =>
    dsimp only
    unfold State.assignLane
    rw [newest.order]
    dsimp only
    rw [show (newOrder number priority policy lines).held = [] from rfl, List.foldl_nil, total]
    unfold State.modOrder
    dsimp only [State.modLane, State.withOrder]
    rw [map_append_singleton_if (fun o : Order => o.number = number)
      (fun o => { o with lane := some lane, state := .picking, held := [] }) _ _ others rfl]
    rfl

end Seated

/-! ## The groups (R91, R94) -/

theorem flatMap_range_eq_zipIdx {α β : Type} (f : α → Nat → List β) (l : List α) :
    ((List.range l.length).flatMap fun i => l[i]?.elim [] fun x => f x i) = l.zipIdx.flatMap fun x => f x.1 x.2 := by
  induction l using List.reverseRecOn with
  | nil => rfl
  | append_singleton l a ih =>
    rw [List.length_append, List.length_singleton, List.range_succ, List.flatMap_append, List.zipIdx_append,
      List.flatMap_append, ← ih]
    congr 1
    · refine List.flatMap_congr fun i hi => ?_
      rw [List.getElem?_append_left (List.mem_range.1 hi)]
    · simp

theorem refs_eq_zipIdx (o : Order) : o.refs = o.lines.zipIdx.flatMap fun x =>
    x.1.groups.map fun g => GroupRef.mk o.number x.2 g.number := by
  rw [← flatMap_range_eq_zipIdx (fun (l : OrderLine) i => l.groups.map fun g => GroupRef.mk o.number i g.number) o.lines]
  unfold Order.refs
  refine List.flatMap_congr fun i _ => ?_
  cases o.lines[i]? <;> rfl

/-- The groups of a placed order by line and group number. -/
def placedRefs (number : Nat) (lines : List LineRequest) : List GroupRef :=
  lines.zipIdx.flatMap fun x => (List.range (x.1.quantity / x.1.setSize)).map fun n => GroupRef.mk number x.2 n

theorem newOrder_refs (number : Nat) (priority : Priority) (policy : ShortPolicy) (lines : List LineRequest) :
    (newOrder number priority policy lines).refs = placedRefs number lines := by
  rw [refs_eq_zipIdx, show (newOrder number priority policy lines).lines = lines.map LineRequest.record from rfl,
    List.zipIdx_map, List.flatMap_map]
  simp only [placedRefs, LineRequest.record, Prod.map, List.map_map]
  rfl

theorem mem_placedRefs (number : Nat) (lines : List LineRequest) (r : GroupRef) : r ∈ placedRefs number lines ↔
    r.order = number ∧ ∃ l, lines[r.line]? = some l ∧ r.group < l.quantity / l.setSize := by
  obtain ⟨order, line, group⟩ := r
  simp only [placedRefs, List.mem_flatMap, List.mem_map, List.mem_range, List.mem_zipIdx_iff_getElem?, GroupRef.mk.injEq]
  constructor
  · rintro ⟨⟨l, i⟩, there, n, below, rfl, rfl, rfl⟩
    exact ⟨rfl, l, there, below⟩
  · rintro ⟨rfl, l, there, below⟩
    exact ⟨(l, line), there, group, below, rfl, rfl, rfl⟩

theorem placedRefs_nodup (number : Nat) (lines : List LineRequest) : (placedRefs number lines).Nodup := by
  unfold placedRefs
  rw [List.nodup_flatMap]
  refine ⟨fun x _ => List.nodup_range.map fun a b same => congrArg GroupRef.group same, ?_⟩
  have indices : (lines.zipIdx.map Prod.snd).Nodup := by
    rw [List.zipIdx_map_snd]
    exact List.nodup_range'
  refine (List.pairwise_map.1 indices).imp fun {a b} ne => ?_
  intro r ha hb
  obtain ⟨_, _, rfl⟩ := List.mem_map.1 ha
  obtain ⟨_, _, same⟩ := List.mem_map.1 hb
  exact ne (congrArg GroupRef.line same).symm

end Sys2Proof.Machine
end

section
/-! The groups of a placed order allocated in turn (O51): a group that is drawn has no need, and keeps none. -/

namespace Sys2Proof.Machine

/-! ## Groups without a need -/

/-- The group of an order, if it is there, has no need. -/
def Order.drawn (o : Order) (line group : Nat) : Prop :=
  ∀ l, o.lines[line]? = some l → ∀ g ∈ l.groups, g.number = group → g.need = 0

/-- So has the group that a reference names. -/
def State.drawn (r : GroupRef) (s : State) : Prop :=
  ∀ o ∈ s.orderUnit.orders, o.number = r.order → o.drawn r.line r.group

theorem drawn_of_orders {s t : State} {r : GroupRef} (same : t.orderUnit.orders = s.orderUnit.orders) (h : s.drawn r) :
    t.drawn r := by
  unfold State.drawn
  rw [same]
  exact h

theorem mem_modOrder {s : State} {n : Nat} {f : Order → Order} {o : Order} (mem : o ∈ (s.modOrder n f).orderUnit.orders) :
    ∃ q ∈ s.orderUnit.orders, o = q ∧ q.number ≠ n ∨ o = f q ∧ q.number = n := by
  rw [State.modOrder_orderUnit] at mem
  obtain ⟨q, there, rfl⟩ := List.mem_map.1 mem
  refine ⟨q, there, ?_⟩
  by_cases named : q.number = n
  · exact .inr ⟨if_pos named, named⟩
  · exact .inl ⟨if_neg named, named⟩

/-- A change of orders that gives no group a need. -/
theorem drawn_modOrder {s : State} {r : GroupRef} (n : Nat) (f : Order → Order) (number : ∀ o, (f o).number = o.number)
    (kept : ∀ o, o.number = n → o.number = r.order → (f o).drawn r.line r.group ∨
      (o.drawn r.line r.group → (f o).drawn r.line r.group)) (h : s.drawn r) : (s.modOrder n f).drawn r := fun o mem named => by
  obtain ⟨q, there, ⟨rfl, _⟩ | ⟨rfl, at_⟩⟩ := mem_modOrder mem
  · exact h o there named
  · rw [number] at named
    exact (kept q at_ named).elim id fun keep => keep (h q there named)

/-- A group whose need is set to 0 has none. -/
theorem Order.drawn_modify (o : Order) (i n : Nat) (f : Group → Group)
    (zero : ∀ g, (f g).need = 0) (line group : Nat) (h : (line = i ∧ group = n) ∨ o.drawn line group) :
    ({ o with lines := o.lines.modify i fun l => { l with
        groups := l.groups.map fun g => if g.number = n then f g else g } } : Order).drawn line group := by
  intro l there g mem named
  dsimp only at there
  rw [List.getElem?_modify] at there
  obtain ⟨l, old, rfl⟩ := Option.map_eq_some_iff.1 there
  by_cases here : i = line
  · rw [if_pos here] at mem
    obtain ⟨q, was, rfl⟩ := List.mem_map.1 mem
    by_cases this : q.number = n
    · rw [if_pos this]
      exact zero q
    · rw [if_neg this] at named ⊢
      rcases h with ⟨_, rfl⟩ | h
      · exact absurd named this
      · exact h l old q was named
  · rw [if_neg here] at mem
    exact (h.resolve_left fun e => here e.1.symm) l old g mem named

theorem drawn_modGroup {s : State} {r : GroupRef} (ref : GroupRef) (f : Group → Group) (zero : ∀ g, (f g).need = 0)
    (h : r = ref ∨ s.drawn r) : (s.modGroup ref f).drawn r := fun o mem named => by
  obtain ⟨q, there, ⟨rfl, other⟩ | ⟨rfl, _⟩⟩ := mem_modOrder mem
  · exact (h.resolve_left fun e => other (named.trans (congrArg GroupRef.order e))) o there named
  · exact q.drawn_modify ref.line ref.group f zero r.line r.group
      (h.imp (fun e => ⟨congrArg GroupRef.line e, congrArg GroupRef.group e⟩) fun h => h q there named)

theorem allotted_drawn {s : State} {r : GroupRef} (o : Order) (ref : GroupRef) (plan : List Draw) (ids : List Nat)
    (h : r = ref ∨ s.drawn r) : (s.allotted o ref plan ids).drawn r := by
  have orders : (s.allotted o ref plan ids).orderUnit.orders =
      (s.modGroup ref fun g => g.drawn plan ids).orderUnit.orders := by
    rw [allotted_frame]
  exact drawn_of_orders orders (drawn_modGroup ref _ (fun _ => rfl) h)

/-- No follow-up gives a group a need again. -/
theorem followClosed_drawn (r : GroupRef) : FollowClosed (fun _ => True) (State.drawn r) where
  agenda := fun _ _ h => h
  choices := fun _ _ h => h
  retry := fun _ _ h => h
  queue := fun _ _ _ h => h
  point := fun s c h => drawn_of_orders (State.KeepsOrders.servicePoint s c).orders h
  held := fun _ n _ h => drawn_modOrder n _ (fun _ => rfl) (fun _ _ _ => .inr id) h
  allotted := fun _ o ref plan ids _ _ h => allotted_drawn o ref plan ids (.inr h)

theorem allocateGroup_drawn (s : State) (ref : GroupRef) (made : (s.allocateGroup ref).2 = true) :
    (s.allocateGroup ref).1.drawn ref := by
  rcases allocateGroup_cases s ref with refused | ⟨o, plan, ids, _, _, _, done⟩
  · rw [refused] at made
    cases made
  · rw [done]
    exact (followClosed_drawn ref).placeTasks (allotted_drawn o ref plan ids (.inl rfl)) o ids

/-! ## The groups in turn (R94, step 3) -/

theorem FollowClosed.allocateEach {may : GroupRef → Prop} {P : State → Prop} (h : FollowClosed may P) {s : State} (hs : P s)
    (refs already : List GroupRef) (allowed : ∀ ref ∈ refs, may ref) : P (Machine.allocateEach refs s already).1 := by
  induction refs generalizing s already with
  | nil => exact hs
  | cons ref refs ih =>
    have next := h.allocateGroup hs ref (allowed ref List.mem_cons_self)
    have rest := fun r hr => allowed r (List.mem_cons_of_mem ref hr)
    unfold Machine.allocateEach
    split
    · next made =>
      rw [made] at next
      exact ih next already rest
    · next refused =>
      rw [refused] at next
      exact ih next _ rest

/-- The groups `refs` allocated in turn: `s` is the part before, `t` after, `short` those left short. -/
structure State.Allocates (s : State) (refs : List GroupRef) (t : State) (short : List GroupRef) : Prop where
  follows : s.Follows t
  sublist : short.Sublist refs
  drawn : ∀ r ∈ refs, r ∉ short → t.drawn r

theorem allocateEach_allocates (refs : List GroupRef) (s : State) (already : List GroupRef) :
    ∃ t short, allocateEach refs s already = (t, already ++ short) ∧ s.Allocates refs t short := by
  induction refs generalizing s already with
  | nil => exact ⟨s, [], by rw [List.append_nil]; rfl, .refl s, .refl [], nofun⟩
  | cons ref refs ih =>
    have follows : s.Follows (s.allocateGroup ref).1 := State.follows_allocate ref _ _ s
    have drawn := allocateGroup_drawn s ref
    unfold allocateEach
    split
    · next v made =>
      rw [made] at follows drawn
      obtain ⟨t, short, rest, a⟩ := ih v already
      refine ⟨t, short, rest, follows.trans a.follows, a.sublist.cons _, fun r mem left => ?_⟩
      by_cases later : r ∈ refs
      · exact a.drawn r later left
      · have first : r = ref := (List.mem_cons.1 mem).resolve_right later
        have kept := (followClosed_drawn r).allocateEach (first ▸ drawn rfl) refs already fun _ _ => trivial
        rw [rest] at kept
        exact kept
    · next v refused =>
      rw [refused] at follows
      obtain ⟨t, short, rest, a⟩ := ih v (already ++ [ref])
      refine ⟨t, ref :: short, by rw [rest, List.append_assoc]; rfl, follows.trans a.follows, a.sublist.cons_cons _,
        fun r mem left => ?_⟩
      obtain ⟨other, left⟩ := not_or.1 (mt List.mem_cons.2 left)
      exact a.drawn r ((List.mem_cons.1 mem).resolve_left other) left

theorem allocateEach_eq_foldl (refs : List GroupRef) (s : State) (short : List GroupRef) : allocateEach refs s short =
    refs.foldl (fun (a : State × List GroupRef) ref =>
      if (a.1.allocateGroup ref).2 = true then ((a.1.allocateGroup ref).1, a.2)
      else ((a.1.allocateGroup ref).1, a.2 ++ [ref])) (s, short) := by
  induction refs generalizing s short with
  | nil => rfl
  | cons ref refs ih =>
    unfold allocateEach
    rw [List.foldl_cons]
    split
    · next made => rw [ih, made]; rfl
    · next refused => rw [ih, refused]; rfl

/-! ## The WAIT policy (R102, R105) -/

/-- Groups join the pending list by its keys, each once. -/
theorem foldl_joinPending (l : List GroupRef) (s : State) : ∃ joined,
    l.foldl State.joinPending s = { s with orderUnit := { s.orderUnit with pending := joined } } ∧
      (∀ g, g ∈ joined ↔ g ∈ s.orderUnit.pending ∨ g ∈ l) ∧
      (s.orderUnit.pending.Pairwise (fun a b => keyBefore (s.pendingKey b) (s.pendingKey a) = false) →
        joined.Pairwise fun a b => keyBefore (s.pendingKey b) (s.pendingKey a) = false) := by
  induction l generalizing s with
  | nil => exact ⟨s.orderUnit.pending, rfl, by simp, id⟩
  | cons r l ih =>
    by_cases listed : r ∈ s.orderUnit.pending
    · obtain ⟨joined, same, mem, sorted⟩ := ih s
      have stays : s.joinPending r = s := if_pos (List.contains_iff_mem.2 listed)
      refine ⟨joined, by rw [List.foldl_cons, stays, same], fun g => ?_, sorted⟩
      rw [mem, List.mem_cons]
      exact ⟨fun h => h.imp_right .inr, fun h => h.elim .inl fun h => h.elim (fun e => .inl (e ▸ listed)) .inr⟩
    · have joins : s.joinPending r = { s with orderUnit := { s.orderUnit with
          pending := insertByKey s.pendingKey r s.orderUnit.pending } } :=
        if_neg (mt List.contains_iff_mem.1 listed)
      obtain ⟨joined, same, mem, sorted⟩ := ih (s.joinPending r)
      rw [joins] at same mem sorted
      refine ⟨joined, by rw [List.foldl_cons, joins, same], fun g => ?_, fun h =>
        sorted (insertByKey_sorted s.pendingKey r _ h)⟩
      rw [mem]
      dsimp only
      rw [insertByKey_mem, List.mem_cons, or_assoc]

/-! ## The PARTIAL policy (R103) -/

/-- The lines of order `n` without the groups `short`. -/
def linesWithout (n : Nat) (short : List GroupRef) (lines : List OrderLine) : List OrderLine :=
  lines.mapIdx fun i l => { l with
    quantity := l.quantity - l.setSize * (short.filter fun g => g.line == i).length
    groups := l.groups.filter fun g => decide (GroupRef.mk n i g.number ∉ short) }

theorem linesWithout_nil (n : Nat) (lines : List OrderLine) : linesWithout n [] lines = lines := by
  refine (List.mapIdx_eq_iff).2 fun i => ?_
  cases lines[i]? <;> simp

/-- One group after the other. -/
theorem linesWithout_cons (n : Nat) (r : GroupRef) (short : List GroupRef) (named : r.order = n) (lines : List OrderLine) :
    linesWithout n short (lines.modify r.line fun l => { l with
      quantity := l.quantity - l.setSize, groups := l.groups.filter fun g => g.number != r.group }) =
    linesWithout n (r :: short) lines := by
  have kept : ∀ (i : Nat) (g : Group), decide (GroupRef.mk n i g.number ∉ r :: short) =
      (decide (GroupRef.mk n i g.number ∉ short) && !(decide (i = r.line) && decide (g.number = r.group))) := fun i g => by
    obtain ⟨order, line, group⟩ := r
    subst named
    simp [not_or, and_comm, Bool.and_comm]
  refine List.ext_getElem? fun i => ?_
  unfold linesWithout
  rw [List.getElem?_mapIdx, List.getElem?_mapIdx, List.getElem?_modify]
  cases lines[i]? with
  | none => rfl
  | some l =>
  refine congrArg some ((OrderLine.mk.injEq ..).mpr ?_)
  dsimp only
  by_cases here : r.line = i
  · have counted : (r :: short).filter (fun g => g.line == i) = r :: short.filter fun g => g.line == i :=
      List.filter_cons_of_pos (by simpa using here)
    rw [if_pos here]
    refine ⟨rfl, ?_, rfl, ?_⟩
    · rw [counted, List.length_cons, Nat.mul_succ, Nat.sub_sub, Nat.add_comm l.setSize]
    · rw [List.filter_filter]
      refine List.filter_congr fun g _ => ?_
      rw [kept]
      simp [here, bne, beq_eq_decide]
  · have counted : (r :: short).filter (fun g => g.line == i) = short.filter fun g => g.line == i :=
      List.filter_cons_of_neg (by simpa using here)
    rw [if_neg here]
    refine ⟨rfl, by rw [counted], rfl, List.filter_congr fun g _ => ?_⟩
    rw [kept, decide_eq_false (Ne.symm here)]
    simp

theorem foldl_dropGroup (n : Nat) (short : List GroupRef) (named : ∀ r ∈ short, r.order = n) (s : State) :
    short.foldl State.dropGroup s = s.modOrder n fun o => { o with lines := linesWithout n short o.lines } := by
  induction short generalizing s with
  | nil =>
    have same : s.orderUnit.orders.map (fun o => if o.number = n then { o with lines := linesWithout n [] o.lines } else o) =
        s.orderUnit.orders := by
      refine (List.map_congr_left fun o _ => ?_).trans (List.map_id' _)
      rw [linesWithout_nil, ite_self]
    unfold State.modOrder
    rw [same]
    rfl
  | cons r short ih =>
    have first := named r List.mem_cons_self
    rw [List.foldl_cons, ih fun q hq => named q (List.mem_cons_of_mem r hq)]
    unfold State.dropGroup State.modOrder
    simp only [List.map_map]
    congr 2
    refine List.map_congr_left fun o _ => ?_
    rw [Function.comp_apply, first]
    by_cases here : o.number = n
    · simp only [if_pos here]
      rw [linesWithout_cons n r short first]
    · simp only [if_neg here]

end Sys2Proof.Machine
end

section
/-! What the two policies leave of a placed order whose groups are short in part or all (O51): R102, R103. -/

namespace Sys2Proof.Machine

/-! ## A placed order read back -/

/-- A line of a placed order is that of the request, its groups numbered from 0. -/
theorem placed_line (number : Nat) (priority : Priority) (policy : ShortPolicy) (lines : List LineRequest) (lane : Option Nat)
    (o : Order) (fixed : o.fixed = placedOrder number priority policy lines lane fun _ => 0) (i : Nat) (l : OrderLine)
    (there : o.lines[i]? = some l) : ∃ x, lines[i]? = some x ∧ l.quantity = x.quantity ∧ l.setSize = x.setSize ∧
      l.groups.map Group.number = List.range (x.quantity / x.setSize) := by
  have read := congrArg (fun q : Order => q.lines[i]?) fixed
  simp only [Order.fixed, placedOrder, List.getElem?_map, there, Option.map_some] at read
  obtain ⟨x, asked, same⟩ := Option.map_eq_some_iff.1 read.symm
  obtain ⟨_, quantity, setSize, groups⟩ := (OrderLine.mk.injEq ..).mp same
  refine ⟨x, asked, quantity.symm, setSize.symm, ?_⟩
  have numbers := congrArg (List.map Group.number) groups
  rw [List.map_map, List.map_map] at numbers
  exact numbers.symm.trans (List.map_id' _)

theorem total_of_fixed {o q : Order} (fixed : o.fixed = q.fixed) : o.total = q.total := by
  have read := congrArg Order.total fixed
  simp only [Order.total, Order.fixed, List.map_map] at read
  exact read

/-- Its groups are all whole: the quantity of each line is that of its groups, and no group has a need (R103). -/
def Order.whole (o : Order) : Prop :=
  ∀ l ∈ o.lines, l.quantity = l.setSize * l.groups.length ∧ ∀ g ∈ l.groups, g.need = 0

/-- The quantity of each line is that of its groups. -/
def Order.sized (o : Order) : Prop :=
  ∀ l ∈ o.lines, l.quantity = l.setSize * l.groups.length

theorem sized_of_fixed {o q : Order} (fixed : o.fixed = q.fixed) (h : q.sized) : o.sized := fun l mem => by
  have mem' : ({ l with groups := l.groups.map Group.fixed } : OrderLine) ∈ o.fixed.lines := List.mem_map_of_mem mem
  rw [fixed] at mem'
  obtain ⟨x, there, same⟩ := List.mem_map.1 mem'
  obtain ⟨_, quantity, setSize, groups⟩ := (OrderLine.mk.injEq ..).mp same
  have lengths := congrArg List.length groups
  rw [List.length_map, List.length_map] at lengths
  rw [← quantity, ← setSize, ← lengths]
  exact h x there

/-- A group as the pending list names it. -/
def Group.refIn (number line : Nat) (g : Group) : GroupRef :=
  { order := number, line, group := g.number }

/-- With no group short, or without the short ones, an order's lines have the quantity of their groups. -/
theorem linesWithout_sized (number : Nat) (lines : List LineRequest) (fine : orderInRange number lines)
    (short : List GroupRef) (sub : short.Sublist (placedRefs number lines)) (priority : Priority) (policy : ShortPolicy)
    (lane : Option Nat) (o : Order) (fixed : o.fixed = placedOrder number priority policy lines lane fun _ => 0) :
    ({ o with lines := linesWithout number short o.lines } : Order).sized := by
  intro l mem
  obtain ⟨i, at_⟩ := List.mem_iff_getElem?.1 mem
  simp only [linesWithout, List.getElem?_mapIdx] at at_
  obtain ⟨q, there, rfl⟩ := Option.map_eq_some_iff.1 at_
  obtain ⟨x, asked, quantity, setSize, numbers⟩ := placed_line number priority policy lines lane o fixed i q there
  have divides : x.setSize * (x.quantity / x.setSize) = x.quantity :=
    Nat.mul_div_cancel' (Nat.dvd_of_mod_eq_zero (fine.2.2.2.1 x (List.mem_of_getElem? asked)).2.2.2)
  have count : q.groups.length = x.quantity / x.setSize := by
    have := congrArg List.length numbers
    rwa [List.length_map, List.length_range] at this
  -- the references of the line's groups that are short are the short references of the line
  have refs_nodup : (q.groups.map (Group.refIn number i)).Nodup := by
    have split : q.groups.map (Group.refIn number i) = (q.groups.map Group.number).map (GroupRef.mk number i) := by rw [List.map_map]; rfl
    rw [split, numbers]
    exact List.nodup_range.map fun a b same => congrArg GroupRef.group same
  have same : ((q.groups.map (Group.refIn number i)).filter fun r => decide (r ∈ short)).Perm (short.filter fun r => r.line == i) := by
    refine (List.perm_ext_iff_of_nodup (refs_nodup.filter _) (((placedRefs_nodup number lines).sublist sub).filter _)).2
      fun r => ?_
    simp only [List.mem_filter, List.mem_map, decide_eq_true_eq, beq_iff_eq]
    constructor
    · rintro ⟨⟨g, _, rfl⟩, listed⟩
      exact ⟨listed, rfl⟩
    · rintro ⟨listed, rfl⟩
      obtain ⟨named, y, asked', below⟩ := (mem_placedRefs number lines r).1 (sub.subset listed)
      rw [asked] at asked'
      cases asked'
      have has : r.group ∈ q.groups.map Group.number := numbers ▸ List.mem_range.2 below
      obtain ⟨g, hg, group⟩ := List.mem_map.1 has
      exact ⟨⟨g, hg, by rw [Group.refIn, group, ← named]⟩, listed⟩
  have gone : (q.groups.filter fun g => decide (g.refIn number i ∈ short)).length = (short.filter fun r => r.line == i).length := by
    have lengths := same.length_eq
    rwa [List.filter_map, List.length_map] at lengths
  have all : q.groups.length = (q.groups.filter fun g => decide (g.refIn number i ∈ short)).length +
      (q.groups.filter fun g => decide (g.refIn number i ∉ short)).length := by
    rw [List.length_eq_length_filter_add fun g => decide (g.refIn number i ∈ short)]
    simp only [decide_not]
  have left : (q.groups.filter fun g => decide (g.refIn number i ∉ short)).length =
      q.groups.length - (short.filter fun r => r.line == i).length := by omega
  show q.quantity - q.setSize * _ = q.setSize * (q.groups.filter fun g => decide (g.refIn number i ∉ short)).length
  rw [left, Nat.mul_sub, count, quantity, setSize, divides]

/-! ## The WAIT policy (R102) -/

theorem waitShort_nil (s : State) (number : Nat) : s.waitShort number [] = s := rfl

theorem waitShort_cons (s : State) (number total : Nat) (o : Order) (order : s.order number = some o) (total_is : o.total = total)
    (short : List GroupRef) (some_short : short ≠ []) : ∃ joined,
      s.waitShort number short = State.notify { s with orderUnit := { s.orderUnit with pending := joined } }
        (.orderShort number .wait short.length total) ∧
      (∀ g, g ∈ joined ↔ g ∈ s.orderUnit.pending ∨ g ∈ short) ∧
      (s.orderUnit.pending.Pairwise (fun a b => keyBefore (s.pendingKey b) (s.pendingKey a) = false) →
        joined.Pairwise fun a b => keyBefore (s.pendingKey b) (s.pendingKey a) = false) := by
  obtain ⟨joined, same, mem, sorted⟩ := foldl_joinPending short s
  refine ⟨joined, ?_, mem, sorted⟩
  unfold State.waitShort
  dsimp only
  rw [if_neg (mt List.isEmpty_iff.1 some_short), same,
    show ({ s with orderUnit := { s.orderUnit with pending := joined } } : State).order number = some o from order]
  exact congrArg (fun n => State.notify _ (.orderShort number .wait short.length n)) total_is

/-- Under WAIT the link port and the pending list alone change. -/
theorem waitShort_frame (s : State) (number : Nat) (short : List GroupRef) : ∃ (l : LinkPort) (joined : List GroupRef),
    s.waitShort number short = { s with link := l, orderUnit := { s.orderUnit with pending := joined } } := by
  obtain ⟨joined, same, _⟩ := foldl_joinPending short s
  unfold State.waitShort
  dsimp only
  rw [same]
  split
  · exact ⟨s.link, joined, rfl⟩
  · exact ⟨_, joined, notify_frame _ _⟩

/-! ## The PARTIAL policy (R103) -/

/-- The part once the short groups are off the lines of order `number`, which leaves `lines`, and its lane, if it has one,
expects the new total; ORDER-SHORT is sent. -/
def State.reduced (s : State) (number : Nat) (lane : Option Nat) (short : List GroupRef) (lines : List OrderLine) : State :=
  State.notify { s with
    orderUnit := { s.orderUnit with
      orders := s.orderUnit.orders.map fun q => if q.number = number then { q with lines } else q }
    consolidation := { s.consolidation with lanes := match lane with
      | some n => s.consolidation.lanes.modify n fun l => { l with expected := (lines.map OrderLine.quantity).sum }
      | none => s.consolidation.lanes } }
    (.orderShort number .part short.length (lines.map OrderLine.quantity).sum)

section Part

variable {s : State} {number : Nat} {o : Order} (newest : s.newest number o)
include newest

theorem reduced_newest (lane : Option Nat) (short : List GroupRef) (lines : List OrderLine) :
    (s.reduced number lane short lines).newest number { o with lines } := by
  obtain ⟨l, orders, others⟩ := newest.modOrder (fun q => { q with lines }) rfl
  refine ⟨l, ?_, others⟩
  unfold State.reduced
  rw [notify_frame]
  exact orders

/-- Only the new order has its number, so its lines alone lose groups. -/
theorem modOrder_newest (f g : Order → Order) (same : f o = g o) : s.modOrder number f = s.modOrder number g := by
  have all : s.orderUnit.orders.map (fun q => if q.number = number then f q else q) =
      s.orderUnit.orders.map fun q => if q.number = number then g q else q := by
    refine List.map_congr_left fun q mem => ?_
    split
    · next named => rw [newest.unique q mem named, same]
    · rfl
  unfold State.modOrder
  rw [all]

theorem partShort_eq (short : List GroupRef) (named : ∀ r ∈ short, r.order = number) (some_short : short ≠ []) :
    s.partShort number short =
      if ((linesWithout number short o.lines).map OrderLine.quantity).sum = 0 then
        (s.reduced number o.lane short (linesWithout number short o.lines)).removeEmptyOrder number
      else s.reduced number o.lane short (linesWithout number short o.lines) := by
  have dropped : short.foldl State.dropGroup s =
      s.modOrder number fun q => { q with lines := linesWithout number short o.lines } :=
    (foldl_dropGroup number short named s).trans (modOrder_newest newest _ _ rfl)
  have after := (newest.modOrder (fun q => { q with lines := linesWithout number short o.lines }) rfl).order
  have expects : ∀ total, (s.modOrder number fun q => { q with lines := linesWithout number short o.lines }).expectTotal
      number total = { s.modOrder number (fun q => { q with lines := linesWithout number short o.lines }) with
        consolidation := { s.consolidation with lanes := match o.lane with
          | some n => s.consolidation.lanes.modify n fun l => { l with expected := total }
          | none => s.consolidation.lanes } } := fun total => by
    unfold State.expectTotal
    rw [after]
    cases o.lane <;> rfl
  unfold State.partShort
  dsimp only
  rw [if_neg (mt List.isEmpty_iff.1 some_short), dropped, after, expects]
  rfl

/-- The removal of an order of total 0 that has a lane: the lane is freed and offered. -/
theorem removeEmptyOrder_lane (lane : Nat) (has : o.lane = some lane) : s.removeEmptyOrder number =
    ((s.removeOrder number).freeTheLane lane).offerLane lane := by
  unfold State.removeEmptyOrder
  rw [newest.order, Option.bind_some, has]

/-- The removal of one that waits for a lane. -/
theorem removeEmptyOrder_none (has : o.lane = none) : s.removeEmptyOrder number =
    { s.removeOrder number with orderUnit := { (s.removeOrder number).orderUnit with
        laneWait := (s.removeOrder number).orderUnit.laneWait.filter fun n => n != number } } := by
  unfold State.removeEmptyOrder
  rw [newest.order, Option.bind_some, has]

end Part

/-! ## An order removed -/

theorem order_removeOrder (s : State) (n : Nat) : (s.removeOrder n).order n = none := by
  rw [order_eq_none_iff]
  intro o mem named
  have kept := (List.mem_filter.1 mem).2
  simp [named] at kept

/-- A number that no order has is not that of one after an order has changed. -/
theorem order_none_modOrder {s : State} {n : Nat} (absent : s.order n = none) (m : Nat) (f : Order → Order)
    (number : ∀ o, (f o).number = o.number) : (s.modOrder m f).order n = none := by
  rw [order_eq_none_iff] at absent ⊢
  intro o mem
  obtain ⟨q, there, ⟨rfl, _⟩ | ⟨rfl, _⟩⟩ := mem_modOrder mem
  · exact absent o there
  · rw [number]
    exact absent q there

theorem order_none_of_keeps {p : Nat → Prop} {s t : State} (k : s.Keeps p t) {n : Nat} (absent : s.order n = none) :
    t.order n = none := by
  have same := k.order n
  rw [absent] at same
  exact Option.map_eq_none_iff.1 same

theorem order_none_offerLane {s : State} {n : Nat} (absent : s.order n = none) (lane : Nat) :
    (s.offerLane lane).order n = none := by
  unfold State.offerLane
  split
  · exact absent
  · next m rest _ =>
    unfold State.assignLane
    split
    · exact absent
    · refine order_none_of_keeps (State.follows_foldl _ State.follows_joinTail _ _)
        (order_none_modOrder ?_ m _ fun _ => rfl)
      exact absent

theorem order_none_removeEmptyOrder (s : State) (n : Nat) : (s.removeEmptyOrder n).order n = none := by
  unfold State.removeEmptyOrder
  split
  · exact order_none_offerLane (s := (s.removeOrder n).freeTheLane _) (order_removeOrder s n) _
  · exact order_removeOrder s n

/-! ## The store's records -/

namespace State.Shelved

theorem lanes (s : State) (l : List Lane) :
    s.Shelved { s with consolidation := { s.consolidation with lanes := l } } :=
  ⟨rfl, fun _ => rfl, rfl, rfl, rfl, rfl, rfl⟩

theorem offerLane (s : State) (lane : Nat) : s.Shelved (s.offerLane lane) := by
  unfold State.offerLane
  split
  · exact refl s
  · next m rest _ =>
    refine (orderUnit s { s.orderUnit with laneWait := rest }).trans ?_
    unfold State.assignLane
    split
    · exact refl _
    · refine trans ?_ (of_keeps (State.follows_foldl _ State.follows_joinTail _ _))
      exact (lanes _ _).trans (modOrder _ _ _)

theorem removeEmptyOrder (s : State) (n : Nat) : s.Shelved (s.removeEmptyOrder n) := by
  unfold State.removeEmptyOrder
  split
  · exact ((orderUnit s _).trans (lanes _ _)).trans (offerLane _ _)
  · exact orderUnit s _

theorem waitShort (s : State) (number : Nat) (short : List GroupRef) : s.Shelved (s.waitShort number short) := by
  obtain ⟨l, joined, same⟩ := waitShort_frame s number short
  rw [same]
  exact ⟨rfl, fun _ => rfl, rfl, rfl, rfl, rfl, rfl⟩

theorem partShort (s : State) (number : Nat) (short : List GroupRef) : s.Shelved (s.partShort number short) := by
  have dropped : s.Shelved (short.foldl State.dropGroup s) := foldl State.dropGroup (fun s r => modOrder s r.order _) short s
  have expects : ∀ (v : State) (total : Nat), v.Shelved (v.expectTotal number total) := fun v total => by
    unfold State.expectTotal
    split
    · exact lanes v _
    · exact refl v
  unfold State.partShort
  dsimp only
  split
  · exact refl s
  · split
    · exact ((dropped.trans (expects _ _)).trans (notify _ _)).trans (removeEmptyOrder _ _)
    · exact (dropped.trans (expects _ _)).trans (notify _ _)

theorem shortGroups (s : State) (number : Nat) (policy : ShortPolicy) (short : List GroupRef) :
    s.Shelved (s.shortGroups number policy short) := by
  cases policy
  · exact waitShort s number short
  · exact partShort s number short

theorem seated (s : State) (o : Order) (total : Nat) (wait : List Nat) : s.Shelved (s.seated o total wait) :=
  ⟨rfl, fun _ => rfl, rfl, rfl, rfl, rfl, rfl⟩

end State.Shelved

/-! ## Whole groups under PARTIAL -/

theorem drawn_newest {s : State} {r : GroupRef} {o : Order} (newest : s.newest r.order o) :
    s.drawn r ↔ o.drawn r.line r.group :=
  ⟨fun h => h o (List.mem_of_find?_eq_some newest.order) newest.number,
    fun h q mem named => newest.unique q mem named ▸ h⟩

/-- A sized order whose groups are all drawn is whole after the follow-ups of the step too. -/
theorem settle_whole {s : State} {number : Nat} {o : Order} (newest : s.newest number o) (sized : o.sized)
    (drawn : ∀ i n, s.drawn ⟨number, i, n⟩) (q : Order) (order : s.settle.order number = some q) : q.whole := by
  obtain ⟨q', newest', fixed⟩ := newest.of_fixed s.settle_follows.orders
  rw [newest'.order] at order
  cases order
  refine fun l mem => ⟨sized_of_fixed fixed sized l mem, fun g hg => ?_⟩
  obtain ⟨i, at_⟩ := List.mem_iff_getElem?.1 mem
  have still := (followClosed_drawn ⟨number, i, g.number⟩).settle (drawn i g.number) fun _ _ _ _ => trivial
  exact (drawn_newest (r := ⟨number, i, g.number⟩) newest').1 still l at_ g hg rfl

end Sys2Proof.Machine
end

section
/-! ORDER-PLACE put together (O51): R93, R94. -/

namespace Sys2Proof.Machine

/-! ## The placement (R94) -/

/-- An order placed on the part `s`: `y` is the part once its groups are allocated in turn, `short` those left short. -/
structure State.Places (s : State) (number : Nat) (priority : Priority) (policy : ShortPolicy) (lines : List LineRequest)
    (wait : List Nat) (y : State) (short : List GroupRef) : Prop where
  each : allocateEach (placedRefs number lines) (s.seated (placedOrder number priority policy lines s.freeLane
    LineRequest.setSize) (lines.map LineRequest.quantity).sum wait) [] = (y, short)
  allocates : (s.seated (placedOrder number priority policy lines s.freeLane LineRequest.setSize)
    (lines.map LineRequest.quantity).sum wait).Allocates (placedRefs number lines) y short
  result : s.placeOrder number priority policy lines = (y.shortGroups number policy short,
    (y.shortGroups number policy short).placeReply number (placedRefs number lines).length short.length)

theorem placeOrder_refused (s : State) (number : Nat) (priority : Priority) (policy : ShortPolicy) (lines : List LineRequest)
    (r : Reason) (refusal : s.orderRefusal number lines = some r) :
    s.placeOrder number priority policy lines = (s, .refused r) := by
  unfold State.placeOrder
  rw [refusal]
  rfl

theorem placeOrder_places (s : State) (number : Nat) (priority : Priority) (policy : ShortPolicy) (lines : List LineRequest)
    (accepted : s.orderRefusal number lines = none) (fresh : s.order number = none) (wait : List Nat)
    (joined : insertByKey (s.withOrder (newOrder number priority policy lines)).laneKey number s.orderUnit.laneWait = wait) :
    ∃ y short, s.Places number priority policy lines wait y short := by
  obtain ⟨y, short, each, allocates⟩ := allocateEach_allocates (placedRefs number lines) (s.seated (placedOrder number
    priority policy lines s.freeLane LineRequest.setSize) (lines.map LineRequest.quantity).sum wait) []
  refine ⟨y, short, each, allocates, ?_⟩
  have seat := seatOrder_eq s number priority policy lines fresh wait joined
  have run : s.placeOrder number priority policy lines =
      (let r := allocateEach (newOrder number priority policy lines).refs
          ((s.withOrder (newOrder number priority policy lines)).seatOrder number) []
        let z := r.1.shortGroups number policy r.2
        (z, z.placeReply number (newOrder number priority policy lines).refs.length r.2.length)) := by
    unfold State.placeOrder
    rw [accepted]
    rfl
  rw [run, newOrder_refs, seat, each]
  rfl

section Placed

variable {s : State} {number : Nat} {priority : Priority} {policy : ShortPolicy} {lines : List LineRequest} {wait : List Nat}
  {y : State} {short : List GroupRef} (h : s.Places number priority policy lines wait y short)
include h

theorem State.Places.refs (r : GroupRef) (listed : r ∈ short) : r.order = number :=
  ((mem_placedRefs number lines r).1 (h.allocates.sublist.subset listed)).1

theorem State.Places.shelved : s.Shelved (y.shortGroups number policy short) :=
  ((State.Shelved.seated s _ _ wait).trans (.of_keeps h.allocates.follows)).trans (.shortGroups y number policy short)

theorem State.Places.laneWait : y.orderUnit.laneWait = if s.freeLane = none then wait else s.orderUnit.laneWait :=
  h.allocates.follows.laneWait

theorem State.Places.orders : y.orderUnit.orders.map Order.fixed = s.orderUnit.orders.map Order.fixed ++
    [placedOrder number priority policy lines s.freeLane fun _ => 0] := by
  rw [h.allocates.follows.orders, ← placedOrder_fixed number priority policy lines s.freeLane LineRequest.setSize]
  exact List.map_append

theorem State.Places.lane (n : Nat) (free : s.freeLane = some n) : y.lane n =
    some { state := .filling, order := some number, expected := (lines.map LineRequest.quantity).sum } := by
  have below : n < s.consolidation.lanes.length := (List.findIdx?_eq_some_iff_findIdx_eq.1 free).1
  rw [State.lane, h.allocates.follows.lanes]
  show (match s.freeLane with
    | some n => s.consolidation.lanes.modify n _
    | none => s.consolidation.lanes)[n]? = _
  rw [free]
  dsimp only
  rw [List.getElem?_modify, List.getElem?_eq_getElem below]
  exact congrArg some (if_pos rfl)

/-- A group of the order that is not short is drawn. -/
theorem State.Places.drawn {o : Order} (newest : y.newest number o)
    (fixed : o.fixed = placedOrder number priority policy lines s.freeLane fun _ => 0) (i n : Nat)
    (kept : ⟨number, i, n⟩ ∉ short) : o.drawn i n := fun l there g mem named => by
  obtain ⟨x, asked, _, _, numbers⟩ := placed_line number priority policy lines s.freeLane o fixed i l there
  have below : n ∈ List.range (x.quantity / x.setSize) := by
    rw [← numbers, ← named]
    exact List.mem_map_of_mem mem
  have listed : ⟨number, i, n⟩ ∈ placedRefs number lines :=
    (mem_placedRefs number lines _).2 ⟨rfl, x, asked, List.mem_range.1 below⟩
  exact (drawn_newest (r := ⟨number, i, n⟩) newest).1 (h.allocates.drawn _ listed kept) l there g mem named

/-- Under WAIT the order keeps its lines, its lane or its place on the lane wait list, the follow-ups of the step with it. -/
theorem State.Places.waits :
    (y.waitShort number short).settle.orderUnit.orders.map Order.fixed = s.orderUnit.orders.map Order.fixed ++
      [placedOrder number priority policy lines s.freeLane fun _ => 0] ∧
    (∀ n, s.freeLane = some n → (y.waitShort number short).settle.lane n =
      some { state := .filling, order := some number, expected := (lines.map LineRequest.quantity).sum }) ∧
    (s.freeLane = none → (y.waitShort number short).settle.orderUnit.laneWait = wait) := by
  obtain ⟨_, _, frame⟩ := waitShort_frame y number short
  have follows := (y.waitShort number short).settle_follows
  have orders : (y.waitShort number short).orderUnit.orders = y.orderUnit.orders := by rw [frame]
  have lanes : (y.waitShort number short).consolidation.lanes = y.consolidation.lanes := by rw [frame]
  have laneWait : (y.waitShort number short).orderUnit.laneWait = y.orderUnit.laneWait := by rw [frame]
  refine ⟨?_, fun n free => ?_, fun none_free => ?_⟩
  · rw [follows.orders, orders, h.orders]
  · rw [State.lane, follows.lanes, lanes]
    exact h.lane n free
  · rw [follows.laneWait, laneWait, h.laneWait, if_pos none_free]

variable (fresh : s.order number = none)
include fresh

/-- The new order after the allocation of its groups. -/
theorem State.Places.newest : ∃ o, y.newest number o ∧ o.fixed = placedOrder number priority policy lines s.freeLane fun _ => 0 := by
  have seated : (s.seated (placedOrder number priority policy lines s.freeLane LineRequest.setSize)
      (lines.map LineRequest.quantity).sum wait).newest number
      (placedOrder number priority policy lines s.freeLane LineRequest.setSize) :=
    ⟨s.orderUnit.orders, rfl, (order_eq_none_iff s number).1 fresh, rfl⟩
  obtain ⟨o, newest, fixed⟩ := seated.of_fixed h.allocates.follows.orders
  exact ⟨o, newest, fixed.trans (placedOrder_fixed ..)⟩

/-- Under PARTIAL an order that stays keeps whole groups alone (R103). -/
theorem State.Places.whole (fine : orderInRange number lines) (q : Order)
    (order : (y.partShort number short).settle.order number = some q) : q.whole := by
  obtain ⟨o, newest, fixed⟩ := h.newest fresh
  have sized := linesWithout_sized number lines fine short h.allocates.sublist priority policy s.freeLane o fixed
  by_cases some_short : short = []
  · subst some_short
    rw [linesWithout_nil] at sized
    exact settle_whole newest sized (fun i n => (drawn_newest (r := ⟨number, i, n⟩) newest).2
      (h.drawn newest fixed i n nofun)) q order
  rw [partShort_eq newest short h.refs some_short] at order
  split at order
  · rw [order_none_of_keeps (State.settle_follows _) (order_none_removeEmptyOrder _ number)] at order
    cases order
  · have reduced := reduced_newest newest o.lane short (linesWithout number short o.lines)
    refine settle_whole reduced sized (fun i n => (drawn_newest (r := ⟨number, i, n⟩) reduced).2 ?_) q order
    intro l there g mem named
    simp only [linesWithout, List.getElem?_mapIdx] at there
    obtain ⟨l, old, rfl⟩ := Option.map_eq_some_iff.1 there
    obtain ⟨was, kept⟩ := List.mem_filter.1 mem
    rw [named] at kept
    exact h.drawn newest fixed i n (of_decide_eq_true kept) l old g was named

end Placed

/-- Settles O51: the tests are `orderRefusal`, the steps `placeOrder_places`; the two policies are `waitShort` and
`partShort`. -/
theorem orderPlaceIsTested : Obligations.OrderPlaceIsTested := by
  intro s f number priority policy lines q asked refused shape known
  have row : exec .orderPlace s = .next (s.serve f fun s => s.placeOrder number priority policy lines) :=
    congrArg _ (onRequest_asked asked rfl)
  have refuses : ∀ r, s.takeRequest.orderRefusal number lines = some r → refused r := fun r refusal =>
    row.trans (congrArg _ (serve_refused q f (placeOrder_refused _ number priority policy lines r refusal)))
  refine ⟨fun bad => refuses _ (orderRefusal_badValue _ number lines bad),
    fun fine unknown => refuses _ (orderRefusal_unknown s.takeRequest number lines fine unknown),
    fun fine known used => refuses _ (orderRefusal_inUse s.takeRequest number lines fine known used),
    fun fine known fresh full => refuses _ (orderRefusal_noSpace s.takeRequest number lines fine known fresh full),
    fun fine known fresh room => ?_, fun _ fine known fresh room => ?_⟩
  all_goals
    have fresh_taken : s.takeRequest.order number = none := fresh
    have accepted := orderRefusal_none s.takeRequest number lines fine known fresh_taken room
    obtain ⟨before, after, split, joined, behind, ahead⟩ :=
      laneWait_split s.takeRequest number fresh_taken (newOrder number priority policy lines) rfl
    obtain ⟨y, short, h⟩ := placeOrder_places s.takeRequest number priority policy lines accepted fresh_taken _ joined
    have done := row.trans (congrArg _ (serve_done f h.result))
  · have shelved := ((State.Shelved.takeRequest s).trans h.shelved).trans (.settle _)
    refine ⟨_, _, done, rfl, shelved.articles, shelved.balances, shelved.bays, shelved.transit, shelved.target,
      fun is_wait => ?_, fun is_part q order => ?_⟩
    · subst is_wait
      obtain ⟨orders, lanes, laneWait⟩ := h.waits
      have joins : s.freeLane = none → number ∈ (y.waitShort number short).settle.orderUnit.laneWait := fun none_free => by
        rw [laneWait none_free]
        simp
      exact ⟨orders, lanes, joins⟩
    · subst is_part
      exact h.whole fresh_taken fine q order
  · obtain ⟨o, newest, fixed⟩ := h.newest fresh_taken
    intro total record refs
    refine ⟨before, after, split, behind, ahead, ?_⟩
    intro seated pair y' short'
    have pair_is : pair = (y, short) := (allocateEach_eq_foldl _ _ _).symm.trans h.each
    have y_is : y' = y := congrArg Prod.fst pair_is
    have short_is : short' = short := congrArg Prod.snd pair_is
    clear_value y' short'
    subst y_is short_is
    refine ⟨y'.shortGroups number policy short', done, fun none_short => ?_, fun some_short is_wait => ?_,
      fun some_short is_part => ?_⟩
    · subst none_short
      cases policy <;> rfl
    · subst is_wait
      exact waitShort_cons y' number total o newest.order ((total_of_fixed (fixed.trans
        (placedOrder_fixed number priority .wait lines s.freeLane LineRequest.setSize).symm)).trans (placedOrder_total ..))
        short' some_short
    · subst is_part
      refine ⟨o, newest.order, ?_⟩
      intro left rest noticed gone
      have parted := partShort_eq newest short' h.refs some_short
      have reduced := reduced_newest newest o.lane short' left
      refine ⟨fun stays => parted.trans (if_neg stays), fun empty n lane => ?_, fun empty lane => ?_⟩
      · rw [show y'.shortGroups number .part short' = _ from
          (parted.trans (if_pos empty)).trans (removeEmptyOrder_lane reduced n lane)]
        exact offerLane_offers _ n
      · exact (parted.trans (if_pos empty)).trans (removeEmptyOrder_none reduced lane)

end Sys2Proof.Machine
end

section
/-! One task of a withdrawn order (O53): Table 5-12, by where the task stands (R67, R107, R125). -/

namespace Sys2Proof.Machine

/-! ## What the end of a task leaves beside -/

/-- Nothing changes that the end of a task changes: bays, order unit, transit entries and balances; a report of freed entries
that is noted stays noted. `s` is the part before, `t` after. -/
structure State.Beside (s t : State) : Prop where
  bays : t.bays = s.bays
  profiles : ∀ d, (t.car d).profile = (s.car d).profile
  orderUnit : t.orderUnit = s.orderUnit
  consolidation : t.consolidation = s.consolidation
  balances : t.balances = s.balances
  articles : t.articles = s.articles
  audit : t.audit = s.audit
  target : t.power.target = s.power.target
  freed : s.agenda.freed = true → t.agenda.freed = true

namespace State.Beside

theorem refl (s : State) : s.Beside s := ⟨rfl, fun _ => rfl, rfl, rfl, rfl, rfl, rfl, rfl, id⟩

theorem trans {s t u : State} (a : s.Beside t) (b : t.Beside u) : s.Beside u where
  bays := b.bays.trans a.bays
  profiles := fun d => (b.profiles d).trans (a.profiles d)
  orderUnit := b.orderUnit.trans a.orderUnit
  consolidation := b.consolidation.trans a.consolidation
  balances := b.balances.trans a.balances
  articles := b.articles.trans a.articles
  audit := b.audit.trans a.audit
  target := b.target.trans a.target
  freed := fun h => b.freed (a.freed h)

theorem shelved {s t : State} (h : s.Beside t) : s.Shelved t :=
  ⟨congrArg _ h.bays, h.profiles, h.articles, h.balances, congrArg _ h.consolidation, by rw [h.audit], h.target⟩

section Single

variable (s : State)

theorem modCar (c : Nat) (f : Carousel → Carousel) (h : ∀ k, (f k).profile = k.profile) : s.Beside (s.modCar c f) where
  bays := rfl
  profiles := (State.Shelved.modCar s c f h).profiles
  orderUnit := rfl
  consolidation := rfl
  balances := rfl
  articles := rfl
  audit := rfl
  target := rfl
  freed := id

theorem setSlot (c : Nat) (m : Option SlotMove) : s.Beside (s.setSlot c m) :=
  ⟨rfl, fun _ => rfl, rfl, rfl, rfl, rfl, rfl, rfl, id⟩

theorem leaveWait (c : Nat) : s.Beside (s.leaveWait c) := ⟨rfl, fun _ => rfl, rfl, rfl, rfl, rfl, rfl, rfl, id⟩

theorem notePoint (c : Nat) : s.Beside (s.notePoint c) := by
  unfold State.notePoint
  split
  · exact refl s
  · exact ⟨rfl, fun _ => rfl, rfl, rfl, rfl, rfl, rfl, rfl, id⟩

theorem indicate (c b : Nat) (a : Indication) (q w : Nat) : s.Beside (s.indicate c b a q w) := by
  rw [indicate_frame]
  exact ⟨rfl, fun _ => rfl, rfl, rfl, rfl, rfl, rfl, rfl, id⟩

theorem presentationEnd (c : Nat) : s.Beside (s.presentationEnd c) := by
  have ended := modCar s c (fun k => { k with presentationTimer := none, inService := none }) fun _ => rfl
  unfold State.presentationEnd
  dsimp only
  split
  · unfold State.enterDriveFault
    dsimp only
    rw [notify_frame]
    have faulted := (ended.trans (modCar _ c (fun k => { k with faultPending := false }) fun _ => rfl)).trans
      (modCar _ c (fun k => { k with state := .driveFault }) fun _ => rfl)
    exact { faulted with }
  · exact (ended.trans (modCar _ c (fun k => { k with state := .ready }) fun _ => rfl)).trans (notePoint _ c)

end Single

end State.Beside

/-! ## The release of a claim (R36, R37) -/

/-- The record of a task whose move starts. -/
def Task.started (k : Task) : Task := { k with state := .moving }

/-- An offer pass changes power, outbox, carousels and task records alone, and of a task record the state alone. -/
structure State.OfferFrame (s t : State) : Prop where
  frame : ∃ (power : Power) (outbox : Outbox) (carousels : List Carousel) (pool : List (Option Task)),
    t = { s with power, outbox, carousels, orderUnit := { s.orderUnit with pool } }
  tasks : ∀ j, t.task j = s.task j ∨ t.task j = (s.task j).map Task.started

namespace State.OfferFrame

/-- Without a task the frame is all. -/
theorem of_pool {s t : State} (frame : ∃ (power : Power) (outbox : Outbox) (carousels : List Carousel),
    t = { s with power, outbox, carousels }) : s.OfferFrame t := by
  obtain ⟨power, outbox, carousels, rfl⟩ := frame
  exact ⟨⟨power, outbox, carousels, s.orderUnit.pool, rfl⟩, fun _ => .inl rfl⟩

theorem refl (s : State) : s.OfferFrame s := of_pool ⟨_, _, _, rfl⟩

theorem trans {s t u : State} (a : s.OfferFrame t) (b : t.OfferFrame u) : s.OfferFrame u where
  frame := by
    obtain ⟨_, _, _, _, a⟩ := a.frame
    obtain ⟨power, outbox, carousels, pool, b⟩ := b.frame
    exact ⟨power, outbox, carousels, pool, by rw [b, a]⟩
  tasks := fun j => by
    rcases b.tasks j with same | moves <;> rcases a.tasks j with same' | moves'
    · exact .inl (same.trans same')
    · exact .inr (same.trans moves')
    · exact .inr (moves.trans (congrArg _ same'))
    · right
      rw [moves, moves', Option.map_map]
      rfl

theorem startTask (s : State) (id : Nat) : s.OfferFrame (s.taskState id .moving) := by
  refine ⟨⟨_, _, _, _, rfl⟩, fun j => ?_⟩
  rw [State.taskState, State.task_modTask]
  split
  · exact .inr rfl
  · exact .inl rfl

end State.OfferFrame

theorem startMove_offerFrame (s t : State) (c level target : Nat) (h : s.startMove c level target = some t) :
    s.OfferFrame t ∧ ∀ d, d ≠ c → t.slot d = s.slot d := by
  have slot : ∀ (dest : Byte) (payload : List Byte) (d : Nat), d ≠ c →
      (s.placeMove c level dest payload).slot d = s.slot d := fun dest payload d ne =>
    (getD_modify ..).trans (if_neg fun e => ne e.1.symm)
  unfold State.startMove at h
  split at h
  · dsimp only at h
    split at h
    all_goals
      cases h
      refine ⟨?_, fun d ne => slot _ _ d ne⟩
    · exact State.OfferFrame.trans (.of_pool ⟨_, _, _, rfl⟩) (.startTask _ _)
    · exact .of_pool ⟨_, _, _, rfl⟩
  · cases h

theorem offerEntry_offerFrame (s : State) (e : WaitEntry) :
    s.OfferFrame (s.offerEntry e) ∧ ∀ d, d ≠ e.carousel → (s.offerEntry e).slot d = s.slot d := by
  have same : s.OfferFrame s := .refl s
  unfold State.offerEntry
  split
  · exact ⟨same, fun _ _ => rfl⟩
  · split
    · split
      · next h =>
        obtain ⟨frame, slot⟩ := startMove_offerFrame s _ _ _ _ h
        exact ⟨frame.trans (.of_pool ⟨_, _, _, rfl⟩), slot⟩
      · exact ⟨same, fun _ _ => rfl⟩
    · exact ⟨same, fun _ _ => rfl⟩

/-- The slot of a carousel without an entry on the power wait list stands. -/
theorem offerPass_offerFrame (s : State) :
    s.OfferFrame s.offerPass ∧ ∀ d, s.waits d = false → s.offerPass.slot d = s.slot d := by
  have all : ∀ (l : List WaitEntry) (v : State), v.OfferFrame (l.foldl State.offerEntry v) ∧
      ∀ d, (∀ e ∈ l, d ≠ e.carousel) → (l.foldl State.offerEntry v).slot d = v.slot d := by
    intro l
    induction l with
    | nil => exact fun v => ⟨.refl v, fun _ _ => rfl⟩
    | cons e l ih =>
      intro v
      obtain ⟨first, slot⟩ := offerEntry_offerFrame v e
      obtain ⟨rest, slots⟩ := ih (v.offerEntry e)
      exact ⟨first.trans rest, fun d others => (slots d fun x hx => others x (List.mem_cons_of_mem e hx)).trans
        (slot d (others e List.mem_cons_self))⟩
  refine ⟨(all _ s).1, fun d idle => (all _ s).2 d fun e listed at_ => ?_⟩
  rw [State.waits, List.any_eq_false] at idle
  exact idle e listed (beq_iff_eq.2 at_.symm)

theorem releaseClaim_offerFrame (s : State) (c : Nat) :
    s.OfferFrame (s.releaseClaim c) ∧ ∀ d, s.waits d = false → (s.releaseClaim c).slot d = s.slot d := by
  unfold State.releaseClaim
  split
  · obtain ⟨frame, slot⟩ := offerPass_offerFrame { s with power := s.power.dropClaim c }
    exact ⟨State.OfferFrame.trans (.of_pool ⟨_, _, _, rfl⟩) frame, slot⟩
  · exact ⟨.refl s, fun _ _ => rfl⟩

/-! ## The end of a task of a withdrawn order (R54, R109) -/

/-- The part once a PICK has ended whose group takes no change. -/
def State.taskGone (s : State) (id : Nat) (t : Task) : State :=
  { s with
    bays := (s.modBay t.bay fun b => { b with reserved := b.reserved - (t.quantity - t.taken) }).bays
    orderUnit := { s.orderUnit with pool := s.orderUnit.pool.modify id fun _ => none, retry := .all }
    consolidation := { s.consolidation with reserved := s.consolidation.reserved - t.transit }
    agenda := { s.agenda with freed := s.agenda.freed || decide (t.transit ≠ 0) } }

theorem retry_join_all (r : Retry) : r.join .all = .all := by
  cases r <;> rfl

theorem reserveRelease_eq (s : State) (id : BayId) (n : Nat) : ∃ r, s.reserveRelease id n =
    { s.modBay id (fun b => { b with reserved := b.reserved - n }) with orderUnit := { s.orderUnit with retry := r } } := by
  unfold State.reserveRelease
  split
  · next none_left =>
    refine ⟨s.orderUnit.retry, ?_⟩
    rw [none_left, modBay_eq_self s id _ rfl]
  · exact ⟨_, rfl⟩

theorem endTask_of_withdrawn (s : State) (id : Nat) (t : Task) (task : s.task id = some t) (pick : t.kind = .pick)
    (withdrawn : (s.order t.order).map Order.state = some .withdrawn) : s.endTask id = s.taskGone id t := by
  obtain ⟨o, order, state⟩ := Option.map_eq_some_iff.1 withdrawn
  obtain ⟨r, released⟩ := reserveRelease_eq (s.giveBack t.transit) t.bay (t.quantity - t.taken)
  have order' : ((s.giveBack t.transit).reserveRelease t.bay (t.quantity - t.taken)).order t.order = some o := by
    rw [State.order, reserveRelease_orders, giveBack_eq]
    exact order
  have stays : ((s.giveBack t.transit).reserveRelease t.bay (t.quantity - t.taken)).leaveGroup id t =
      (s.giveBack t.transit).reserveRelease t.bay (t.quantity - t.taken) := by
    unfold State.leaveGroup
    rw [order']
    dsimp only
    rw [if_pos state, ite_self]
  rw [endTask_pick s id t task pick, stays, released, giveBack_eq]
  unfold State.noteRetry
  rw [retry_join_all]
  rfl

/-- Task `id` has ended, and its group takes no need (R54, R109): `s` is the part before, `v` after. -/
structure State.TaskEnds (s v : State) (id : Nat) (t : Task) : Prop where
  task : v.task id = none
  bay : v.bay t.bay = { s.bay t.bay with reserved := (s.bay t.bay).reserved - (t.quantity - t.taken) }
  consolidation : v.consolidation = { s.consolidation with reserved := s.consolidation.reserved - t.transit }
  freed : t.transit ≠ 0 → v.agenda.freed = true
  retry : v.orderUnit.retry = .all
  pending : v.orderUnit.pending = s.orderUnit.pending
  balances : v.balances = s.balances

theorem taskGone_ends (s : State) (id : Nat) (t : Task) (c8 : t.bay.carousel < s.bays.length)
    (position : s.position t.bay < (s.baysOf t.bay.carousel).length) : s.TaskEnds (s.taskGone id t) id t where
  task := by
    refine (State.task_setTask s id id none).trans ?_
    split
    · rfl
    · next out =>
      exact List.getD_eq_default _ _ (not_lt.1 fun below => out ⟨rfl, below⟩)
  bay := bay_modBay_same s t.bay _ c8 position
  consolidation := rfl
  freed := fun held => by simp [State.taskGone, held]
  retry := rfl
  pending := rfl
  balances := rfl

/-- What happens beside the end of a task, before or after it, changes nothing of it. -/
theorem State.TaskEnds.of_beside {s p v v' : State} {id : Nat} {t : Task} (h : p.TaskEnds v id t)
    (bays : p.bays = s.bays) (profiles : ∀ d, (p.car d).profile = (s.car d).profile)
    (consolidation : p.consolidation = s.consolidation) (pending : p.orderUnit.pending = s.orderUnit.pending)
    (balances : p.balances = s.balances) (after : v.Beside v') : s.TaskEnds v' id t where
  task := by rw [State.task, after.orderUnit]; exact h.task
  bay := by rw [bay_congr after.bays after.profiles, h.bay, bay_congr bays profiles]
  consolidation := by rw [after.consolidation, h.consolidation, consolidation]
  freed := fun held => after.freed (h.freed held)
  retry := by rw [after.orderUnit, h.retry]
  pending := by rw [after.orderUnit, h.pending, pending]
  balances := by rw [after.balances, h.balances, balances]

/-- What follows the end of a task whose MOVE was removed (R67). -/
theorem endCancelled_beside (s : State) (c id : Nat) : ((s.releaseClaim c).endTask id).Beside (s.endCancelled c id) := by
  refine ((State.Beside.modCar _ _ _ ?_).trans (State.Beside.modCar _ _ _ ?_)).trans (State.Beside.notePoint ..)
  all_goals exact fun _ => rfl

/-! ## Table 5-12 -/

section Rows

variable (w : Withdrawal) (id : Nat) (t : Task) (task : w.state.task id = some t)
include task

theorem withdrawal_ended (state : t.state = .ended) : w.task id = w := by
  unfold Withdrawal.task
  dsimp only
  rw [task]
  dsimp only
  rw [state]

theorem withdrawal_waiting (state : t.withdrawable = true) : w.task id =
    { state := (w.state.detach id t).endTask id, ended := w.ended + 1, marked := w.marked } := by
  unfold Withdrawal.task
  dsimp only
  rw [task]
  dsimp only
  cases at_ : t.state <;> simp [Task.withdrawable, at_] at state <;> rfl

theorem withdrawal_presenting (state : t.state = .presenting) : w.task id =
    { state := w.state.endPresentedWithdrawn t.bay.carousel id t, ended := w.ended + 1, marked := w.marked } := by
  unfold Withdrawal.task
  dsimp only
  rw [task]
  dsimp only
  rw [state]
  rfl

theorem withdrawal_cancelled (state : t.state = .moving) (m : SlotMove) (slot : w.state.slot t.bay.carousel = some m)
    (unsent : m.chosen = false) : w.task id =
    { state := (w.state.setSlot t.bay.carousel none).endCancelled t.bay.carousel id
      ended := w.ended + 1, marked := w.marked } := by
  have cancelled : w.state.cancelMove t.bay.carousel = (w.state.setSlot t.bay.carousel none, true) := by
    unfold State.cancelMove
    rw [slot]
    dsimp only
    rw [unsent]
    rfl
  unfold Withdrawal.task
  dsimp only
  rw [task]
  dsimp only
  rw [state]
  dsimp only
  rw [cancelled]
  rfl

theorem withdrawal_marked (state : t.state = .moving) (sent : ∀ m, w.state.slot t.bay.carousel = some m → m.chosen = true) :
    w.task id = { w with state := w.state.modTask id fun x => { x with withdrawn := true }, marked := w.marked + 1 } := by
  have runs : w.state.cancelMove t.bay.carousel = (w.state, false) := by
    unfold State.cancelMove
    cases slot : w.state.slot t.bay.carousel with
    | none => rfl
    | some m => exact if_pos (sent m slot)
  unfold Withdrawal.task
  dsimp only
  rw [task]
  dsimp only
  rw [state]
  dsimp only
  rw [runs]

end Rows

end Sys2Proof.Machine
end

section
/-! Table 5-12 for one task of a withdrawn order (O53): what each of its rows leaves behind (R67, R107, R125). -/

namespace Sys2Proof.Machine

/-! ## The end of the task -/

/-- `p` is the part just before task `id` ends: as `s` in all that the end changes, the task's order withdrawn. -/
structure State.BeforeEnd (s p : State) (id : Nat) (t : Task) : Prop where
  task : ∃ st, p.task id = some { t with state := st }
  withdrawn : (p.order t.order).map Order.state = some .withdrawn
  bays : p.bays = s.bays
  profiles : ∀ d, (p.car d).profile = (s.car d).profile
  consolidation : p.consolidation = s.consolidation
  pending : p.orderUnit.pending = s.orderUnit.pending
  balances : p.balances = s.balances

theorem State.Beside.beforeEnd {s p : State} {id : Nat} {t : Task} (h : s.Beside p) (task : s.task id = some t)
    (withdrawn : (s.order t.order).map Order.state = some .withdrawn) : s.BeforeEnd p id t where
  task := ⟨t.state, by rwa [State.task, h.orderUnit]⟩
  withdrawn := by rwa [State.order, h.orderUnit]
  bays := h.bays
  profiles := h.profiles
  consolidation := h.consolidation
  pending := by rw [h.orderUnit]
  balances := h.balances

theorem State.BeforeEnd.eq {s p : State} {id : Nat} {t : Task} (h : s.BeforeEnd p id t) (pick : t.kind = .pick) :
    p.endTask id = p.taskGone id t := by
  obtain ⟨st, task⟩ := h.task
  exact endTask_of_withdrawn p id { t with state := st } task pick h.withdrawn

theorem State.BeforeEnd.ends {s p v : State} {id : Nat} {t : Task} (h : s.BeforeEnd p id t) (pick : t.kind = .pick)
    (position : s.position t.bay < (s.baysOf t.bay.carousel).length) (after : (p.endTask id).Beside v) :
    s.TaskEnds v id t := by
  have place : p.position t.bay = s.position t.bay := by
    unfold State.position State.baysPerCarrier
    rw [h.profiles]
  have list : p.baysOf t.bay.carousel = s.baysOf t.bay.carousel := congrArg (List.getD · _ _) h.bays
  have c8 : t.bay.carousel < p.bays.length := by
    by_contra out
    rw [← list, State.baysOf, List.getD_eq_default _ _ (not_lt.1 out)] at position
    exact absurd position (Nat.not_lt_zero _)
  rw [h.eq pick] at after
  exact (taskGone_ends p id t c8 (by rw [place, list]; exact position)).of_beside h.bays h.profiles h.consolidation h.pending
    h.balances after

/-- A withdrawal ends task `id` and leaves the part `v` (Table 5-12). -/
def Withdrawal.Ends (w : Withdrawal) (id : Nat) (t : Task) (v : State) : Prop :=
  w.task id = { state := v, ended := w.ended + 1, marked := w.marked } ∧ v.task id = none ∧
  v.bay t.bay = { w.state.bay t.bay with reserved := (w.state.bay t.bay).reserved - (t.quantity - t.taken) } ∧
  v.consolidation = { w.state.consolidation with reserved := w.state.consolidation.reserved - t.transit } ∧
  (t.transit ≠ 0 → v.agenda.freed = true) ∧ v.orderUnit.retry = .all ∧
  v.orderUnit.pending = w.state.orderUnit.pending ∧ v.balances = w.state.balances ∧
  (t.state ≠ .queued → t.state ≠ .balanceWait → v.orderUnit.orders = w.state.orderUnit.orders)

theorem State.TaskEnds.withdrawal {w : Withdrawal} {id : Nat} {t : Task} {v : State} (h : w.state.TaskEnds v id t)
    (eq : w.task id = { state := v, ended := w.ended + 1, marked := w.marked })
    (orders : t.state ≠ .queued → t.state ≠ .balanceWait → v.orderUnit.orders = w.state.orderUnit.orders) :
    w.Ends id t v :=
  ⟨eq, h.task, h.bay, h.consolidation, h.freed, h.retry, h.pending, h.balances, orders⟩

/-! ## The end of the presentation (R66) -/

section Presentation

variable (s : State) (c : Nat)

theorem presentationEnd_sound (sound : (s.car c).faultPending = false) :
    c ∈ (s.presentationEnd c).agenda.points ∧ (s.presentationEnd c).link = s.link := by
  unfold State.presentationEnd
  dsimp only
  rw [if_neg (by rw [sound]; exact Bool.false_ne_true)]
  exact ⟨notePoint_points .., by rw [notePoint_frame]; rfl⟩

theorem presentationEnd_fault (c8 : c < s.carousels.length) (fault : (s.car c).faultPending = true) :
    (s.presentationEnd c).link = (s.notify (.carouselFault c .drive (s.car c).index)).link := by
  unfold State.presentationEnd
  dsimp only
  rw [if_pos fault, modCar_modCar, enterDriveFault_eq, State.car_modCar, if_pos ⟨rfl, c8⟩]
  exact notify_link_congr _ _ _ rfl

theorem presentationEnd_keeps :
    (s.presentationEnd c).outbox = s.outbox ∧ (s.presentationEnd c).line = s.line ∧
      (s.presentationEnd c).power = s.power := by
  obtain ⟨l, agenda, eq, _⟩ := presentationEnd_eq s c
  rw [eq]
  exact ⟨rfl, rfl, rfl⟩

theorem presentationEnd_car (c8 : c < s.carousels.length) : (s.presentationEnd c).car c = (s.car c).presented := by
  obtain ⟨l, agenda, eq, _⟩ := presentationEnd_eq s c
  rw [eq]
  exact (State.car_modCar ..).trans (if_pos ⟨rfl, c8⟩)

end Presentation

/-! ## The rows -/

section Rows

variable (w : Withdrawal) (id : Nat) (t : Task) (b : w.state.bounded) (task : w.state.task id = some t)
  (pick : t.kind = .pick) (c8 : t.bay.carousel < 8)
  (position : w.state.position t.bay < (w.state.baysOf t.bay.carousel).length)
  (withdrawn : (w.state.order t.order).map Order.state = some .withdrawn)
include b task pick c8 position withdrawn

/-- The task stands in its level queue or is held (R101). -/
theorem withdrawal_ends_queued (state : t.state = .queued ∨ t.state = .balanceWait) :
    ∃ v, w.Ends id t v ∧ v.power = w.state.power ∧
      v.car t.bay.carousel = (w.state.car t.bay.carousel).unqueue id ∧
      v.orderUnit.orders = w.state.orderUnit.orders.map fun o =>
        if o.number = t.order then { o with held := o.held.filter (· != id) } else o := by
  have left : w.state.detach id t = (w.state.modCar t.bay.carousel fun k => k.unqueue id).modOrder t.order
      fun o => { o with held := o.held.filter (· != id) } := by
    unfold State.detach
    rcases state with state | state <;> rw [state]
  have before : w.state.BeforeEnd (w.state.detach id t) id t := by
    have shelved := detach_shelved w.state id t
    refine ⟨⟨t.state, (detach_task ..).trans task⟩, ?_, ?_, shelved.profiles, ?_, ?_, shelved.balances⟩
    · rw [left, order_modOrder, Option.map_map]
      · exact withdrawn
      · exact fun _ => rfl
    all_goals rw [left]; rfl
  refine ⟨_, (before.ends pick position (State.Beside.refl _)).withdrawal
    (withdrawal_waiting w id t task (by rcases state with state | state <;> simp [Task.withdrawable, state]))
    fun notQueued notWaiting => (state.elim notQueued notWaiting).elim, ?_⟩
  rw [before.eq pick, left]
  exact ⟨rfl, (State.car_modCar ..).trans (if_pos ⟨rfl, b.eight.1 ▸ c8⟩), rfl⟩

/-- The task waits for power (R58). -/
theorem withdrawal_ends_powerWait (state : t.state = .powerWait) :
    ∃ v, w.Ends id t v ∧
      v.power = { w.state.power with waitList := w.state.power.waitList.filter fun e => e.carousel != t.bay.carousel } ∧
      v.car t.bay.carousel = { w.state.car t.bay.carousel with inService := none } ∧
      t.bay.carousel ∈ v.agenda.points := by
  have left : w.state.detach id t =
      ((w.state.leaveWait t.bay.carousel).modCar t.bay.carousel fun k => { k with inService := none }).notePoint
        t.bay.carousel := by
    unfold State.detach
    rw [state]
  have beside : w.state.Beside (w.state.detach id t) := by
    rw [left]
    refine ((State.Beside.leaveWait ..).trans (State.Beside.modCar _ _ _ ?_)).trans (State.Beside.notePoint ..)
    exact fun _ => rfl
  have before := beside.beforeEnd task withdrawn
  refine ⟨_, (before.ends pick position (State.Beside.refl _)).withdrawal
    (withdrawal_waiting w id t task (by simp [Task.withdrawable, state])) fun _ _ => ?_, ?_⟩
  · rw [before.eq pick]
    exact (congrArg OrderUnit.orders beside.orderUnit :)
  · rw [before.eq pick, left]
    refine ⟨?_, ?_, notePoint_points ..⟩
    · rw [notePoint_frame]
      rfl
    · rw [notePoint_frame]
      exact (State.car_modCar ..).trans (if_pos ⟨rfl, b.eight.1 ▸ c8⟩)

/-- The task is parked (R70). -/
theorem withdrawal_ends_stalled (state : t.state = .stalled) :
    ∃ v, w.Ends id t v ∧ v.power = w.state.power ∧
      v.car t.bay.carousel = { w.state.car t.bay.carousel with
        parked := (w.state.car t.bay.carousel).parked.filter (· != id) } := by
  have left : w.state.detach id t =
      w.state.modCar t.bay.carousel fun k => { k with parked := k.parked.filter (· != id) } := by
    unfold State.detach
    rw [state]
  have beside : w.state.Beside (w.state.detach id t) := by
    rw [left]
    exact State.Beside.modCar _ _ _ fun _ => rfl
  have before := beside.beforeEnd task withdrawn
  refine ⟨_, (before.ends pick position (State.Beside.refl _)).withdrawal
    (withdrawal_waiting w id t task (by simp [Task.withdrawable, state])) fun _ _ => ?_, ?_⟩
  · rw [before.eq pick]
    exact (congrArg OrderUnit.orders beside.orderUnit :)
  · rw [before.eq pick, left]
    exact ⟨rfl, (State.car_modCar ..).trans (if_pos ⟨rfl, b.eight.1 ▸ c8⟩)⟩

/-- The task's MOVE is still in its slot (R67). -/
theorem withdrawal_ends_moving (state : t.state = .moving)
    (m : SlotMove) (slot : w.state.slot t.bay.carousel = some m) (unsent : m.chosen = false)
    (idle : w.state.waits t.bay.carousel = false) :
    ∃ v, w.Ends id t v ∧ v.slot t.bay.carousel = none ∧ v.hasClaim t.bay.carousel = false ∧
      v.car t.bay.carousel = { w.state.car t.bay.carousel with
        state := .ready, inService := none, move := none, moveTimer := none } ∧ t.bay.carousel ∈ v.agenda.points := by
  obtain ⟨frame, slots⟩ := releaseClaim_offerFrame (w.state.setSlot t.bay.carousel none) t.bay.carousel
  have released := releaseClaim_spec (w.state.setSlot t.bay.carousel none) t.bay.carousel
  have freed := releaseClaim_freed (w.state.setSlot t.bay.carousel none) t.bay.carousel
  have before : w.state.BeforeEnd ((w.state.setSlot t.bay.carousel none).releaseClaim t.bay.carousel) id t := by
    obtain ⟨power, outbox, carousels, pool, eq⟩ := frame.frame
    refine ⟨freed.offered.tasks id t task, ?_, freed.offered.bays, freed.profiles, ?_, ?_, released.balances⟩
    · rw [eq]
      exact withdrawn
    · rw [eq]
      rfl
    · rw [eq]
      rfl
  have after := endCancelled_beside (w.state.setSlot t.bay.carousel none) t.bay.carousel id
  refine ⟨(w.state.setSlot t.bay.carousel none).endCancelled t.bay.carousel id,
    (before.ends pick position after).withdrawal (withdrawal_cancelled w id t task state m slot unsent) fun _ _ => ?_, ?_⟩
  · refine (congrArg OrderUnit.orders after.orderUnit).trans ?_
    rw [before.eq pick]
    obtain ⟨power, outbox, carousels, pool, eq⟩ := frame.frame
    rw [eq]
    rfl
  · unfold State.endCancelled State.endMove
    dsimp only
    rw [before.eq pick, modCar_modCar]
    refine ⟨?_, ?_, ?_, notePoint_points ..⟩
    · rw [notePoint_frame]
      exact (slots _ idle).trans ((getD_modify ..).trans (if_pos ⟨rfl, b.slots ▸ c8⟩))
    · rw [notePoint_frame]
      exact released.claim idle
    · rw [notePoint_frame]
      have c8' : t.bay.carousel < w.state.carousels.length := by
        rw [b.eight.1]
        exact c8
      refine (State.car_modCar ..).trans ((if_pos ⟨rfl, released.len ▸ c8'⟩).trans ?_)
      show ({ ((w.state.setSlot t.bay.carousel none).releaseClaim t.bay.carousel).car t.bay.carousel with
        state := .ready, inService := none, move := none, moveTimer := none } : Carousel) = _
      rw [released.car idle]
      rfl

/-- The task is presented at the mouth (R125). -/
theorem withdrawal_ends_presenting (state : t.state = .presenting)
    (p : Profile) (profile : (w.state.car t.bay.carousel).profile = some p) :
    ∃ v shown, w.Ends id t v ∧ w.state.Builds p.reader kindIndicate [byte t.bay.bay, 3, 0, 0] shown ∧
      v.outbox = shown.outbox ∧ v.line = shown.line ∧ v.power = w.state.power ∧
      v.car t.bay.carousel = { w.state.car t.bay.carousel with
        state := if (w.state.car t.bay.carousel).faultPending then .driveFault else .ready
        inService := none, presentationTimer := none, faultPending := false } ∧
      ((w.state.car t.bay.carousel).faultPending = false → t.bay.carousel ∈ v.agenda.points ∧ v.link = w.state.link) ∧
      ((w.state.car t.bay.carousel).faultPending = true →
        v.link = (w.state.notify (.carouselFault t.bay.carousel .drive (w.state.car t.bay.carousel).index)).link) := by
  have beside := State.Beside.indicate w.state t.bay.carousel t.bay.bay .cancelled 0 0
  have frame := indicate_frame w.state t.bay.carousel t.bay.bay .cancelled 0 0
  have builds : w.state.Builds p.reader kindIndicate [byte t.bay.bay, 3, 0, 0]
      (w.state.indicate t.bay.carousel t.bay.bay .cancelled 0 0) := by
    unfold State.indicate
    rw [profile]
    exact build_builds ..
  have before := beside.beforeEnd task withdrawn
  have after := fun x => State.Beside.presentationEnd x t.bay.carousel
  refine ⟨_, _, (before.ends pick position (after _)).withdrawal (withdrawal_presenting w id t task state) fun _ _ => ?_,
    builds, ?_⟩
  · rw [congrArg OrderUnit.orders (after _).orderUnit, before.eq pick]
    exact (congrArg OrderUnit.orders beside.orderUnit :)
  · rw [before.eq pick]
    have car : (((w.state.indicate t.bay.carousel t.bay.bay .cancelled 0 0).taskGone id t).car t.bay.carousel) =
        w.state.car t.bay.carousel := by
      rw [frame]
      rfl
    have link : ((w.state.indicate t.bay.carousel t.bay.bay .cancelled 0 0).taskGone id t).link = w.state.link := by
      rw [frame]
      rfl
    have c8' : t.bay.carousel <
        ((w.state.indicate t.bay.carousel t.bay.bay .cancelled 0 0).taskGone id t).carousels.length := by
      rw [frame]
      exact b.eight.1 ▸ c8
    obtain ⟨outbox, line, power⟩ := presentationEnd_keeps
      ((w.state.indicate t.bay.carousel t.bay.bay .cancelled 0 0).taskGone id t) t.bay.carousel
    refine ⟨outbox, line, power.trans ?_, ?_, fun sound => ?_, fun fault => ?_⟩
    · rw [frame]
      rfl
    · rw [presentationEnd_car _ _ c8', car]
      rfl
    · rw [← link]
      exact presentationEnd_sound _ _ (by rw [car]; exact sound)
    · rw [presentationEnd_fault _ _ c8' (by rw [car]; exact fault), car]
      exact notify_link_congr _ _ _ link

end Rows

end Sys2Proof.Machine
end

section
/-! The withdrawal of an order (O53): what its tasks leave behind one after the other, the lane's test, and what the step's
follow-ups keep (R107, R138). -/

namespace Sys2Proof.Machine

/-! ## The tasks of the order -/

theorem mem_tasksOf (s : State) (number id : Nat) : id ∈ s.tasksOf number ↔
    id < 128 ∧ ∃ t, s.task id = some t ∧ t.kind = .pick ∧ t.order = number ∧ t.withdrawn = false := by
  unfold State.tasksOf
  rw [List.mem_filter, List.mem_range]
  cases s.task id with
  | none => simp
  | some t => simp [and_assoc]

theorem nodup_tasksOf (s : State) (number : Nat) : (s.tasksOf number).Nodup :=
  List.nodup_range.filter _

/-- The withdrawal of an open order (R107). -/
theorem withdrawOrder_eq (s : State) (number : Nat) (o : Order) (order : s.order number = some o) :
    ∃ (tasks : List Nat) (choices : Nat), tasks.Perm (s.tasksOf number) ∧
      let w := tasks.foldl Withdrawal.task { state := { s.markWithdrawn number with choices } }
      s.withdrawOrder number = { w with state := match o.lane with
        | none => w.state.removeOrder number
        | some _ => w.state.drainTest number } := by
  obtain ⟨perm, choices, arranged⟩ := arrange_perm (s.markWithdrawn number) (s.tasksOf number)
  refine ⟨_, choices, perm, ?_⟩
  dsimp only
  unfold State.withdrawOrder
  dsimp only
  rw [arranged, order, Option.bind_some]
  cases o.lane <;> rfl

theorem detach_keeps (s : State) (id : Nat) (t : Task) :
    (s.detach id t).orderUnit.pending = s.orderUnit.pending ∧ (s.detach id t).orderUnit.laneWait = s.orderUnit.laneWait ∧
      (s.detach id t).consolidation = s.consolidation := by
  unfold State.detach
  dsimp only
  split
  · rw [notePoint_frame]
    exact ⟨rfl, rfl, rfl⟩
  · exact ⟨rfl, rfl, rfl⟩
  · exact ⟨rfl, rfl, rfl⟩

/-! ## One task after the other -/

/-- What the withdrawal of the tasks `done` leaves: the shelves, the orders but for what they hold, the waiting groups and
orders and the lanes as they are, and of each task its kind, its order and whether it is withdrawn or ended; a task may end
if it is of `done`. -/
structure State.Withdraws (s t : State) (done : List Nat) : Prop where
  shelved : s.Shelved t
  orders : t.orderUnit.orders.map Order.fixed = s.orderUnit.orders.map Order.fixed
  pending : t.orderUnit.pending = s.orderUnit.pending
  laneWait : t.orderUnit.laneWait = s.orderUnit.laneWait
  lanes : t.consolidation.lanes = s.consolidation.lanes
  tasks : ∀ j k, t.task j = some k → ∃ k₀, s.task j = some k₀ ∧ k.kind = k₀.kind ∧ k.order = k₀.order ∧
    (k₀.withdrawn = true → k.withdrawn = true) ∧ (k₀.state ≠ .ended → k.state ≠ .ended)
  kept : ∀ j k, j ∉ done → s.task j = some k → ∃ k', t.task j = some k'

namespace State.Withdraws

theorem trans {s t u : State} {a b : List Nat} (h : s.Withdraws t a) (g : t.Withdraws u b) : s.Withdraws u (a ++ b) where
  shelved := h.shelved.trans g.shelved
  orders := g.orders.trans h.orders
  pending := g.pending.trans h.pending
  laneWait := g.laneWait.trans h.laneWait
  lanes := g.lanes.trans h.lanes
  tasks := fun j k task => by
    obtain ⟨k₁, task₁, kind₁, order₁, withdrawn₁, alive₁⟩ := g.tasks j k task
    obtain ⟨k₀, task₀, kind₀, order₀, withdrawn₀, alive₀⟩ := h.tasks j k₁ task₁
    exact ⟨k₀, task₀, kind₁.trans kind₀, order₁.trans order₀, withdrawn₁ ∘ withdrawn₀, alive₁ ∘ alive₀⟩
  kept := fun j k out task => by
    rw [List.mem_append, not_or] at out
    obtain ⟨k₁, task₁⟩ := h.kept j k out.1 task
    exact g.kept j k₁ out.2 task₁

theorem mono {s t : State} {a b : List Nat} (h : s.Withdraws t a) (sub : a ⊆ b) : s.Withdraws t b :=
  { h with kept := fun j k out => h.kept j k fun mem => out (sub mem) }

theorem of_beside {s t : State} (h : s.Beside t) : s.Withdraws t [] where
  shelved := h.shelved
  orders := by rw [h.orderUnit]
  pending := by rw [h.orderUnit]
  laneWait := by rw [h.orderUnit]
  lanes := by rw [h.consolidation]
  tasks := fun j k task => ⟨k, by rwa [State.task, h.orderUnit] at task, rfl, rfl, id, id⟩
  kept := fun j k _ task => ⟨k, by rwa [State.task, h.orderUnit]⟩

theorem refl (s : State) : s.Withdraws s [] := of_beside (.refl s)

/-- The order of a task stays withdrawn. -/
theorem order_state {s t : State} {done : List Nat} (h : s.Withdraws t done) {number : Nat}
    (withdrawn : (s.order number).map Order.state = some .withdrawn) :
    (t.order number).map Order.state = some .withdrawn := by
  obtain ⟨o, order, state⟩ := Option.map_eq_some_iff.1 withdrawn
  obtain ⟨o', order', fixed⟩ := order_of_fixed h.orders order
  rw [order', Option.map_some, ← state]
  exact congrArg (fun q => some q.state) fixed

theorem detach (s : State) (id : Nat) (t : Task) : s.Withdraws (s.detach id t) [] where
  shelved := detach_shelved s id t
  orders := (detach_undisturbed s id t).orders
  pending := (detach_keeps s id t).1
  laneWait := (detach_keeps s id t).2.1
  lanes := congrArg _ (detach_keeps s id t).2.2
  tasks := fun j k task => ⟨k, by rwa [detach_task] at task, rfl, rfl, fun h => h, fun h => h⟩
  kept := fun j k _ task => ⟨k, by rwa [detach_task]⟩

theorem releaseClaim (s : State) (c : Nat) : s.Withdraws (s.releaseClaim c) [] := by
  obtain ⟨frame, _⟩ := releaseClaim_offerFrame s c
  have released := releaseClaim_spec s c
  have freed := releaseClaim_freed s c
  obtain ⟨power, outbox, carousels, pool, eq⟩ := frame.frame
  exact {
    shelved := ⟨congrArg _ freed.offered.bays, freed.profiles, released.articles, released.balances, released.transit,
      by rw [released.audit], freed.target⟩
    orders := by rw [eq]
    pending := by rw [eq]
    laneWait := by rw [eq]
    lanes := by rw [eq]
    tasks := fun j k task => by
      rcases frame.tasks j with same | started
      · exact ⟨k, same ▸ task, rfl, rfl, id, id⟩
      · obtain ⟨k₀, task₀, rfl⟩ := Option.map_eq_some_iff.1 (started ▸ task)
        exact ⟨k₀, task₀, rfl, rfl, id, fun _ => nofun⟩
    kept := fun j k _ task => by
      obtain ⟨st, task⟩ := freed.offered.tasks j k task
      exact ⟨_, task⟩ }

/-- The end of task `id` with what surrounds it. -/
theorem endTask {s p v : State} {id : Nat} {t : Task} (before : s.Withdraws p []) (task : s.task id = some t)
    (pick : t.kind = .pick) (withdrawn : (s.order t.order).map Order.state = some .withdrawn)
    (after : (p.endTask id).Beside v) : s.Withdraws v [id] ∧ v.task id = none := by
  obtain ⟨k, found⟩ := before.kept id t List.not_mem_nil task
  obtain ⟨t', task', kind, order, _⟩ := before.tasks id k found
  obtain rfl : t = t' := Option.some.inj (task.symm.trans task')
  have gone := endTask_of_withdrawn p id k found (kind.trans pick) (order ▸ before.order_state withdrawn)
  have ended := endTask_ended p id true
  have only : p.Withdraws (p.endTask id) [id] := {
    shelved := endTask_shelved p id true k found (kind.trans pick)
    orders := by rw [gone]; rfl
    pending := by rw [gone]; rfl
    laneWait := by rw [gone]; rfl
    lanes := by rw [gone]; rfl
    tasks := fun j x at_ => by
      by_cases same : j = id
      · rw [same, ended.task] at at_
        cases at_
      · exact ⟨x, by rwa [ended.others j same] at at_, rfl, rfl, fun h => h, fun h => h⟩
    kept := fun j x out at_ => ⟨x, by rwa [ended.others j (by simpa using out)]⟩ }
  refine ⟨by simpa using (before.trans only).trans (of_beside after), ?_⟩
  rw [State.task, after.orderUnit]
  exact ended.task

/-- The mark of a task whose MOVE is sent. -/
theorem mark (s : State) (id : Nat) : s.Withdraws (s.modTask id fun x => { x with withdrawn := true }) [] where
  shelved := .orderUnit s _
  orders := rfl
  pending := rfl
  laneWait := rfl
  lanes := rfl
  tasks := fun j k task => by
    rw [State.task_modTask] at task
    split at task
    · obtain ⟨k₀, task₀, rfl⟩ := Option.map_eq_some_iff.1 task
      exact ⟨k₀, task₀, rfl, rfl, fun _ => rfl, fun h => h⟩
    · exact ⟨k, task, rfl, rfl, fun h => h, fun h => h⟩
  kept := fun j k _ task => by
    rw [State.task_modTask, task]
    split <;> exact ⟨_, rfl⟩

end State.Withdraws

/-- One task that has not ended is ended or marked (Table 5-12). -/
theorem withdrawal_withdraws (w : Withdrawal) (id : Nat) (t : Task) (task : w.state.task id = some t)
    (pick : t.kind = .pick) (withdrawn : (w.state.order t.order).map Order.state = some .withdrawn)
    (alive : t.state ≠ .ended) :
    w.state.Withdraws (w.task id).state [id] ∧ (w.task id).ended + (w.task id).marked = w.ended + w.marked + 1 ∧
      ∀ k, (w.task id).state.task id = some k → k.withdrawn = true := by
  have ends : ∀ v : State, w.task id = { state := v, ended := w.ended + 1, marked := w.marked } →
      w.state.Withdraws v [id] ∧ v.task id = none →
      w.state.Withdraws (w.task id).state [id] ∧ (w.task id).ended + (w.task id).marked = w.ended + w.marked + 1 ∧
        ∀ k, (w.task id).state.task id = some k → k.withdrawn = true := by
    intro v eq ⟨withdraws, gone⟩
    rw [eq]
    exact ⟨withdraws, by dsimp only; omega, fun k found => by rw [gone] at found; cases found⟩
  have waits : t.withdrawable = true → _ := fun waiting => ends _ (withdrawal_waiting w id t task waiting)
    (State.Withdraws.endTask (.detach w.state id t) task pick withdrawn (.refl _))
  cases state : t.state with
  | ended => exact absurd state alive
  | queued | balanceWait | powerWait | stalled => exact waits (by simp [Task.withdrawable, state])
  | presenting =>
    exact ends _ (withdrawal_presenting w id t task state)
      (State.Withdraws.endTask (.of_beside (.indicate ..)) task pick withdrawn (.presentationEnd ..))
  | moving =>
    by_cases sent : ∀ m, w.state.slot t.bay.carousel = some m → m.chosen = true
    · rw [withdrawal_marked w id t task state sent]
      refine ⟨(State.Withdraws.mark ..).mono (List.nil_subset _), by dsimp only; omega, fun k found => ?_⟩
      rw [State.task_modTask, if_pos rfl, task] at found
      cases found
      rfl
    · push Not at sent
      obtain ⟨m, slot, unsent⟩ := sent
      have before : w.state.Withdraws ((w.state.setSlot t.bay.carousel none).releaseClaim t.bay.carousel) [] :=
        (State.Withdraws.of_beside (.setSlot ..)).trans (.releaseClaim ..)
      exact ends _ (withdrawal_cancelled w id t task state m slot (by simpa using unsent))
        (before.endTask task pick withdrawn (endCancelled_beside ..))

/-- The tasks of an order, one after the other. -/
theorem withdrawals_withdraw (number : Nat) (l : List Nat) (nodup : l.Nodup) (w : Withdrawal)
    (ours : ∀ id ∈ l, ∃ t, w.state.task id = some t ∧ t.kind = .pick ∧ t.order = number)
    (withdrawn : (w.state.order number).map Order.state = some .withdrawn)
    (alive : ∀ id t, w.state.task id = some t → t.state ≠ .ended) :
    w.state.Withdraws (l.foldl Withdrawal.task w).state l ∧
      (l.foldl Withdrawal.task w).ended + (l.foldl Withdrawal.task w).marked = w.ended + w.marked + l.length ∧
      ∀ id ∈ l, ∀ k, (l.foldl Withdrawal.task w).state.task id = some k → k.withdrawn = true := by
  induction l generalizing w with
  | nil => exact ⟨.refl _, rfl, nofun⟩
  | cons id l ih =>
    obtain ⟨t, task, pick, order⟩ := ours id List.mem_cons_self
    obtain ⟨first, count, marked⟩ := withdrawal_withdraws w id t task pick (order.symm ▸ withdrawn) (alive id t task)
    obtain ⟨fresh, nodup⟩ := List.nodup_cons.1 nodup
    obtain ⟨rest, counts, marks⟩ := ih nodup (w.task id)
      (fun j mem => by
        obtain ⟨t, task, pick, order⟩ := ours j (List.mem_cons_of_mem id mem)
        obtain ⟨k, found⟩ := first.kept j t (by rw [List.mem_singleton]; rintro rfl; exact fresh mem) task
        obtain ⟨t', task', kind, order', _⟩ := first.tasks j k found
        obtain rfl : t = t' := Option.some.inj (task.symm.trans task')
        exact ⟨k, found, kind.trans pick, order'.trans order⟩)
      (first.order_state withdrawn)
      (fun j k found => by
        obtain ⟨t', task', _, _, _, lives⟩ := first.tasks j k found
        exact lives (alive j t' task'))
    refine ⟨first.trans rest, by rw [List.foldl_cons, counts, count, List.length_cons]; omega, fun j mem k found => ?_⟩
    rcases List.mem_cons.1 mem with rfl | mem
    · obtain ⟨k', found', _, _, keeps, _⟩ := rest.tasks j k found
      exact keeps (marked k' found')
    · exact marks j mem k found

end Sys2Proof.Machine
end

section
/-! ORDER-WITHDRAW as a whole (O53): the step's order, its lane's test and its follow-ups (R107, R108, R138). -/

namespace Sys2Proof.Machine

/-! ## The lane's test (R138) -/

/-- The lane of a withdrawn order with nothing in transit. -/
def Lane.drained (l : Lane) : Lane :=
  match l.state with
  | .filling | .complete | .exception => { l with state := .returning }
  | .free | .returning => l

theorem Lane.drained_spec (l : Lane) : l.drained.expected = l.expected ∧ l.drained.arrived = l.arrived ∧
    (l.drained.state = .returning ↔ l.state ≠ .free) := by
  unfold Lane.drained
  cases state : l.state <;> simp [state]

theorem entriesOf_eq_zero (s : State) (number : Nat) :
    s.entriesOf number = 0 ↔ ∀ e ∈ s.consolidation.transit, e.group.order ≠ number := by
  unfold State.entriesOf
  rw [List.length_eq_zero_iff, List.filter_eq_nil_iff]
  exact forall₂_congr fun e _ => not_congr beq_iff_eq

section DrainTest

variable {s : State} {number lane : Nat} {o : Order} (order : s.order number = some o) (at_ : o.lane = some lane)
include order at_

theorem drainTest_eq : s.drainTest number = if s.entriesOf number = 0 then s.modLane lane Lane.drained else s := by
  unfold State.drainTest
  rw [order]
  dsimp only
  rw [at_]
  rfl

theorem drainTest_lane (l : Lane) (record : s.lane lane = some l) :
    ∃ l', (s.drainTest number).lane lane = some l' ∧ l'.expected = l.expected ∧ l'.arrived = l.arrived ∧
      (l'.state = .returning ↔ l.state = .returning ∨
        (l.state ≠ .free ∧ ∀ e ∈ s.consolidation.transit, e.group.order ≠ number)) := by
  rw [drainTest_eq order at_, ← entriesOf_eq_zero]
  split
  · next empty =>
    obtain ⟨expected, arrived, state⟩ := l.drained_spec
    refine ⟨l.drained, ?_, expected, arrived, state.trans ⟨fun used => .inr ⟨used, empty⟩, ?_⟩⟩
    · show (s.consolidation.lanes.modify lane _)[lane]? = _
      rw [List.getElem?_modify_eq]
      exact congrArg _ record
    · rintro (returning | ⟨used, _⟩)
      · rw [returning]
        nofun
      · exact used
  · next left => exact ⟨l, record, rfl, rfl, ⟨.inl, fun h => h.resolve_right fun drained => left drained.2⟩⟩

end DrainTest

/-- The part once a withdrawn order has left the table or had its lane tested. -/
def State.leaves (s : State) (number : Nat) (lane : Option Nat) : State :=
  match lane with
  | none => s.removeOrder number
  | some _ => s.drainTest number

/-- Beside the order table and the lanes nothing changes. -/
theorem leaves_frame (s : State) (number : Nat) (lane : Option Nat) : ∃ (orders : List Order) (lanes : List Lane),
    s.leaves number lane = { s with
      orderUnit := { s.orderUnit with orders }, consolidation := { s.consolidation with lanes } } := by
  unfold State.leaves
  split
  · exact ⟨_, _, rfl⟩
  · unfold State.drainTest
    split
    · exact ⟨_, _, rfl⟩
    · split
      · exact ⟨_, _, rfl⟩
      · split <;> exact ⟨_, _, rfl⟩

theorem leaves_shelved (s : State) (number : Nat) (lane : Option Nat) : s.Shelved (s.leaves number lane) := by
  obtain ⟨orders, lanes, eq⟩ := leaves_frame s number lane
  rw [eq]
  exact ⟨rfl, fun _ => rfl, rfl, rfl, rfl, rfl, rfl⟩

/-! ## What the follow-ups keep of a withdrawn order -/

/-- No group of order `number` waits for stock, and each of its PICK tasks is withdrawn. -/
def State.Leaving (number : Nat) (s : State) : Prop :=
  (∀ r ∈ s.orderUnit.pending, r.order ≠ number) ∧
  ∀ id t, s.task id = some t → t.kind = .pick → t.order = number → t.withdrawn = true

theorem leaving_servicePoint {number : Nat} {s : State} (c : Nat) (h : s.Leaving number) :
    (s.servicePoint c).Leaving number := by
  obtain ⟨groups, tasks⟩ := h
  refine ⟨by rw [(State.KeepsOrders.servicePoint s c).pending]; exact groups, fun id t task pick order => ?_⟩
  cases was : s.task id with
  | none => rw [State.servicePoint_noNewTask s c id was] at task; cases task
  | some k =>
    obtain ⟨st, n, same⟩ := (s.follows_servicePoint c).tasks id k was
    obtain rfl := Option.some.inj (task.symm.trans same)
    exact tasks id k was pick order

theorem leaving_followClosed (number : Nat) : FollowClosed (fun r => r.order ≠ number) (State.Leaving number) where
  agenda := fun _ _ h => h
  choices := fun _ _ h => h
  retry := fun _ _ h => h
  queue := fun _ _ _ h => h
  point := fun _ c h => leaving_servicePoint c h
  held := fun _ _ _ h => h
  allotted := fun s o ref plan ids other _ h => by
    obtain ⟨groups, tasks⟩ := h
    refine ⟨?_, fun id t task pick order => ?_⟩
    · rw [allotted_frame]
      exact fun r mem => groups r (List.mem_of_mem_filter mem)
    · rcases allotted_task_cases s o ref plan ids id t task with new | old
      · exact absurd (new.symm.trans order) other
      · exact tasks id t old pick order

/-! ## The step -/

/-- What the withdrawal of an open order leaves before its follow-ups: `w` counts the tasks, `number` is the order's. -/
structure State.OrderWithdrawn (s : State) (number : Nat) (o : Order) (w : Withdrawal) : Prop where
  shelved : s.Shelved w.state
  count : w.ended + w.marked = (s.tasksOf number).length
  leaving : w.state.Leaving number
  laneWait : number ∉ w.state.orderUnit.laneWait
  gone : o.lane = none → w.state.order number = none
  lane : ∀ lane, o.lane = some lane → (w.state.order number).map Order.state = some .withdrawn ∧
    ∀ l, s.lane lane = some l → ∃ l', w.state.lane lane = some l' ∧
      l'.expected = l.expected ∧ l'.arrived = l.arrived ∧ (l'.state = .returning ↔ l.state = .returning ∨ (l.state ≠ .free ∧
        ∀ e ∈ s.consolidation.transit, e.group.order ≠ number))

theorem markWithdrawn_order {s : State} {number : Nat} {o : Order} (order : s.order number = some o) :
    (s.markWithdrawn number).order number = some { o with state := .withdrawn } := by
  unfold State.markWithdrawn
  dsimp only
  rw [order_modOrder]
  · exact congrArg (Option.map _) order
  · exact fun _ => rfl

theorem markWithdrawn_shelved (s : State) (number choices : Nat) :
    s.Shelved { s.markWithdrawn number with choices } := ⟨rfl, fun _ => rfl, rfl, rfl, rfl, rfl, rfl⟩

theorem withdrawOrder_withdraws (s : State) (number : Nat) (o : Order) (order : s.order number = some o)
    (pool : s.orderUnit.pool.length = 128) (alive : ∀ id t, s.task id = some t → t.state ≠ .ended) :
    s.OrderWithdrawn number o (s.withdrawOrder number) := by
  obtain ⟨tasks, choices, perm, eq⟩ := withdrawOrder_eq s number o order
  have marked : ({ s.markWithdrawn number with choices } : State).order number = some { o with state := .withdrawn } :=
    markWithdrawn_order order
  obtain ⟨withdraws, count, marks⟩ := withdrawals_withdraw number tasks (perm.nodup_iff.2 (nodup_tasksOf s number))
    { state := { s.markWithdrawn number with choices } }
    (fun id mem => by
      obtain ⟨_, t, task, pick, of, _⟩ := (mem_tasksOf s number id).1 (perm.mem_iff.1 mem)
      exact ⟨t, task, pick, of⟩)
    (by rw [marked]; rfl) alive
  obtain ⟨o', order', fixed⟩ := order_of_fixed withdraws.orders marked
  have sameLane : o'.lane = o.lane := (congrArg Order.lane fixed :)
  have sameState : o'.state = .withdrawn := (congrArg Order.state fixed :)
  rw [eq]
  generalize tasks.foldl Withdrawal.task { state := { s.markWithdrawn number with choices } } = w at *
  have leaving : w.state.Leaving number := by
    refine ⟨fun r mem => ?_, fun id t task pick of => ?_⟩
    · rw [withdraws.pending] at mem
      exact bne_iff_ne.1 (List.mem_filter (p := fun r : GroupRef => r.order != number).1 mem).2
    · obtain ⟨k, was, kind, number', stays, _⟩ := withdraws.tasks id t task
      by_cases open_ : k.withdrawn = true
      · exact stays open_
      · refine marks id (perm.mem_iff.2 ((mem_tasksOf s number id).2 ⟨?_, k, was, ?_, ?_, ?_⟩)) t task
        · exact pool ▸ task_lt s id k was
        · exact kind.symm.trans pick
        · exact number'.symm.trans of
        · simpa using open_
  have waitless : number ∉ w.state.orderUnit.laneWait := by
    rw [withdraws.laneWait]
    exact fun mem => bne_iff_ne.1 (List.mem_filter (p := fun n => n != number).1 mem).2 rfl
  have shelved := (markWithdrawn_shelved s number choices).trans withdraws.shelved
  obtain ⟨orders, lanes, frame⟩ := leaves_frame w.state number o.lane
  exact {
    shelved := shelved.trans (leaves_shelved ..)
    count := by
      rw [← perm.length_eq]
      simpa using count
    leaving := by
      show (w.state.leaves number o.lane).Leaving number
      rw [frame]
      exact leaving
    laneWait := by
      show number ∉ (w.state.leaves number o.lane).orderUnit.laneWait
      rw [frame]
      exact waitless
    gone := fun none_ => by
      rw [none_]
      exact order_removeOrder _ number
    lane := fun lane is => by
      rw [is]
      have at_ := sameLane.trans is
      refine ⟨?_, fun l record => ?_⟩
      · have kept : (w.state.drainTest number).order number = w.state.order number := by
          rw [drainTest_eq order' at_]
          split <;> rfl
        show ((w.state.drainTest number).order number).map _ = _
        rw [kept, order', Option.map_some, sameState]
      · have := drainTest_lane order' at_ l ((congrArg (·[lane]?) withdraws.lanes).trans record)
        rwa [shelved.transit] at this }

/-- Settles O53: the form of the step is `withdrawOrder_eq`, the rows of Table 5-12 are the `withdrawal_` lemmas, and what the
order leaves is `withdrawOrder_withdraws` with the follow-ups of `leaving_followClosed`. -/
theorem orderWithdraws : Obligations.OrderWithdraws := by
  refine ⟨fun s number o order => ?_, fun w id t b task pick _ c8 position withdrawn => ?_,
    fun s f number b _ q asked => ?_⟩
  · obtain ⟨tasks, choices, perm, eq⟩ := withdrawOrder_eq s number o order
    refine ⟨tasks, choices, perm.nodup_iff.2 (nodup_tasksOf s number),
      fun id => perm.mem_iff.trans (mem_tasksOf s number id), eq⟩
  · exact ⟨withdrawal_ended w id t task,
      withdrawal_ends_queued w id t b task pick c8 position withdrawn,
      withdrawal_ends_powerWait w id t b task pick c8 position withdrawn,
      withdrawal_ends_stalled w id t b task pick c8 position withdrawn,
      fun m state => withdrawal_ends_moving w id t b task pick c8 position withdrawn state m,
      withdrawal_marked w id t task,
      fun p state => withdrawal_ends_presenting w id t b task pick c8 position withdrawn state p⟩
  · have row : exec .orderWithdraw s = .next (s.serve f fun s => s.orderWithdraw number) :=
      congrArg _ (onRequest_asked asked rfl)
    refine ⟨fun absent => ?_, fun o order => ⟨fun state => ?_, fun state alive => ?_⟩⟩
    · refine row.trans (congrArg _ (serve_refused q f ?_))
      unfold State.orderWithdraw
      rw [show s.takeRequest.order number = none from absent]
    · refine row.trans (congrArg _ (serve_refused q f ?_))
      unfold State.orderWithdraw
      rw [show s.takeRequest.order number = some o from order]
      exact if_pos state
    · have h := withdrawOrder_withdraws s.takeRequest number o order b.pool alive
      have acts : s.takeRequest.orderWithdraw number = ((s.takeRequest.withdrawOrder number).state,
          .done ([countByte (s.takeRequest.withdrawOrder number).ended,
            countByte (s.takeRequest.withdrawOrder number).marked] ++ optBytes 1 o.lane ++ [countByte (s.consolidation.transit.filter fun e => e.group.order == number).length])) := by
        unfold State.orderWithdraw
        rw [show s.takeRequest.order number = some o from order]
        dsimp only
        rw [if_neg state]
        unfold State.entriesOf
        rw [h.shelved.transit]
        rfl
      generalize s.takeRequest.withdrawOrder number = w at h acts
      have follows := w.state.settle_follows
      have shelved := ((State.Shelved.takeRequest s).trans h.shelved).trans (.settle _)
      obtain ⟨groups, tasks⟩ := (leaving_followClosed number).settle h.leaving fun _ leaving => leaving.1
      refine ⟨w.state.settle, w.ended, w.marked, row.trans (congrArg _ (serve_done f acts)), h.count, tasks, groups, ?_,
        fun none_ => order_none_of_keeps follows (h.gone none_), fun lane is => ?_, shelved.articles, shelved.balances,
        shelved.transit, fun id => ⟨shelved.count id, shelved.holds id⟩, shelved.target⟩
      · rw [follows.laneWait]
        exact h.laneWait
      · obtain ⟨withdrawn, record⟩ := h.lane lane is
        refine ⟨?_, ?_⟩
        · obtain ⟨o', order', state'⟩ := Option.map_eq_some_iff.1 withdrawn
          obtain ⟨o'', order'', fixed⟩ := order_of_fixed follows.orders order'
          rw [order'', Option.map_some, ← state']
          exact congrArg (fun q => some q.state) fixed
        · have lanes : w.state.settle.lane lane = w.state.lane lane := congrArg (·[lane]?) follows.lanes
          rw [lanes]
          exact record

end Sys2Proof.Machine
end
section
/-! One entry removed from the transit list and one lane changed, as a deadline, an arrival and a LANE-RELEASE make them
(R130, R137). -/

namespace Sys2Proof.Machine

/-! ## Lanes -/

theorem lane_modLane (s : State) (n m : Nat) (f : Lane → Lane) :
    (s.modLane n f).lane m = if n = m then (s.lane m).map f else s.lane m := by
  show (s.consolidation.lanes.modify n f)[m]? = _
  rw [List.getElem?_modify]
  split
  · rfl
  · exact Option.map_id'

theorem lane_modLane_same {s : State} {n : Nat} {l : Lane} (record : s.lane n = some l) (f : Lane → Lane) :
    (s.modLane n f).lane n = some (f l) := by
  rw [lane_modLane, if_pos rfl, record, Option.map_some]

theorem lane_modLane_other (s : State) {n m : Nat} (other : m ≠ n) (f : Lane → Lane) : (s.modLane n f).lane m = s.lane m :=
  (lane_modLane ..).trans (if_neg other.symm)

/-- The drain test changes lanes alone (R137). -/
theorem drainTest_frame (s : State) (number : Nat) : ∃ lanes : List Lane,
    s.drainTest number = { s with consolidation := { s.consolidation with lanes } } := by
  unfold State.drainTest
  split
  · exact ⟨_, rfl⟩
  · split
    · exact ⟨_, rfl⟩
    · split <;> exact ⟨_, rfl⟩

/-! ## One entry removed -/

/-- The part with the transit list `rest` once entries are reported freed (R130). -/
def State.freedTo (s : State) (rest : List TransitEntry) : State :=
  { s with
    consolidation := { s.consolidation with transit := rest }
    agenda := { s.agenda with freed := true } }

/-- The entry with a serial of its own is the one removed. -/
theorem removeEntries_serial {s : State} {a b : List TransitEntry} {e : TransitEntry}
    (transit : s.consolidation.transit = a ++ e :: b) (alone : ∀ x ∈ a ++ b, x.serial ≠ e.serial) :
    s.removeEntries (fun x => x.serial == e.serial) = s.freedTo (a ++ b) := by
  have rest : (a ++ b).filter (fun x => !(x.serial == e.serial)) = a ++ b :=
    List.filter_eq_self.2 fun x mem => by simpa using alone x mem
  have found : (a ++ e :: b).any (fun x => x.serial == e.serial) = true :=
    List.any_eq_true.2 ⟨e, by simp, beq_self_eq_true _⟩
  have kept : (a ++ e :: b).filter (fun x => !(x.serial == e.serial)) = a ++ b := by
    rw [← rest, List.filter_append, List.filter_append, List.filter_cons_of_neg (by simp)]
  rw [removeEntries_eq, transit, found, kept, Bool.or_true]
  rfl

end Sys2Proof.Machine
end

section
/-! The deadline of a transit entry (O25): the tyre is lost and its need goes back to the group, or the lane of a withdrawn
order is tested (R104, R136, R137). -/

namespace Sys2Proof.Machine

/-- Need given back to a group that is not pending is a retry event (R104). -/
theorem returnNeed_retry (s : State) (r : GroupRef) (n : Nat) (o : Order) (g : Group) (order : s.order r.order = some o)
    (live : o.state ≠ .withdrawn) (group : s.group r = some g) (pos : 0 < n) (new : r ∉ s.orderUnit.pending) :
    (s.returnNeed r n).orderUnit.retry = .all := by
  have raised : (s.modGroup r fun g => { g with need := g.need + n }).group r = some { g with need := g.need + n } := by
    rw [group_modGroup, group]
    · rfl
    · exact fun _ => rfl
  have joins : ¬(g.need + n = 0 ∨ s.orderUnit.pending.contains r = true) := by
    rw [List.contains_iff_mem]
    exact fun h => h.elim (by omega) new
  unfold State.returnNeed
  rw [order]
  dsimp only
  rw [if_neg live, raised]
  dsimp only
  split
  · next stays => exact (joins stays).elim
  · exact noteRetry_all _

/-- The part with the transit list `rest` once `e` is lost: TYRE-LOST is sent and the group has picked one less (R136). -/
def State.lostTo (s : State) (e : TransitEntry) (rest : List TransitEntry) : State :=
  ({ s.freedTo rest with link := (s.notify (.tyreLost e)).link } : State).modGroup e.group fun g =>
    { g with picked := g.picked - 1 }

section Deadline

variable {s : State} {n : Nat}

theorem deadline_none (empty : ∀ e ∈ s.consolidation.transit, e.place ≠ n) : s.deadline n = s := by
  unfold State.deadline
  rw [List.find?_eq_none.2 fun e mem => by simpa using empty e mem]

variable {a b : List TransitEntry} {e : TransitEntry} {o : Order} (transit : s.consolidation.transit = a ++ e :: b)
  (place : e.place = n) (first : ∀ x ∈ a, x.place ≠ n) (alone : ∀ x ∈ a ++ b, x.serial ≠ e.serial)
  (order : s.order e.group.order = some o)
include transit place first alone order

theorem deadline_eq : s.deadline n =
    if o.state = .withdrawn then (s.freedTo (a ++ b)).drainTest e.group.order
    else (((s.freedTo (a ++ b)).notify (.tyreLost e)).modGroup e.group fun g => { g with picked := g.picked - 1 }).returnNeed
      e.group 1 := by
  unfold State.deadline
  rw [transit, find_split _ a b e (fun x mem => by simpa using first x mem) (by simpa using place)]
  dsimp only
  rw [removeEntries_serial transit alone, show (s.freedTo (a ++ b)).order e.group.order = some o from order]

theorem deadline_withdrawn (withdrawn : o.state = .withdrawn) :
    s.deadline n = (s.freedTo (a ++ b)).drainTest e.group.order :=
  (deadline_eq transit place first alone order).trans (if_pos withdrawn)

theorem deadline_lost (live : o.state ≠ .withdrawn) : s.deadline n = (s.lostTo e (a ++ b)).returnNeed e.group 1 := by
  rw [deadline_eq transit place first alone order, if_neg live, notify_eq s (s.freedTo (a ++ b)) _ rfl]
  rfl

theorem deadline_withdrawn_frame (withdrawn : o.state = .withdrawn) : ∃ lanes : List Lane,
    s.deadline n = { s.freedTo (a ++ b) with consolidation := { (s.freedTo (a ++ b)).consolidation with lanes } } := by
  rw [deadline_withdrawn transit place first alone order withdrawn]
  exact drainTest_frame ..

theorem deadline_lost_frame (live : o.state ≠ .withdrawn) : ∃ unit : OrderUnit,
    s.deadline n = { s.freedTo (a ++ b) with link := (s.notify (.tyreLost e)).link, orderUnit := unit } ∧
      unit.pool = s.orderUnit.pool := by
  rw [deadline_lost transit place first alone order live]
  exact returnNeed_ended (s.lostTo e (a ++ b)) e.group 1

/-- What a deadline can change (R136). -/
theorem deadline_frame : ∃ (link : LinkPort) (unit : OrderUnit) (lanes : List Lane),
    s.deadline n = { s.freedTo (a ++ b) with
      link, orderUnit := unit, consolidation := { (s.freedTo (a ++ b)).consolidation with lanes } } ∧
    unit.pool = s.orderUnit.pool := by
  by_cases withdrawn : o.state = .withdrawn
  · obtain ⟨lanes, frame⟩ := deadline_withdrawn_frame transit place first alone order withdrawn
    exact ⟨_, _, lanes, frame, rfl⟩
  · obtain ⟨unit, frame, pool⟩ := deadline_lost_frame transit place first alone order withdrawn
    exact ⟨_, unit, _, frame, pool⟩

/-- The group's tyre is needed again (R104, R136). -/
theorem deadline_group (live : o.state ≠ .withdrawn) (g : Group) (group : s.group e.group = some g) :
    (s.deadline n).group e.group = some { g with picked := g.picked - 1, need := g.need + 1 } ∧
      e.group ∈ (s.deadline n).orderUnit.pending ∧
      (∀ x ∈ s.orderUnit.pending, x ∈ (s.deadline n).orderUnit.pending) ∧
      (e.group ∉ s.orderUnit.pending → (s.deadline n).orderUnit.retry = .all) := by
  rw [deadline_lost transit place first alone order live]
  have less : (s.lostTo e (a ++ b)).group e.group = some { g with picked := g.picked - 1 } := by
    unfold State.lostTo
    rw [group_modGroup]
    · exact congrArg (Option.map _) group
    · exact fun _ => rfl
  obtain ⟨o', order', same⟩ : ∃ o', (s.lostTo e (a ++ b)).order e.group.order = some o' ∧ o'.state = o.state :=
    order_modGroup _ _ _ o order
  have live' : o'.state ≠ .withdrawn := same ▸ live
  obtain ⟨need, listed⟩ := returnNeed_group _ e.group 1 o' _ order' live' less
  exact ⟨need, listed Nat.one_pos, fun x mem => returnNeed_pending _ _ x 1 mem,
    returnNeed_retry _ e.group 1 o' _ order' live' less Nat.one_pos⟩

/-- The lane of a withdrawn order is tested once the entry is gone (R136, R137). -/
theorem deadline_lane (withdrawn : o.state = .withdrawn) (lane : Nat) (at_ : o.lane = some lane) (l : Lane)
    (record : s.lane lane = some l) : ∃ l', (s.deadline n).lane lane = some l' ∧ l'.arrived = l.arrived ∧
      l'.expected = l.expected ∧ (l'.state = .returning ↔ l.state = .returning ∨
        ((∀ x ∈ a ++ b, x.group.order ≠ e.group.order) ∧ l.state ≠ .free)) := by
  rw [deadline_withdrawn transit place first alone order withdrawn]
  have order' : (s.freedTo (a ++ b)).order e.group.order = some o := order
  obtain ⟨l', tested, expected, arrived, state⟩ := drainTest_lane order' at_ l record
  exact ⟨l', tested, arrived, expected, state.trans (or_congr_right and_comm)⟩

end Deadline

/-- Settles O25: the row takes the deadline and its follow-ups, and the two kinds of order are the two branches of
`deadline_eq`. -/
theorem transitDeadline : Obligations.TransitDeadline := by
  intro s n _ _ q n64
  have row : exec (.transitDeadlineExpiry n) s = .next (s.deadline n).settle := if_pos n64
  refine ⟨fun empty => by rw [row, deadline_none empty, State.settle_of_quiet s q],
    fun a e b o transit place first alone order => ?_⟩
  dsimp only
  obtain ⟨link, unit, lanes, frame, pool⟩ := deadline_frame transit place first alone order
  have rest : (s.deadline n).consolidation.transit = a ++ b := by rw [frame]; rfl
  refine ⟨row, rest, by rw [frame]; rfl, (s.deadline n).settle_follows.transit.trans rest, by rw [frame]; rfl,
    by rw [frame]; rfl, by rw [frame]; rfl, by rw [frame]; rfl, by rw [frame]; rfl, by rw [frame]; rfl, by rw [frame]; rfl,
    by rw [frame]; exact pool, fun live => ?_, fun withdrawn => ?_⟩
  · obtain ⟨unit, lost, _⟩ := deadline_lost_frame transit place first alone order live
    exact ⟨by rw [lost], by rw [lost]; rfl, deadline_group transit place first alone order live⟩
  · obtain ⟨lanes, drained⟩ := deadline_withdrawn_frame transit place first alone order withdrawn
    exact ⟨by rw [drained]; rfl, by rw [drained]; rfl, deadline_lane transit place first alone order withdrawn⟩

end Sys2Proof.Machine
end

section
/-! A TAG-READ at a lane (O28): a matched arrival with its completion test or drain test, and a mis-sort (R133 to R135, R137). -/

namespace Sys2Proof.Machine

/-! ## The completion test (R135) -/

/-- A FILLING lane at its expected count. -/
def Lane.completed (l : Lane) : Lane :=
  if l.state = .filling then { l with state := .complete } else l

theorem Lane.completed_eq (l : Lane) :
    l.completed = { l with state := if l.state = .filling then .complete else l.state } := by
  unfold Lane.completed
  split <;> rfl

/-- The part once order `number` is STAGED at lane `n`. -/
def State.staged (s : State) (n number : Nat) : State :=
  (s.modOrder number fun o => { o with state := .staged }).modLane n Lane.completed

theorem staged_order {s : State} {number : Nat} {o : Order} (order : s.order number = some o) (n : Nat) :
    (s.staged n number).order number = some { o with state := .staged } := by
  show (s.modOrder number fun o => { o with state := .staged }).order number = _
  rw [order_modOrder, order]
  · rfl
  · exact fun _ => rfl

section Completion

variable {s : State} {n number : Nat} {l : Lane} {o : Order} (record : s.lane n = some l) (order : s.order number = some o)
include record order

theorem completionTest_short (short : l.arrived ≠ l.expected) : s.completionTest n number = s := by
  unfold State.completionTest
  rw [record, order]
  exact if_neg short

theorem completionTest_full (full : l.arrived = l.expected) :
    s.completionTest n number = (s.staged n number).notify (.orderStaged number n l.arrived o.exception) := by
  unfold State.completionTest
  rw [record, order]
  exact if_pos full

end Completion

/-! ## A matched arrival (R133) -/

/-- A lane that takes arrivals (R133). -/
def Lane.takes (l : Lane) : Prop :=
  l.state = .filling ∨ l.state = .complete ∨ l.state = .exception

/-- The lane after one more tyre has arrived. -/
def Lane.withArrival (l : Lane) : Lane :=
  { l with arrived := l.arrived + 1 }

/-- The part after one tyre has arrived at lane `n`, with the transit list `rest`. -/
def State.tookIn (s : State) (n : Nat) (rest : List TransitEntry) : State :=
  (s.freedTo rest).modLane n Lane.withArrival

theorem tookIn_lane {s : State} {n : Nat} {l : Lane} (record : s.lane n = some l) (rest : List TransitEntry) :
    (s.tookIn n rest).lane n = some l.withArrival :=
  lane_modLane_same (s := s.freedTo rest) record _

section Matched

variable {s : State} {n : Nat} {l : Lane} {x : Tally} {a b : List TransitEntry} {e : TransitEntry} {number : Nat} {o : Order}
  (record : s.lane n = some l) (takes : l.takes) (transit : s.consolidation.transit = a ++ e :: b) (lane : e.lane = n)
  (tyre : e.tyre = { article := x.article, batch := x.batch })
  (oldest : ∀ z ∈ a, ¬(z.lane = n ∧ z.tyre = { article := x.article, batch := x.batch }))
  (alone : ∀ z ∈ a ++ b, z.serial ≠ e.serial) (holds : l.order = some number) (order : s.order number = some o)
include record takes transit lane tyre oldest alone holds order

theorem arrival_matched : s.arrival n [x] =
    if o.state = .withdrawn then (s.tookIn n (a ++ b)).drainTest number else (s.tookIn n (a ++ b)).completionTest n number := by
  have found : s.qualifying n (singleTally [x]) = some e := by
    unfold State.qualifying singleTally
    dsimp only
    rw [transit]
    exact find_split _ a b e (fun z mem => by simpa using oldest z mem) (by simp [lane, tyre])
  have matched : s.arrival n [x] = s.matchedArrival n l e := by
    unfold State.arrival
    dsimp only
    rw [record, found]
    rcases takes with state | state | state <;> simp only [state]
  rw [matched]
  unfold State.matchedArrival
  rw [removeEntries_serial transit alone, holds]
  dsimp only
  rw [show ((s.freedTo (a ++ b)).modLane n fun l => { l with arrived := l.arrived + 1 }).order number = some o from order]
  rfl

theorem arrival_short (live : o.state ≠ .withdrawn) (short : l.arrived + 1 ≠ l.expected) :
    s.arrival n [x] = s.tookIn n (a ++ b) := by
  rw [arrival_matched record takes transit lane tyre oldest alone holds order, if_neg live]
  exact completionTest_short (s := s.tookIn n (a ++ b)) (l := l.withArrival) (tookIn_lane record _) order short

theorem arrival_full (live : o.state ≠ .withdrawn) (full : l.arrived + 1 = l.expected) : s.arrival n [x] =
    ((s.tookIn n (a ++ b)).staged n number).notify (.orderStaged number n (l.arrived + 1) o.exception) := by
  rw [arrival_matched record takes transit lane tyre oldest alone holds order, if_neg live]
  exact completionTest_full (s := s.tookIn n (a ++ b)) (l := l.withArrival) (tookIn_lane record _) order full

/-- What an arrival for an order that is not WITHDRAWN can change. -/
theorem arrival_frame (live : o.state ≠ .withdrawn) : ∃ (orders : List Order) (lanes : List Lane) (link : LinkPort),
    s.arrival n [x] = { s.freedTo (a ++ b) with
      link, orderUnit := { s.orderUnit with orders }, consolidation := { (s.freedTo (a ++ b)).consolidation with lanes } } := by
  by_cases full : l.arrived + 1 = l.expected
  · rw [arrival_full record takes transit lane tyre oldest alone holds order live full, notify_frame]
    exact ⟨_, _, _, rfl⟩
  · rw [arrival_short record takes transit lane tyre oldest alone holds order live full]
    exact ⟨_, _, _, rfl⟩

theorem arrival_withdrawn (withdrawn : o.state = .withdrawn) (at_ : o.lane = some n) : s.arrival n [x] =
    if ∀ z ∈ a ++ b, z.group.order ≠ number then (s.tookIn n (a ++ b)).modLane n Lane.drained else s.tookIn n (a ++ b) := by
  rw [arrival_matched record takes transit lane tyre oldest alone holds order, if_pos withdrawn,
    drainTest_eq (s := s.tookIn n (a ++ b)) order at_]
  exact if_congr (entriesOf_eq_zero ..) rfl rfl

end Matched

/-- A lane that takes arrivals enters RETURN when it is drained (R137). -/
theorem Lane.takes.drained {l : Lane} (takes : l.takes) : l.drained = { l with state := .returning } := by
  unfold Lane.drained
  rcases takes with state | state | state <;> rw [state]

/-! ## A mis-sort (R134) -/

section MisSort

variable {s : State} {n : Nat} {l : Lane}

/-- A read that the lane does not take or no entry matches is a mis-sort. -/
theorem arrival_unmatched (tallies : List Tally) (record : s.lane n = some l)
    (unmatched : l.state = .free ∨ l.state = .returning ∨ ∀ z, tallies = [z] → ∀ e ∈ s.consolidation.transit,
      ¬(e.lane = n ∧ e.tyre = { article := z.article, batch := z.batch })) :
    s.arrival n tallies = s.misSort n l (singleTally tallies) := by
  unfold State.arrival
  dsimp only
  rw [record]
  dsimp only
  rcases unmatched with state | state | none_
  · rw [state]
  · rw [state]
  · have nothing : s.qualifying n (singleTally tallies) = none := by
      match tallies with
      | [] | _ :: _ :: _ => rfl
      | [z] => exact List.find?_eq_none.2 fun e mem => by simpa using none_ z rfl e mem
    rw [nothing]
    cases l.state <;> rfl

/-- The part once lane `n` is in EXCEPTION, with the flag of the order it holds. -/
def State.excepted (s : State) (n : Nat) (holds : Option Nat) : State :=
  match holds with
  | some number => (s.modLane n fun l => { l with state := .exception }).modOrder number fun o => { o with exception := true }
  | none => s.modLane n fun l => { l with state := .exception }

/-- Beside the order table and the lane's record nothing changes. -/
theorem excepted_frame (s : State) (n : Nat) (holds : Option Nat) : ∃ orders : List Order, s.excepted n holds =
    { s.modLane n fun l => { l with state := .exception } with orderUnit := { s.orderUnit with orders } } := by
  cases holds <;> exact ⟨_, rfl⟩

theorem excepted_order {s : State} {number : Nat} {o : Order} (order : s.order number = some o) (n : Nat) :
    (s.excepted n (some number)).order number = some { o with exception := true } := by
  unfold State.excepted
  rw [order_modOrder]
  · exact congrArg (Option.map _) order
  · exact fun _ => rfl

theorem misSort_marks (y : Option Tyre) (used : l.state = .filling ∨ l.state = .complete) :
    s.misSort n l y = (s.excepted n l.order).notify (.misSort n l.order .exception y) := by
  unfold State.misSort State.excepted
  rcases used with state | state
  · rewrite [state]
    cases l.order <;> rfl
  · rewrite [state]
    cases l.order <;> rfl

theorem misSort_reports (y : Option Tyre) (other : l.state = .free ∨ l.state = .exception ∨ l.state = .returning) :
    s.misSort n l y = s.notify (.misSort n l.order l.state y) := by
  unfold State.misSort
  rcases other with state | state | state <;> rw [state]

end MisSort

/-! ## The statement -/

/-- Settles O28: a matched arrival is counted, then the completion test or the drain test is made (`arrival_matched`); any
other read is a mis-sort (`arrival_unmatched`). -/
theorem laneArrival : Obligations.LaneArrival := by
  intro s n l x record
  dsimp only
  refine ⟨fun a e b number o takes transit lane tyre oldest alone holds order live => ?_,
    fun a e b number o takes transit lane tyre oldest alone holds order withdrawn at_ => ?_, fun tallies unmatched => ?_⟩
  · obtain ⟨orders, lanes, link, frame⟩ := arrival_frame record takes transit lane tyre oldest alone holds order live
    refine ⟨by rw [frame]; rfl, by rw [frame]; rfl, by rw [frame], by rw [frame]; rfl, by rw [frame]; rfl, by rw [frame]; rfl,
      fun short => ?_, fun full => ?_⟩
    · rw [arrival_short record takes transit lane tyre oldest alone holds order live short]
      exact ⟨tookIn_lane record _, rfl, rfl⟩
    · rw [arrival_full record takes transit lane tyre oldest alone holds order live full,
        notify_eq s ((s.tookIn n (a ++ b)).staged n number) _ rfl]
      refine ⟨?_, ?_, rfl⟩
      · exact (lane_modLane_same (s := (s.tookIn n (a ++ b)).modOrder number _) (tookIn_lane record _) _).trans
          (congrArg some (Lane.completed_eq _))
      · exact congrArg (Option.map Order.state) (staged_order (s := s.tookIn n (a ++ b)) order n)
  · rw [arrival_withdrawn record takes transit lane tyre oldest alone holds order withdrawn at_]
    have took := tookIn_lane record (a ++ b)
    have others : ∀ m, m ≠ n → (s.tookIn n (a ++ b)).lane m = s.lane m := fun m other => lane_modLane_other _ other _
    split
    · next drained =>
      refine ⟨rfl, rfl, rfl, rfl, rfl, rfl, rfl, fun m other => (lane_modLane_other _ other _).trans (others m other),
        fun _ => ?_, fun ⟨z, mem, left⟩ => (drained z mem left).elim⟩
      rw [lane_modLane_same took, Lane.takes.drained (l := l.withArrival) takes]
      rfl
    · next left =>
      exact ⟨rfl, rfl, rfl, rfl, rfl, rfl, rfl, others, fun drained => (left drained).elim, fun _ => took⟩
  · rw [arrival_unmatched tallies record unmatched]
    by_cases used : l.state = .filling ∨ l.state = .complete
    · obtain ⟨orders, frame⟩ := excepted_frame s n l.order
      rw [misSort_marks _ used, notify_eq s _ _ (by rw [frame]; rfl)]
      refine ⟨by rw [frame]; rfl, by rw [frame], by rw [frame]; rfl, by rw [frame]; rfl, fun _ => ⟨?_, rfl, ?_⟩,
        fun other => ?_⟩
      · rw [frame]
        exact lane_modLane_same record _
      · intro number o holds order
        rw [holds]
        exact excepted_order order n
      · rcases used with state | state <;> simp [state] at other
    · have other : l.state = .free ∨ l.state = .exception ∨ l.state = .returning := by
        cases state : l.state <;> simp [state] at used ⊢
      rw [misSort_reports _ other, notify_frame]
      exact ⟨rfl, rfl, rfl, rfl, fun h => (used h).elim, fun _ => rfl⟩

end Sys2Proof.Machine
end

section
/-! LANE-RELEASE (O54): the tests, the order withdrawn and its entries removed, the lane freed and offered (R96, R138). -/

namespace Sys2Proof.Machine

/-! ## The tests -/

/-- An order that is withdrawn and has nothing left in transit. -/
def State.drainedOf (s : State) (number : Nat) (o : Order) : Prop :=
  o.state = .withdrawn ∧ ∀ e ∈ s.consolidation.transit, e.group.order ≠ number

/-- A lane that a LANE-RELEASE frees, its order being `o`. -/
def Lane.releases (l : Lane) (s : State) (number : Nat) (o : Order) : Prop :=
  l.state = .complete ∨ l.state = .exception ∨ l.state = .returning ∨ (l.state = .filling ∧ s.drainedOf number o)

section Tests

variable {s : State} {n : Nat} {l : Lane} (record : s.lane n = some l)

theorem laneRelease_absent (absent : s.lane n = none) : s.laneRelease n = (s, .refused .badValue) := by
  unfold State.laneRelease
  rw [absent]

theorem releasable_filling (state : l.state = .filling) {number : Nat} {o : Order} (holds : l.order = some number)
    (order : s.order number = some o) : s.releasable l = true ↔ s.drainedOf number o := by
  unfold State.releasable State.drainedOf
  rw [state]
  dsimp only
  rw [holds]
  dsimp only
  rw [order, ← entriesOf_eq_zero]
  exact Bool.and_eq_true_iff.trans (and_congr decide_eq_true_iff decide_eq_true_iff)

theorem releasable_of_releases {number : Nat} {o : Order} (holds : l.order = some number)
    (order : s.order number = some o) (releases : l.releases s number o) : s.releasable l = true := by
  rcases releases with state | state | state | ⟨state, drained⟩
  · unfold State.releasable; rw [state]
  · unfold State.releasable; rw [state]
  · unfold State.releasable; rw [state]
  · exact (releasable_filling state holds order).2 drained

include record

theorem laneRelease_refused (refused : s.releasable l = false) : s.laneRelease n = (s, .refused .wrongState) := by
  unfold State.laneRelease
  rw [record]
  dsimp only
  rw [refused]
  rfl

theorem laneRelease_accepted {number : Nat} (holds : l.order = some number) (accepted : s.releasable l = true) :
    s.laneRelease n = s.releaseLane n l number := by
  unfold State.laneRelease
  rw [record]
  dsimp only
  rw [accepted, holds]
  rfl

end Tests

/-! ## The withdrawal, whatever states its tasks are in (R107) -/

/-- One task of a withdrawn order: `withdrawal_withdraws` with the record of an ended task left as it is. -/
theorem withdrawal_step (w : Withdrawal) (id number : Nat) (withdrawn : (w.state.order number).map Order.state = some .withdrawn)
    (ours : ∀ t, w.state.task id = some t → t.kind = .pick ∧ t.order = number) : w.state.Withdraws (w.task id).state [id] := by
  have unchanged : w.task id = w → w.state.Withdraws (w.task id).state [id] := fun same => by
    rw [same]
    exact (State.Withdraws.refl _).mono (List.nil_subset _)
  cases task : w.state.task id with
  | none => exact unchanged (by unfold Withdrawal.task; dsimp only; rw [task])
  | some t =>
    obtain ⟨pick, order⟩ := ours t task
    by_cases ended : t.state = .ended
    · exact unchanged (withdrawal_ended w id t task ended)
    · exact (withdrawal_withdraws w id t task pick (order.symm ▸ withdrawn) ended).1

theorem withdrawal_steps (number : Nat) (l : List Nat) (w : Withdrawal)
    (withdrawn : (w.state.order number).map Order.state = some .withdrawn)
    (ours : ∀ id ∈ l, ∀ t, w.state.task id = some t → t.kind = .pick ∧ t.order = number) :
    w.state.Withdraws (l.foldl Withdrawal.task w).state l := by
  induction l generalizing w with
  | nil => exact .refl _
  | cons id l ih =>
    have first := withdrawal_step w id number withdrawn (ours id List.mem_cons_self)
    refine first.trans (ih (w.task id) (first.order_state withdrawn) fun j mem t task => ?_)
    obtain ⟨t', task', kind, order, _⟩ := first.tasks j t task
    obtain ⟨pick, ours⟩ := ours j (List.mem_cons_of_mem id mem) t' task'
    exact ⟨kind.trans pick, order.trans ours⟩

/-- What steps 1 and 2 of a release leave of the part: beside lane `n` the lanes stand, and no order joins an empty lane wait
list. -/
structure State.BesideLane (s t : State) (n : Nat) : Prop where
  shelved : s.Shelved t
  waitless : s.orderUnit.laneWait = [] → t.orderUnit.laneWait = []
  others : ∀ m, m ≠ n → t.lane m = s.lane m
  stands : ∀ l, s.lane n = some l → ∃ l', t.lane n = some l'

theorem State.BesideLane.of_lanes {s t : State} (n : Nat) (shelved : s.Shelved t)
    (laneWait : s.orderUnit.laneWait = [] → t.orderUnit.laneWait = [])
    (lanes : t.consolidation.lanes = s.consolidation.lanes) : s.BesideLane t n where
  shelved
  waitless := laneWait
  others := fun m _ => congrArg (·[m]?) lanes
  stands := fun l record => ⟨l, (congrArg (·[n]?) lanes).trans record⟩

theorem State.BesideLane.trans {s t u : State} {n : Nat} (h : s.BesideLane t n) (g : t.BesideLane u n) : s.BesideLane u n where
  shelved := h.shelved.trans g.shelved
  waitless := g.waitless ∘ h.waitless
  others := fun m other => (g.others m other).trans (h.others m other)
  stands := fun l record => by
    obtain ⟨l', record'⟩ := h.stands l record
    exact g.stands l' record'

theorem State.BesideLane.modLane (s : State) (n : Nat) (f : Lane → Lane) : s.BesideLane (s.modLane n f) n where
  shelved := .lanes s _
  waitless := id
  others := fun _ other => lane_modLane_other s other f
  stands := fun _ record => ⟨_, lane_modLane_same record f⟩

theorem withdrawOrder_besideLane (s : State) (number n : Nat) (o : Order) (order : s.order number = some o)
    (at_ : o.lane = some n) : s.BesideLane (s.withdrawOrder number).state n := by
  obtain ⟨tasks, choices, perm, eq⟩ := withdrawOrder_eq s number o order
  have marked : ({ s.markWithdrawn number with choices } : State).order number = some { o with state := .withdrawn } :=
    markWithdrawn_order order
  have withdraws := withdrawal_steps number tasks { state := { s.markWithdrawn number with choices } }
    (by rw [marked]; rfl)
    (fun id mem t task => by
      obtain ⟨_, t', task', pick, ours, _⟩ := (mem_tasksOf s number id).1 (perm.mem_iff.1 mem)
      obtain rfl : t' = t := Option.some.inj (task'.symm.trans task)
      exact ⟨pick, ours⟩)
  obtain ⟨o', order', fixed⟩ := order_of_fixed withdraws.orders marked
  have lane' : o'.lane = some n := (congrArg Order.lane fixed :).trans at_
  have before : s.BesideLane (tasks.foldl Withdrawal.task { state := { s.markWithdrawn number with choices } }).state n :=
    .of_lanes n ((markWithdrawn_shelved s number choices).trans withdraws.shelved)
      (fun empty => withdraws.laneWait.trans (by
        show s.orderUnit.laneWait.filter _ = []
        rw [empty]
        rfl))
      withdraws.lanes
  rw [eq, at_]
  refine before.trans ?_
  dsimp only
  rw [drainTest_eq order' lane']
  split
  · exact .modLane ..
  · exact .of_lanes n (.refl _) id rfl

/-! ## The release (R138) -/

/-- Step 1: an order that is not WITHDRAWN is withdrawn. -/
def State.withdrawnFor (s : State) (number : Nat) (o : Order) : Withdrawal :=
  if o.state = .withdrawn then { state := s } else s.withdrawOrder number

theorem withdrawnFor_besideLane (s : State) (number n : Nat) (o : Order) (order : s.order number = some o)
    (at_ : o.lane = some n) : s.BesideLane (s.withdrawnFor number o).state n := by
  unfold State.withdrawnFor
  split
  · exact .of_lanes n (.refl s) id rfl
  · exact withdrawOrder_besideLane s number n o order at_

/-- Steps 2 to 4: the order's entries go, what is reported is taken, the order goes and the lane is FREE. -/
def State.laneFreed (s : State) (number n : Nat) : State :=
  (((s.removeEntries fun e => e.group.order == number).settle).removeOrder number).freeTheLane n

theorem laneFreed_quiet (s : State) (number n : Nat) : (s.laneFreed number n).quiet := by
  have settled := (s.removeEntries fun e => e.group.order == number).settle_quiet
  unfold State.laneFreed
  generalize State.settle _ = z at settled ⊢
  exact settled

/-- Step 5 offers the lane, and the RESULT tells what steps 1 and 2 did. -/
theorem releaseLane_eq (s : State) (n : Nat) (l : Lane) (number : Nat) (o : Order) (order : s.order number = some o) :
    s.releaseLane n l number = (((s.withdrawnFor number o).state.laneFreed number n).offerLane n,
      .done (beBytes 4 number ++ [byte l.expected, byte l.arrived,
        countByte ((s.withdrawnFor number o).state.entriesOf number), countByte (s.withdrawnFor number o).ended,
        countByte (s.withdrawnFor number o).marked])) := by
  have withdrawal : (if (s.order number).map Order.state = some .withdrawn then { state := s } else s.withdrawOrder number :
      Withdrawal) = s.withdrawnFor number o := by
    rw [order, Option.map_some]
    exact if_congr Option.some_inj rfl rfl
  unfold State.releaseLane State.laneFreed
  dsimp only
  rw [withdrawal]

/-- What the freeing of a lane leaves. -/
structure State.LaneFreed (s v : State) (number n : Nat) : Prop where
  lane : ∀ l, s.lane n = some l → v.lane n = some {}
  gone : v.order number = none
  transit : v.consolidation.transit = s.consolidation.transit.filter fun e => e.group.order != number
  others : ∀ m, m ≠ n → v.lane m = s.lane m
  waitless : s.orderUnit.laneWait = [] → v.orderUnit.laneWait = []
  articles : v.articles = s.articles
  balances : v.balances = s.balances
  bays : ∀ id, (v.bay id).count = (s.bay id).count ∧ (v.bay id).holds = (s.bay id).holds

theorem laneFreed_freed (s : State) (number n : Nat) : s.LaneFreed (s.laneFreed number n) number n := by
  unfold State.laneFreed
  rw [removeEntries_eq]
  generalize emptied : ({ s with
    consolidation := { s.consolidation with transit := s.consolidation.transit.filter fun e => !(e.group.order == number) }
    agenda := { s.agenda with
      freed := s.agenda.freed || s.consolidation.transit.any fun e => e.group.order == number } } : State) = y
  have follows := y.settle_follows
  have shelved : y.Shelved y.settle := .settle y
  generalize y.settle = z at follows shelved ⊢
  have lanes : ∀ m, z.lane m = s.lane m := fun m => by
    refine (congrArg (·[m]?) follows.lanes).trans ?_
    rw [← emptied]
    rfl
  exact {
    lane := fun l record => lane_modLane_same (s := z.removeOrder number) ((lanes n).trans record) fun _ => {}
    gone := order_removeOrder z number
    transit := follows.transit.trans (by rw [← emptied]; rfl)
    others := fun m other => (lane_modLane_other _ other fun _ => {}).trans (lanes m)
    waitless := fun empty => follows.laneWait.trans (by rw [← emptied]; exact empty)
    articles := follows.articles.trans (by rw [← emptied])
    balances := follows.balances.trans (by rw [← emptied])
    bays := fun id => ⟨(shelved.count id).trans (by rw [← emptied]; rfl), (shelved.holds id).trans (by rw [← emptied]; rfl)⟩ }

/-- The freeing of a lane after what steps 1 and 2 leave beside it. -/
theorem State.LaneFreed.of_besideLane {s t v : State} {number n : Nat} (freed : t.LaneFreed v number n)
    (before : s.BesideLane t n) : s.LaneFreed v number n where
  lane := fun l record => by
    obtain ⟨l', record'⟩ := before.stands l record
    exact freed.lane l' record'
  gone := freed.gone
  transit := freed.transit.trans (by rw [before.shelved.transit])
  others := fun m other => (freed.others m other).trans (before.others m other)
  waitless := freed.waitless ∘ before.waitless
  articles := freed.articles.trans before.shelved.articles
  balances := freed.balances.trans before.shelved.balances
  bays := fun id => by
    obtain ⟨count, holds⟩ := freed.bays id
    exact ⟨count.trans (before.shelved.count id), holds.trans (before.shelved.holds id)⟩

theorem offerLane_none_wait {s : State} (empty : s.orderUnit.laneWait = []) (n : Nat) : s.offerLane n = s :=
  (offerLane_offers s n).1 empty

theorem offerLane_offers_freed (y : State) (number n : Nat) : State.Offers { y with
      orderUnit := { y.orderUnit with orders := y.orderUnit.orders.filter fun q => q.number != number }
      consolidation := { y.consolidation with lanes := y.consolidation.lanes.modify n fun _ => {} } } n
    (((y.removeOrder number).freeTheLane n).offerLane n) :=
  offerLane_offers ((y.removeOrder number).freeTheLane n) n

/-- Settles O54: the tests are those of `releasable`, an accepted release is `releaseLane_eq` with the offer of
`offerLane_offers`, and what it leaves with no one waiting is `laneFreed_freed` after `withdrawnFor_besideLane`. -/
theorem laneReleases : Obligations.LaneReleases := by
  intro s f n _ _ q asked
  have row : exec .laneRelease s = .next (s.serve f fun s => s.laneRelease n) := congrArg _ (onRequest_asked asked rfl)
  have refuses : ∀ r, s.takeRequest.laneRelease n = (s.takeRequest, .refused r) →
      exec .laneRelease s = .next (s.takeRequest.answer f (.refused r)) := fun r h =>
    row.trans (congrArg _ (serve_refused q f h))
  refine ⟨fun absent => refuses _ (laneRelease_absent absent), fun l record => ⟨fun free => ?_,
    fun number o holds order at_ => ?_⟩⟩
  · refine refuses _ (laneRelease_refused record ?_)
    unfold State.releasable
    rw [free]
  · have accepts : l.releases s number o → exec .laneRelease s = .next
        ((((s.takeRequest.withdrawnFor number o).state.laneFreed number n).offerLane n).settle.answer f
          (.done (beBytes 4 number ++ [byte l.expected, byte l.arrived,
            countByte ((s.takeRequest.withdrawnFor number o).state.entriesOf number),
            countByte (s.takeRequest.withdrawnFor number o).ended,
            countByte (s.takeRequest.withdrawnFor number o).marked]))) := fun releases => by
      refine row.trans (congrArg _ (serve_done f ?_))
      rw [laneRelease_accepted (s := s.takeRequest) record holds (releasable_of_releases holds order releases)]
      exact releaseLane_eq s.takeRequest n l number o order
    intro drained
    refine ⟨fun filling left => ?_, fun releases => ?_, fun releases waitless => ?_⟩
    · refine refuses _ (laneRelease_refused record (Bool.eq_false_iff.2 fun accepted => left ?_))
      exact (releasable_filling (s := s.takeRequest) filling holds order).1 accepted
    · intro w ours emptied y
      have steps : w.state.laneFreed number n = (y.removeOrder number).freeTheLane n := by
        unfold State.laneFreed
        rw [removeEntries_eq]
      refine ⟨(w.state.laneFreed number n).offerLane n, accepts releases, ?_⟩
      rw [steps]
      exact offerLane_offers_freed y number n
    · have before := withdrawnFor_besideLane s.takeRequest number n o order at_
      have freed := (laneFreed_freed (s.takeRequest.withdrawnFor number o).state number n).of_besideLane before
      have answered := accepts releases
      rw [offerLane_none_wait (freed.waitless waitless), State.settle_of_quiet _ (laneFreed_quiet ..)] at answered
      refine ⟨_, _, _, _, answered, ?_, fun withdrawn => ?_, freed.lane l record, freed.gone, freed.transit,
        freed.others, freed.articles, freed.balances, freed.bays⟩
      · unfold State.entriesOf
        rw [before.shelved.transit]
        rfl
      · unfold State.withdrawnFor
        rw [if_pos withdrawn]
        exact ⟨rfl, rfl⟩

end Sys2Proof.Machine
end

section
/-! AUDIT-START and AUDIT-STOP (O57): the tests of R141, the save area written, and the end or the mark of a sweep (R148). -/

namespace Sys2Proof.Machine

/-! ## AUDIT-START (R141) -/

/-- The follow-ups of a step do not depend on what was noted before them. -/
theorem follows_settle_of_agenda (s : State) (agenda : Agenda) : s.Follows ({ s with agenda } : State).settle :=
  .trans (s.keeps_agenda _ agenda) (State.settle_follows _)

/-- The part once a sweep is written in the save area and the sweep record, under the next number (R140, R141). -/
def State.sweepWritten (s : State) (c first last : Nat) (policy : SweepPolicy) (origin : SweepOrigin) : State :=
  { s with
    carousels := s.carousels.set c { s.car c with
      sweep := some { next := first, last, policy, number := (s.audit.sweepCounter + 1) % 65536 } }
    audit := { s.audit with
      sweepCounter := (s.audit.sweepCounter + 1) % 65536
      sweeps := s.audit.sweeps.set c { s.sweepRecord c with origin, stopMark := false, readAttempt := 0 } } }

theorem startSweep_eq (s : State) (c first last : Nat) (policy : SweepPolicy) (origin : SweepOrigin) :
    ∃ agenda : Agenda,
      s.startSweep c first last policy origin = { s.sweepWritten c first last policy origin with agenda } := by
  unfold State.startSweep State.sweepWritten
  dsimp only
  rw [notePoint_frame]
  unfold State.modSweepRecord State.modCar
  dsimp only
  rw [modify_eq_set_getD s.carousels _ _ {}, modify_eq_set_getD s.audit.sweeps _ _ {}]
  exact ⟨_, rfl⟩

section Start

variable (s : State) (c first last : Nat) (policy : SweepPolicy)

theorem auditStart_outside (out : 8 ≤ c) : s.auditStart c first last policy = (s, .refused .badValue) :=
  if_pos out

variable (c8 : c < 8)
include c8

theorem auditStart_inUse (runs : (s.car c).sweep ≠ none) : s.auditStart c first last policy = (s, .refused .inUse) :=
  (if_neg (not_le.2 c8)).trans (if_pos (Option.isSome_iff_ne_none.2 runs))

variable (bare : (s.car c).sweep = none)
include bare

theorem auditStart_bare : s.auditStart c first last policy =
    if ¬((s.car c).state = .ready ∨ (s.car c).state = .moving ∨ (s.car c).state = .presenting) then
      (s, .refused .wrongState)
    else if s.carriersOf c ≤ first ∨ s.carriersOf c ≤ last then (s, .refused .badValue)
    else (s.startSweep c first last policy .request,
      .done (beBytes 2 (s.startSweep c first last policy .request).audit.sweepCounter ++
        [countByte ((last + s.carriersOf c - first) % s.carriersOf c + 1)])) :=
  (if_neg (not_le.2 c8)).trans (if_neg (by simp [bare]))

end Start

/-- The carriers of a sweep from `first` to `last`, counted upwards with the wrap (R141). -/
theorem carriers_between {n first last : Nat} (hf : first < n) (hl : last < n) :
    (last + n - first) % n = if first ≤ last then last - first else n + last - first := by
  split
  · rw [show last + n - first = last - first + n by omega, Nat.add_mod_right, Nat.mod_eq_of_lt (by omega)]
  · rw [Nat.mod_eq_of_lt (by omega)]
    omega

/-! ## AUDIT-STOP (R148) -/

/-- A sweep step that moves or is presented. -/
def State.stepRuns (s : State) (c : Nat) : Prop :=
  (s.car c).inService = some .step ∧ ((s.car c).state = .moving ∨ (s.car c).state = .presenting)

theorem stopSweep_marks (s : State) (c : Nat) (runs : s.stepRuns c) : s.stopSweep c =
    ({ s with audit := { s.audit with
      sweeps := s.audit.sweeps.set c { s.sweepRecord c with stopMark := true } } }, false) := by
  unfold State.stopSweep
  rw [if_pos runs.1, if_pos runs.2]
  unfold State.modSweepRecord
  rw [modify_eq_set_getD s.audit.sweeps _ _ {}]
  rfl

/-- The part once the sweep `w` of `c` has ended stopped, a step in POWER-WAIT with it (R147, R148). -/
def State.sweepStopped (s : State) (c : Nat) (w : SweepContext) : State :=
  { s.notify (.auditDone c w.number (s.sweepRecord c).origin .stopped w.done w.mismatches) with
    carousels := s.carousels.set c { s.car c with
      sweep := none
      inService := if (s.car c).inService = some .step then none else (s.car c).inService }
    audit := { s.audit with sweeps := s.audit.sweeps.set c { s.sweepRecord c with
      stopMark := false, readAttempt := 0, readTimer := none } } }

theorem stopSweep_ends (s : State) (c : Nat) (w : SweepContext) (sweep : (s.car c).sweep = some w)
    (len : c < s.carousels.length) (idle : ¬s.stepRuns c) : ∃ (waitList : List WaitEntry) (agenda : Agenda),
    s.stopSweep c =
      ({ s.sweepStopped c w with power := { (s.sweepStopped c w).power with waitList }, agenda }, true) := by
  unfold State.stopSweep State.sweepStopped
  by_cases step : (s.car c).inService = some .step
  · rw [if_pos step, if_neg fun runs => idle ⟨step, runs⟩, if_pos step]
    dsimp only
    generalize stepless : (s.leaveWait c).modCar c (fun k => { k with inService := none }) = v
    have sweep' : (v.car c).sweep = some w := by
      rw [← stepless, State.car_modCar, if_pos ⟨rfl, len⟩]
      exact sweep
    have record : v.sweepRecord c = s.sweepRecord c := by rw [← stepless]; rfl
    rw [notePoint_frame]
    generalize (State.notePoint _ _).agenda = agenda
    rw [endSweep_some v c .stopped w sweep', notify_eq s v _ (by rw [← stepless]; rfl), record, notify_frame s, ← stepless]
    unfold State.modCar
    dsimp only
    rw [List.modify_modify_eq, modify_eq_set_getD _ _ _ {}]
    exact ⟨_, _, rfl⟩
  · rw [if_neg step, endSweep_some s c .stopped w sweep, notify_frame s, if_neg step]
    unfold State.modCar
    dsimp only
    rw [modify_eq_set_getD s.carousels _ _ {}]
    exact ⟨s.power.waitList, s.agenda, rfl⟩

theorem auditStop_outside (s : State) (c : Nat) (out : 8 ≤ c) : s.auditStop c = (s, .refused .badValue) :=
  if_pos out

theorem auditStop_bare (s : State) (c : Nat) (c8 : c < 8) (bare : (s.car c).sweep = none) :
    s.auditStop c = (s, .refused .wrongState) := by
  unfold State.auditStop
  rw [if_neg (not_le.2 c8), bare]

theorem auditStop_sweep (s : State) (c : Nat) (w : SweepContext) (c8 : c < 8) (sweep : (s.car c).sweep = some w) :
    s.auditStop c = ((s.stopSweep c).1, .done (beBytes 2 w.number ++ [flagByte (s.stopSweep c).2])) := by
  unfold State.auditStop
  rw [if_neg (not_le.2 c8), sweep]

/-- Settles O57: the tests of `auditStart` and `auditStop` in order; then `startSweep_eq`, and the two cases of a stop,
`stopSweep_marks` and `stopSweep_ends`. -/
theorem auditsStartAndStop : Obligations.AuditsStartAndStop := by
  intro s f c bounded q
  refine ⟨fun first last policy asked => ?_, fun asked => ?_⟩
  · have row : exec .auditStart s = .next (s.serve f fun s => s.auditStart c first last policy) :=
      congrArg _ (onRequest_asked asked rfl)
    intro refused n serving number
    have refuses : ∀ r, s.takeRequest.auditStart c first last policy = (s.takeRequest, .refused r) → refused r :=
      fun r h => row.trans (congrArg _ (serve_refused q f h))
    have tests := auditStart_bare s.takeRequest c first last policy
    refine ⟨fun out => refuses _ (auditStart_outside _ c first last policy out),
      fun c8 runs => refuses _ (auditStart_inUse _ c first last policy c8 runs),
      fun c8 bare away => refuses _ ((tests c8 bare).trans (if_pos away)),
      fun c8 bare serves range => refuses _ ((tests c8 bare).trans ((if_neg (not_not_intro serves)).trans (if_pos range))),
      fun c8 bare serves inFirst inLast => ?_⟩
    have range : ¬(n ≤ first ∨ n ≤ last) := by omega
    obtain ⟨agenda, started⟩ := startSweep_eq s.takeRequest c first last policy .request
    have accepted := (tests c8 bare).trans ((if_neg (not_not_intro serves)).trans (if_neg range))
    rw [started, show s.takeRequest.carriersOf c = n from rfl, carriers_between inFirst inLast] at accepted
    exact ⟨_, row.trans (congrArg _ (serve_done f accepted)),
      follows_settle_of_agenda (s.takeRequest.sweepWritten c first last policy .request) agenda⟩
  · have row : exec .auditStop s = .next (s.serve f fun s => s.auditStop c) := congrArg _ (onRequest_asked asked rfl)
    have refuses : ∀ r, s.takeRequest.auditStop c = (s.takeRequest, .refused r) →
        exec .auditStop s = .next (s.takeRequest.answer f (.refused r)) :=
      fun r h => row.trans (congrArg _ (serve_refused q f h))
    refine ⟨fun out => refuses _ (auditStop_outside _ c out), fun c8 bare => refuses _ (auditStop_bare _ c c8 bare),
      fun w c8 sweep => ?_⟩
    have len : c < s.takeRequest.carousels.length := lt_of_lt_of_eq c8 bounded.eight.1.symm
    have stops := auditStop_sweep s.takeRequest c w c8 sweep
    intro runs
    refine ⟨fun moving => ?_, fun idle => ?_⟩
    · rw [stopSweep_marks s.takeRequest c moving] at stops
      exact row.trans (congrArg _ ((serve_done f stops).trans (congrArg (State.answer · f _) (State.settle_of_quiet _ q))))
    · obtain ⟨waitList, agenda, ends⟩ := stopSweep_ends s.takeRequest c w sweep len idle
      rw [ends] at stops
      exact ⟨_, row.trans (congrArg _ (serve_done f stops)),
        .trans ((s.takeRequest.sweepStopped c w).keeps_waits _ waitList _) (follows_settle_of_agenda _ agenda)⟩

end Sys2Proof.Machine
end

section
/-! The carrier read of a sweep step (O24): the comparison of R144, the mismatches of R145, the CORRECT claim of R13 and the
step's end (R147, R60). -/

namespace Sys2Proof.Machine

/-! ## The CORRECT claim (R13) -/

/-- What a load change does once its check is made: the store's records stand but for what is promised, and no bay record
changes at all. -/
structure State.Retests (s t : State) : Prop where
  shelved : s.Shelved t
  bays : t.bays = s.bays

namespace State.Retests

theorem refl (s : State) : s.Retests s := ⟨.refl s, rfl⟩

theorem trans {s t u : State} (a : s.Retests t) (b : t.Retests u) : s.Retests u :=
  ⟨a.shelved.trans b.shelved, b.bays.trans a.bays⟩

theorem bay {s t : State} (h : s.Retests t) (id : BayId) : t.bay id = s.bay id := by
  unfold State.bay State.baysOf
  rw [h.shelved.position, h.bays]

theorem retestTask (s : State) (id : Nat) : s.Retests (s.retestTask id) := by
  refine ⟨retestTask_shelved s id, ?_⟩
  unfold State.retestTask
  split
  · split <;> rfl
  · rfl

theorem retestTasks (l : List Nat) (s : State) : s.Retests (l.foldl State.retestTask s) := by
  induction l generalizing s with
  | nil => exact refl s
  | cons id l ih => exact (retestTask s id).trans (ih _)

theorem retestWaiting (s : State) (c : Nat) : s.Retests (s.retestWaiting c) := by
  refine ⟨retestWaiting_shelved s c, ?_⟩
  have given : ∀ (u : State) id, (u.giveBackTask id).bays = u.bays := fun u id => by
    unfold State.giveBackTask
    split
    · rw [giveBack_eq]
      rfl
    · rfl
  have joined : ∀ (u : State) id st, (u.joinHead id st).bays = u.bays := fun u id st => by
    unfold State.joinHead
    split <;> rfl
  unfold State.retestWaiting
  split
  · split
    · split
      · rw [notePoint_frame]
        exact (joined _ _ _).trans (given _ _)
      · rfl
    · rfl
  · rfl

theorem offerPass (s : State) : s.Retests s.offerPass := ⟨.offerPass s, (offerPass_bays s).1⟩

theorem notePoint (s : State) (c : Nat) : s.Retests (s.notePoint c) := by
  refine ⟨.notePoint s c, ?_⟩
  rw [notePoint_frame]

end State.Retests

theorem loadChange_retests (s : State) (c i : Nat) (δ : Int) (check : Bool) :
    ((s.modBal c fun b => b.applyChange i δ).balanceCheck c check).Retests (s.loadChange c i δ check) := by
  unfold State.loadChange
  dsimp only
  generalize (s.modBal c fun b => b.applyChange i δ).balanceCheck c check = v
  have tested := (State.Retests.retestTasks (v.car c).walkOrder v).trans (.retestWaiting _ c)
  refine .trans (tested.trans ?_) (.notePoint _ c)
  split
  · exact .offerPass _
  · exact .refl _

/-- A load change writes the changed loads and a fault flag, and no bay record. -/
theorem loadChange_writes (s : State) (c i : Nat) (δ : Int) (check : Bool) (len : c < s.balances.length) :
    (∀ id, (s.loadChange c i δ check).bay id = s.bay id) ∧
      ∃ fault, (s.loadChange c i δ check).bal c = { (s.bal c).applyChange i δ with fault } := by
  have after := loadChange_retests s c i δ check
  obtain ⟨fault, link, checked⟩ := balanceCheck_frame (s.modBal c fun b => b.applyChange i δ) c check
  refine ⟨fun id => (after.bay id).trans ?_, fault, (after.shelved.bal c).trans ?_⟩
  · rw [checked]
    rfl
  · rw [checked]
    show ((s.modBal c fun b => b.applyChange i δ).modBal c fun b => { b with fault }).bal c = _
    rw [bal_modBal, if_pos ⟨rfl, by simpa using len⟩, bal_modBal, if_pos ⟨rfl, len⟩]

/-- An accepted claim writes the found state and its load change. -/
theorem correct_writes (s : State) (id : BayId) (found : Option Found) (bays : id.carousel < s.bays.length)
    (balances : id.carousel < s.balances.length) (place : s.position id < (s.baysOf id.carousel).length)
    (fit : s.fits (s.bay id) found) :
    let w := (s.bay id).corrected found
    ∃ y, s.correct id found = .ok y ∧ y.bay id = w ∧
      (y.bal id.carousel).total = (s.bal id.carousel).total + (s.bayLoad w - s.bayLoad (s.bay id)) ∧
      (y.bal id.carousel).loads =
        (s.bal id.carousel).loads.modify id.carrier (· + (s.bayLoad w - s.bayLoad (s.bay id))) ∧
      y.audit.list = s.audit.list ∧ y.articles = s.articles := by
  intro w
  have claimed := claimed_loadChange s id w bays balances place
  obtain ⟨kept, fault, bal⟩ := loadChange_writes (s.modBay id fun _ => w) id.carousel id.carrier
    (s.bayLoad w - s.bayLoad (s.bay id)) true balances
  refine ⟨_, correct_ok s id found fit, (kept id).trans (bay_modBay_same s id _ bays place), congrArg Balance.total bal,
    congrArg Balance.loads bal, claimed.list, claimed.articles⟩

/-- A claim is refused above the stack limit with what is incoming, and for another tyre than is incoming. -/
theorem correct_refused (s : State) (id : BayId) (z : Found)
    (misfit : s.stackLimit z.tyre.article < z.count + (s.bay id).incoming ∨
      (0 < (s.bay id).incoming ∧ (s.bay id).tyre ≠ some z.tyre)) : ∃ e, s.correct id (some z) = .error e := by
  by_cases above : s.stackLimit z.tyre.article < z.count
  · exact ⟨_, correct_stackLimit s id z above⟩
  · exact ⟨_, correct_incoming s id z (by omega) (by omega) (misfit.symm.imp_left And.right)⟩

/-! ## The comparison (R144) -/

/-- The bays of the carrier presented, one by one. -/
theorem foldl_carrierBays {α : Type} (s : State) (c carrier : Nat) (f : α → BayId → α) (a : α) :
    (s.carrierBays c carrier).foldl f a =
      (List.range (s.baysPerCarrier c)).foldl (fun a b => f a { carousel := c, carrier, bay := b }) a :=
  List.foldl_map ..

theorem foundState_eq (tallies : List Tally) (b : Nat) :
    foundState tallies b = tallies.filter fun t => decide (t.bay = b ∧ t.count ≠ 0) := by
  simp [foundState]

/-- The rows of Table 8-2, the first that holds. -/
theorem compareBay_eq (s : State) (r : Bay) (found : List Tally) : s.compareBay r found =
    if r.count = 0 then (if found = [] then none else some .unexpected)
    else match found with
      | [] => some .missing
      | [t] =>
        if s.article t.article = none ∨ r.tyre ≠ some (Tyre.mk t.article t.batch) then some .label
        else if t.count = r.count then none else some .count
      | _ => some .label := by
  unfold State.compareBay
  rcases found with _ | ⟨t, _ | _⟩
  · rfl
  · simp only [Option.isNone_iff_eq_none]
  · rfl

/-- A claim carries nothing, or one tally of a known article (R145). -/
theorem correctable_eq (s : State) (found : List Tally) : s.correctable found =
    match found with
    | [] => some none
    | [t] =>
      if s.article t.article = none then none else some (some (Found.mk (Tyre.mk t.article t.batch) t.count))
    | _ => none := by
  unfold State.correctable
  rcases found with _ | ⟨t, _ | _⟩
  · rfl
  · cases known : s.article t.article <;> simp [known]
  · rfl

theorem correctMismatch_eq (s : State) (id : BayId) (policy : SweepPolicy) (found : List Tally) (number : Option Nat) :
    s.correctMismatch id policy found number =
      match policy, (match found with
        | [] => some none
        | [t] =>
          if s.article t.article = none then none else some (some (Found.mk (Tyre.mk t.article t.batch) t.count))
        | _ => none) with
      | .correct, some f => match s.correct id f with
        | .ok y => y.markCorrected number
        | .error _ => s
      | _, _ => s := by
  have claim := correctable_eq s found
  unfold State.correctMismatch
  generalize s.correctable found = carried at claim
  subst claim
  rfl

theorem handleBay_mismatch (w : SweepContext) (tallies : List Tally) (outcome : BayId → Bay × Option DiscrepancyKind)
    (s : State) (id : BayId) (record : Bay) (kind : DiscrepancyKind) (differs : outcome id = (record, some kind)) :
    State.handleBay w tallies outcome s id =
      let x := s.holdSet id .audit
      let l := x.logEntry (x.entryFor id kind record (foundState tallies id.bay) (some w.number) false)
      l.1.correctMismatch id w.policy (foundState tallies id.bay) l.2 := by
  unfold State.handleBay
  rw [differs]

theorem handleBay_match (w : SweepContext) (tallies : List Tally) (outcome : BayId → Bay × Option DiscrepancyKind)
    (s : State) (id : BayId) (record : Bay) (agrees : outcome id = (record, none)) :
    State.handleBay w tallies outcome s id = s := by
  unfold State.handleBay
  rw [agrees]

/-- A step presented compares the carrier read. -/
theorem mouthRead_step (s : State) (c : Nat) (tallies : List Tally) (state : (s.car c).state = .presenting)
    (serving : (s.car c).inService = some .step) : s.mouthRead c tallies = s.carrierRead c tallies := by
  unfold State.mouthRead
  rw [state, serving]

/-! ## The step's end (R147, R60) -/

/-- A part of eight carousels stays one through every change a step is made of. -/
theorem closed_eight : Closed fun s => s.carousels.length = 8 := by
  constructor
  case cars => exact fun _ _ _ n => (List.length_modify ..).trans n
  case clearStore => exact fun _ n => (List.length_map _).trans n
  case powerOn => exact fun _ _ _ => rfl
  all_goals intros; assumption

/-- The sweep of `c` ended after the step of `w`, with `n` mismatches in all. -/
def State.sweepDone (s : State) (c : Nat) (w : SweepContext) (n : Nat) (cause : SweepCause) : State :=
  State.modSweepRecord ((s.notify (.auditDone c w.number (s.sweepRecord c).origin cause (w.done + 1) n)).modCar c
    fun k => { k with sweep := none }) c fun r => { r with stopMark := false, readAttempt := 0, readTimer := none }

/-- The part once the step of `w` has moved its sweep on or ended it, with `n` mismatches in all. -/
def State.stepped (s : State) (c : Nat) (w : SweepContext) (n : Nat) : State :=
  if w.next = w.last then s.sweepDone c w n .complete
  else if (s.sweepRecord c).stopMark = true then s.sweepDone c w n .stopped
  else (s.modCar c fun k => { k with sweep := some { w with
    next := (w.next + 1) % s.carriersOf c, done := w.done + 1, mismatches := n } }).modSweepRecord c
      fun r => { r with readAttempt := 0, readTimer := none }

theorem notify_modCar (s : State) (c : Nat) (f : Carousel → Carousel) (n : Notice) :
    (s.modCar c f).notify n = (s.notify n).modCar c f :=
  (notify_eq s (s.modCar c f) n rfl).trans (congrArg (State.modCar · c f) (notify_frame s n)).symm

/-- The counters of a step reach the AUDIT-DONE of a sweep that it ends. -/
theorem endSweep_counted (s : State) (c : Nat) (w : SweepContext) (n : Nat) (cause : SweepCause)
    (len : c < s.carousels.length) :
    (s.modCar c fun k => { k with sweep := some { w with done := w.done + 1, mismatches := n } }).endSweep c cause =
      s.sweepDone c w n cause := by
  have sweep : ((s.modCar c fun k => { k with sweep := some { w with done := w.done + 1, mismatches := n } }).car c).sweep =
      some { w with done := w.done + 1, mismatches := n } := by
    rw [State.car_modCar, if_pos ⟨rfl, len⟩]
  unfold State.endSweep
  rw [sweep]
  dsimp only
  rw [notify_modCar, modCar_modCar]
  rfl

theorem endStep_eq (s : State) (c : Nat) (w : SweepContext) (m : Nat) (len : c < s.carousels.length) :
    s.endStep c w m = (s.stepped c w (w.mismatches + m)).settle.presentationEnd c := by
  unfold State.endStep State.stepped
  dsimp only
  rw [endSweep_counted s c w _ .complete len, endSweep_counted s c w _ .stopped len, modCar_modCar]

/-! ## The carrier read (R144, R145) -/

/-- The outcome of a bay in the carrier read of `s`, with its record as the read is taken. -/
def State.readOutcome (s : State) (tallies : List Tally) (id : BayId) : Bay × Option DiscrepancyKind :=
  (s.bay id, s.compareBay (s.bay id) (foundState tallies id.bay))

/-- The part once every bay of the carrier carries the sweep's number and every mismatch is handled, in bay order. -/
def State.readHandled (s : State) (c : Nat) (w : SweepContext) (tallies : List Tally) : State :=
  (s.carrierBays c w.next).foldl (State.handleBay w tallies (s.readOutcome tallies))
    ((s.carrierBays c w.next).foldl (fun s id => s.modBay id fun b => { b with lastSweep := some w.number })
      (s.modSweepRecord c fun r => { r with readTimer := none }))

theorem carrierRead_sweep (s : State) (c : Nat) (w : SweepContext) (tallies : List Tally)
    (sweep : (s.car c).sweep = some w) : s.carrierRead c tallies = (s.readHandled c w tallies).endStep c w
      ((s.carrierBays c w.next).filter fun id => (s.readOutcome tallies id).2.isSome).length := by
  unfold State.carrierRead
  rw [sweep]
  rfl

theorem readHandled_length (s : State) (c : Nat) (w : SweepContext) (tallies : List Tally)
    (eight : s.carousels.length = 8) : (s.readHandled c w tallies).carousels.length = 8 := by
  have timed := closed_eight.modSweepRecord eight c fun r => { r with readTimer := none }
  have marked := Closed.foldl (P := fun s => s.carousels.length = 8)
    (fun s (id : BayId) => s.modBay id fun b => { b with lastSweep := some w.number }) (s.carrierBays c w.next) timed
    fun _ _ n => n
  refine Closed.foldl (P := fun s => s.carousels.length = 8) _ _ marked fun _ id n => ?_
  exact closed_eight.handleBay n w tallies _ id

/-- Settles O24: a step presented reads its carrier (`carrierRead_sweep`), the handling of each bay is written out case by
case, and the step ends by `endStep_eq`; the claim is `correct_writes` or `correct_refused`. -/
theorem carrierReadCompares : Obligations.CarrierReadCompares := by
  refine ⟨fun s c p w tallies bounded c8 profile state serving sweep => ?_, fun s id f bounded c8 place free => ?_⟩
  · intro id found outcome bays timed marked handled n ended after
    have room : s.baysPerCarrier c = p.bays := by
      unfold State.baysPerCarrier
      rw [profile]
    have outcomes : ∀ b, s.readOutcome tallies (id b) = (s.bay (id b), outcome b) := fun b => by
      have compared : s.compareBay (s.bay (id b)) (foundState tallies b) = s.compareBay (s.bay (id b)) (found b) :=
        congrArg _ (foundState_eq tallies b)
      exact congrArg (s.bay (id b), ·) (compared.trans (compareBay_eq s (s.bay (id b)) (found b)))
    have steps : s.readHandled c w tallies = handled := by
      unfold State.readHandled
      rw [foldl_carrierBays, foldl_carrierBays, room]
      refine congrArg (List.foldl · marked bays) (funext fun v => funext fun b => ?_)
      dsimp only
      cases compared : outcome b with
      | none => exact handleBay_match _ _ _ v (id b) _ (compared ▸ outcomes b)
      | some kind =>
        rw [handleBay_mismatch _ _ _ v (id b) _ kind (compared ▸ outcomes b),
          show foundState tallies (id b).bay = found b from foundState_eq tallies b]
        exact correctMismatch_eq _ (id b) w.policy (found b) _
    have count : ((s.carrierBays c w.next).filter fun id => (s.readOutcome tallies id).2.isSome).length =
        (bays.filter fun b => (outcome b).isSome).length := by
      unfold State.carrierBays
      rw [List.filter_map, List.length_map, room]
      refine congrArg (fun q => (bays.filter q).length) (funext fun b => ?_)
      exact congrArg (fun x => x.2.isSome) (outcomes b)
    have len := readHandled_length s c w tallies bounded.eight.1
    rw [mouthRead_step s c tallies state serving, carrierRead_sweep s c w tallies sweep,
      endStep_eq _ c w _ (lt_of_lt_of_eq c8 len.symm), count, steps]
    rfl
  · intro b refused written
    have bays : id.carousel < s.bays.length := lt_of_lt_of_eq c8 bounded.eight.2.1.symm
    have balances : id.carousel < s.balances.length := lt_of_lt_of_eq c8 bounded.eight.2.2.1.symm
    refine ⟨fun ⟨z, is, misfit⟩ => is ▸ correct_refused s id z misfit, fun fits => ?_⟩
    have fit : s.fits b f := fun z is => by
      obtain ⟨pos, fit⟩ := fits z is
      rw [not_or, not_lt, not_and_not_right] at fit
      exact ⟨pos, fit⟩
    have record : b.corrected f = written := by
      cases f <;> simp [Bay.corrected, written, ← show b.reserved = 0 from free]
    exact record ▸ correct_writes s id f bays balances place fit

end Sys2Proof.Machine
end

section
/-! The follow-ups of a step leave the sweep record of a carousel that takes no service points (R57, R143): only a step that
is presented starts a read attempt. -/

namespace Sys2Proof.Machine

/-! ## Service points -/

section Served

variable (s : State) (c d : Nat) (other : c ≠ d)
include other

theorem present_sweepRecord : (s.present c).sweepRecord d = s.sweepRecord d := by
  have indicated : ∀ (u : State) k, (u.indicateTask c k).audit = u.audit := fun u k => by
    unfold State.indicateTask
    split <;> rw [indicate_frame]
  unfold State.present
  split
  · next id _ =>
    have shown : ((s.taskState id .presenting).modCar c fun k =>
        { k with state := .presenting, presentationTimer := some (s.now + s.presentationMs) }).audit = s.audit := rfl
    dsimp only
    split
    · rw [State.sweepRecord, indicated, shown, State.sweepRecord]
    · rw [State.sweepRecord, shown, State.sweepRecord]
  · split
    · rw [sweepRecord_mod, if_neg fun e => other e.1, sendScan_frame]
      rfl
    · rfl
  · rfl

theorem beginWork_sweepRecord (w : Work) (level target : Nat) :
    (s.beginWork c w level target).sweepRecord d = s.sweepRecord d := by
  unfold State.beginWork
  dsimp only
  split
  · exact present_sweepRecord _ c d other
  · split
    · next moved => rw [State.sweepRecord, (startMove_power _ _ _ _ _ moved).2.2.1]; rfl
    · unfold State.enterWait
      dsimp only
      split <;> rfl

theorem attemptRelease_sweepRecord (id : Nat) (k : Task) :
    (s.attemptRelease c id k).1.sweepRecord d = s.sweepRecord d := by
  unfold State.attemptRelease
  split
  · split
    · next u granted =>
      have audit : u.audit = s.audit := by
        unfold State.releaseTransit at granted
        split at granted
        · obtain ⟨v, room, rfl⟩ := Option.map_eq_some_iff.1 granted
          unfold State.grant at room
          split at room
          · cases room
            rfl
          · cases room
        · cases granted
          rfl
      refine (beginWork_sweepRecord _ c d other _ _ _).trans ?_
      show u.audit.sweeps.getD d {} = _
      rw [audit]
      rfl
    · rfl
  · rfl

theorem walk_sweepRecord (l : List Nat) : (State.walk c l s).1.sweepRecord d = s.sweepRecord d := by
  induction l generalizing s with
  | nil => rfl
  | cons id rest ih =>
    unfold State.walk
    split
    · exact ih s
    · next k _ =>
      split
      · have tried := attemptRelease_sweepRecord s c d other id k
        split
        · next e => rw [e] at tried; exact tried
        · next e => rw [e] at tried; exact (ih _).trans tried
      · exact ih s

theorem servicePoint_sweepRecord : (s.servicePoint c).sweepRecord d = s.sweepRecord d := by
  by_cases idle : s.idleReady c = true
  · have walked := walk_sweepRecord s c d other (s.car c).walkOrder
    rw [servicePoint_idle s c idle, ← walked]
    unfold State.afterWalk State.releaseStep
    split
    · rfl
    · split
      · split
        · exact beginWork_sweepRecord _ c d other _ _ _
        · rfl
      · rfl
  · rw [servicePoint_busy s c idle]

end Served

/-! ## The follow-ups -/

/-- A carousel that takes no service points takes none still, and keeps its sweep record. -/
def State.KeepsSteps (s t : State) : Prop :=
  ∀ d, s.idleReady d = false → t.idleReady d = false ∧ t.sweepRecord d = s.sweepRecord d

namespace State.KeepsSteps

theorem refl (s : State) : s.KeepsSteps s := fun _ busy => ⟨busy, rfl⟩

theorem trans {s t u : State} (a : s.KeepsSteps t) (b : t.KeepsSteps u) : s.KeepsSteps u := fun d busy => by
  obtain ⟨busy, same⟩ := a d busy
  obtain ⟨busy, same'⟩ := b d busy
  exact ⟨busy, same'.trans same⟩

theorem of_eq {s t : State} (carousels : t.carousels = s.carousels) (audit : t.audit = s.audit) : s.KeepsSteps t :=
  fun d busy => by
    unfold State.idleReady State.car State.sweepRecord
    rw [carousels, audit]
    exact ⟨busy, rfl⟩

theorem foldl {α : Type} (f : State → α → State) (h : ∀ (s : State) a, s.KeepsSteps (f s a)) (l : List α) (s : State) :
    s.KeepsSteps (l.foldl f s) := by
  induction l generalizing s with
  | nil => exact refl s
  | cons a l ih => exact (h s a).trans (ih _)

variable (s : State)

theorem servicePoint (c : Nat) : s.KeepsSteps (s.servicePoint c) := fun d busy => by
  refine ⟨(State.Keeps.idle (s.follows_servicePoint c) busy).trans busy, ?_⟩
  by_cases here : c = d
  · rw [servicePoint_busy s c (by simp [here, busy])]
  · exact servicePoint_sweepRecord s c d here

theorem servicePoints (l : List Nat) : s.KeepsSteps (s.servicePoints l) := by
  obtain ⟨_, n, arranged⟩ := arrange_perm s (l.filter s.idleReady)
  have chosen : s.KeepsSteps (s.arrange (l.filter s.idleReady)).2 := by
    rw [arranged]
    exact of_eq rfl rfl
  exact chosen.trans (foldl _ servicePoint _ _)

theorem placeTask (o : Order) (id : Nat) : s.KeepsSteps (s.placeTask o id) := by
  unfold State.placeTask State.joinTail
  split
  · exact of_eq rfl rfl
  · split
    · next k _ =>
      have queued : s.KeepsSteps (s.modCar k.bay.carousel fun x => x.modQueue k.level (· ++ [id])) := fun d busy =>
        ⟨(State.Keeps.idle (s.keeps_queues (fun _ => True) _ _ fun x => modQueue_unqueued x _ _) trivial).trans busy, rfl⟩
      exact queued.trans (servicePoint _ _)
    · exact refl s

theorem allocateGroup (ref : GroupRef) : s.KeepsSteps (s.allocateGroup ref).1 := by
  rcases allocateGroup_cases s ref with refused | ⟨o, plan, ids, _, _, _, made⟩
  · rw [refused]
    exact refl s
  · have allotted : s.KeepsSteps (s.allotted o ref plan ids) := by
      rw [allotted_frame]
      exact of_eq rfl rfl
    rw [made]
    exact allotted.trans (foldl _ (fun v => placeTask v o) _ _)

theorem runRetries (n : Nat) : s.KeepsSteps (State.runRetries n s) := by
  induction n generalizing s with
  | zero => exact refl s
  | succ n ih =>
    unfold State.runRetries
    split
    · exact refl s
    · have noted : s.KeepsSteps { s with orderUnit := { s.orderUnit with retry := .none } } := of_eq rfl rfl
      refine (noted.trans (foldl _ (fun v ref => ?_) _ _)).trans (ih _)
      unfold State.retryGroup
      split
      · exact allocateGroup v ref
      · exact refl v

theorem settle : s.KeepsSteps s.settle := by
  have agenda : ∀ (u : State) (a : Agenda), u.KeepsSteps { u with agenda := a } := fun _ _ => of_eq rfl rfl
  have freed : s.KeepsSteps s.serveFreed := by
    unfold State.serveFreed
    split
    · exact (agenda s _).trans (servicePoints _ _)
    · exact refl s
  unfold State.settle State.servePoints
  exact (freed.trans (runRetries _ 4)).trans ((agenda _ _).trans (servicePoints _ _))

end State.KeepsSteps

end Sys2Proof.Machine
end

section
/-! The read timer of a presented step (O23): the second attempt (R143), the unread carrier (R146) and the step's end
(R147, R66). -/

namespace Sys2Proof.Machine

/-! ## The second attempt (R143) -/

theorem readTimeout_stopped (s : State) (c : Nat) (stopped : (s.sweepRecord c).readTimer = none) : s.readTimeout c = s := by
  unfold State.readTimeout
  dsimp only
  rw [stopped]
  split
  · next no => cases no
  · rfl

section Runs

variable (s : State) (c : Nat) (w : SweepContext) (state : (s.car c).state = .presenting)
  (serving : (s.car c).inService = some .step) (sweep : (s.car c).sweep = some w)
  (runs : (s.sweepRecord c).readTimer ≠ none)
include state serving sweep runs

theorem readTimeout_first (first : (s.sweepRecord c).readAttempt = 1) : s.readTimeout c =
    (s.sendScan c w.next).modSweepRecord c fun r =>
      { r with readAttempt := 2, readTimer := some (s.now + s.carrierReadMs) } := by
  obtain ⟨time, runs⟩ := Option.ne_none_iff_exists'.1 runs
  unfold State.readTimeout
  dsimp only
  rw [state, serving, sweep, runs]
  exact if_pos first

theorem readTimeout_second (second : (s.sweepRecord c).readAttempt ≠ 1) : s.readTimeout c =
    ((s.carrierBays c w.next).foldl (State.unreadBay w) s).endStep c w (s.baysPerCarrier c) := by
  obtain ⟨time, runs⟩ := Option.ne_none_iff_exists'.1 runs
  have count : (s.carrierBays c w.next).length = s.baysPerCarrier c := by simp [State.carrierBays]
  unfold State.readTimeout
  dsimp only
  rw [state, serving, sweep, runs]
  dsimp only
  rw [if_neg second, count]

end Runs

/-- The second SCAN-CARRIER, and the timer restarted. -/
theorem secondAttempt_builds (s : State) (c : Nat) (w : SweepContext) (p : Profile)
    (profile : (s.car c).profile = some p) : State.Builds { s with
      audit := { s.audit with sweeps := s.audit.sweeps.set c { s.sweepRecord c with
        readAttempt := 2, readTimer := some (s.now + s.carrierReadMs) } } }
    p.reader kindScanCarrier [byte w.next, byte p.bays]
    ((s.sendScan c w.next).modSweepRecord c fun r =>
      { r with readAttempt := 2, readTimer := some (s.now + s.carrierReadMs) }) := by
  obtain ⟨m, dropped, takes, built⟩ := build_builds s p.reader kindScanCarrier (scanPayload w.next p.bays)
  refine ⟨m, dropped, takes, ?_⟩
  have sent : s.sendScan c w.next = s.build p.reader kindScanCarrier (scanPayload w.next p.bays) := by
    unfold State.sendScan
    rw [profile]
  rw [sent, built]
  unfold State.modSweepRecord
  dsimp only
  rw [modify_eq_set_getD s.audit.sweeps _ _ {}]
  rfl

/-! ## An unread bay (R146, R151) -/

theorem detach_audit (s : State) (id : Nat) (k : Task) : (s.detach id k).audit = s.audit := by
  unfold State.detach
  dsimp only
  split
  · rw [notePoint_frame]
    rfl
  · rfl
  · rfl

theorem withdrawn_audit (s : State) (id : BayId) : (s.withdrawn id).audit = s.audit := by
  have one : ∀ (u : State) j, (u.withdrawFrom id j).audit = u.audit := fun u j => by
    unfold State.withdrawFrom
    split
    · split
      · exact (endTask_ended ..).audit.trans (detach_audit ..)
      · rfl
    · rfl
  have all : ∀ (l : List Nat) (u : State), (l.foldl (State.withdrawFrom id) u).audit = u.audit := by
    intro l
    induction l with
    | nil => exact fun _ => rfl
    | cons j l ih => exact fun u => (ih _).trans (one u j)
  unfold State.withdrawn
  split
  · rfl
  · exact all _ s

/-- A logging keeps the sweep records, and fills the list up to its 32 entries. -/
theorem logEntry_audit (s : State) (e : Discrepancy) : (s.logEntry e).1.audit.sweeps = s.audit.sweeps ∧
    (s.audit.list.length ≤ 32 → (s.logEntry e).1.audit.list.length = min 32 (s.audit.list.length + 1)) := by
  unfold State.logEntry
  split
  · dsimp only
    rw [notify_frame]
    refine ⟨rfl, fun _ => ?_⟩
    simp only [List.length_append, List.length_singleton]
    omega
  · dsimp only
    split
    · exact ⟨rfl, fun _ => by dsimp only; omega⟩
    · rw [notify_frame]
      exact ⟨rfl, fun _ => by dsimp only; omega⟩

theorem bay_modBay_cases (s : State) (i j : BayId) (f : Bay → Bay) :
    (s.modBay i f).bay j = s.bay j ∨ (s.modBay i f).bay j = f (s.bay j) := by
  have position : (s.modBay i f).position j = s.position j := rfl
  unfold State.bay State.baysOf
  rw [position]
  simp only [State.modBay_bays, getD_modify]
  split
  · rw [getD_modify]
    split
    · exact .inr rfl
    · exact .inl rfl
  · exact .inl rfl

/-- The part has a record for a bay. -/
def State.hasBay (s : State) (id : BayId) : Prop :=
  id.carousel < s.bays.length ∧ s.position id < (s.baysOf id.carousel).length

theorem State.Shelved.hasBay {s t : State} (h : s.Shelved t) {id : BayId} (there : s.hasBay id) : t.hasBay id :=
  h.room there.1 there.2

theorem hasBay_modBay {s : State} {j : BayId} (there : s.hasBay j) (id : BayId) (f : Bay → Bay) :
    (s.modBay id f).hasBay j := by
  refine ⟨by simpa using there.1, ?_⟩
  show s.position j < ((s.bays.modify id.carousel _).getD j.carousel []).length
  rw [getD_modify]
  split
  · rw [List.length_modify]
    exact there.2
  · exact there.2

/-- A set of hold reasons with AUDIT in it. -/
def Holds.audited (h : Holds) : Holds := { h with audit := true }

/-- The bays `ids` are marked AUDIT, with their withdrawals, and what is logged of them is sent: `s` is the part before, `t`
after. -/
structure State.Audited (ids : List BayId) (s t : State) : Prop where
  undisturbed : s.Undisturbed t
  profiles : ∀ c, (t.car c).profile = (s.car c).profile
  articles : t.articles = s.articles
  balances : t.balances = s.balances
  target : t.power.target = s.power.target
  sweeps : t.audit.sweeps = s.audit.sweeps
  hasBay : ∀ j, s.hasBay j → t.hasBay j
  count : ∀ j, (t.bay j).count = (s.bay j).count
  holds : ∀ j, (t.bay j).holds = (s.bay j).holds ∨ (t.bay j).holds = (s.bay j).holds.audited
  audited : ∀ j ∈ ids, s.hasBay j → (t.bay j).holds = (s.bay j).holds.audited

namespace State.Audited

theorem refl (s : State) : State.Audited [] s s :=
  ⟨.refl s, fun _ => rfl, rfl, rfl, rfl, rfl, fun _ => id, fun _ => rfl, fun _ => .inl rfl, nofun⟩

theorem trans {ids js : List BayId} {s t u : State} (a : State.Audited ids s t) (b : State.Audited js t u) :
    State.Audited (ids ++ js) s u where
  undisturbed := a.undisturbed.trans b.undisturbed
  profiles := fun c => (b.profiles c).trans (a.profiles c)
  articles := b.articles.trans a.articles
  balances := b.balances.trans a.balances
  target := b.target.trans a.target
  sweeps := b.sweeps.trans a.sweeps
  hasBay := fun j there => b.hasBay j (a.hasBay j there)
  count := fun j => (b.count j).trans (a.count j)
  holds := fun j => by
    rcases a.holds j with first | first <;> rcases b.holds j with later | later <;> simp [later, first, Holds.audited]
  audited := fun j mem there => by
    rcases List.mem_append.1 mem with mem | mem
    · have first := a.audited j mem there
      rcases b.holds j with later | later <;> simp [later, first, Holds.audited]
    · have later := b.audited j mem (a.hasBay j there)
      rcases a.holds j with first | first <;> simp [later, first, Holds.audited]

theorem holdSet (s : State) (id : BayId) : State.Audited [id] s (s.holdSet id .audit) := by
  have shelved := holdSet_shelved s id .audit
  obtain ⟨f, _, set⟩ := holdSet_eq s id .audit
  refine ⟨?_, shelved.profiles, shelved.articles, shelved.balances, shelved.target, ?_,
    fun j there => shelved.hasBay (hasBay_modBay there id _), holdSet_count s id .audit, fun j => ?_, fun j mem there => ?_⟩
  · rw [set]
    exact (withdrawn_undisturbed s id).trans (.of_orders rfl rfl)
  · rw [set]
    exact congrArg AuditUnit.sweeps (withdrawn_audit s id)
  · rw [shelved.holds]
    exact (bay_modBay_cases s id j _).imp (congrArg Bay.holds) (congrArg Bay.holds)
  · cases List.mem_singleton.1 mem
    exact holdSet_holds s id .audit there.1 there.2

theorem logEntry (s : State) (e : Discrepancy) : State.Audited [] s (s.logEntry e).1 := by
  have sweeps := (logEntry_audit s e).1
  have bay : ∀ j, (s.logEntry e).1.bay j = s.bay j := fun j => by rw [logEntry_frame]; rfl
  refine ⟨?_, ?_, ?_, ?_, ?_, sweeps, fun j there => ?_, fun j => by rw [bay], fun j => .inl (by rw [bay]), nofun⟩
  all_goals rw [logEntry_frame]
  · exact ⟨rfl, rfl, rfl, fun _ => id⟩
  · exact fun _ => rfl
  · exact there

theorem unreadBays (w : SweepContext) (ids : List BayId) (s : State) :
    State.Audited ids s (ids.foldl (State.unreadBay w) s) := by
  induction ids generalizing s with
  | nil => exact refl s
  | cons id ids ih => exact ((holdSet s id).trans (logEntry _ _)).trans (ih _)

end State.Audited

/-- Every unread bay has its entry, as far as the list has room. -/
theorem unreadBays_list (w : SweepContext) (ids : List BayId) (s : State) (room : s.audit.list.length ≤ 32) :
    (ids.foldl (State.unreadBay w) s).audit.list.length = min 32 (s.audit.list.length + ids.length) := by
  induction ids generalizing s with
  | nil => exact (min_eq_right room).symm
  | cons id ids ih =>
    have same : (s.holdSet id .audit).audit.list = s.audit.list := (holdSet_shelved s id .audit).list
    have logged : (State.unreadBay w s id).audit.list.length = min 32 (s.audit.list.length + 1) := by
      rw [← same] at room ⊢
      exact (logEntry_audit _ _).2 room
    rw [List.foldl_cons, ih _ (by omega), logged, List.length_cons]
    omega

/-! ## The step's end (R147, R66) -/

/-- The save area after the step of `w`, with `n` mismatches in all, on a loop of `carriers`; none where the sweep ends. -/
def SweepContext.after (w : SweepContext) (carriers n : Nat) (stop : Bool) : Option SweepContext :=
  if w.next = w.last ∨ stop = true then none
  else some { w with next := (w.next + 1) % carriers, done := w.done + 1, mismatches := n }

/-- What the end of a step writes: the save area and the sweep records, with AUDIT-DONE where the sweep ends. -/
theorem stepped_frame (s : State) (c : Nat) (w : SweepContext) (n : Nat) :
    ∃ (link : LinkPort) (sweeps : List SweepRecord), s.stepped c w n = { s.modCar c (fun k => { k with
        sweep := w.after (s.carriersOf c) n (s.sweepRecord c).stopMark }) with
        link, audit := { s.audit with sweeps } } ∧
      (c < s.audit.sweeps.length → (sweeps.getD c {}).readTimer = none) := by
  have cleared : ∀ f : SweepRecord → SweepRecord, (∀ r, (f r).readTimer = none) → c < s.audit.sweeps.length →
      ((s.audit.sweeps.modify c f).getD c {}).readTimer = none := fun f none_left len => by
    rw [getD_modify, if_pos ⟨rfl, len⟩]
    exact none_left _
  unfold State.stepped State.sweepDone SweepContext.after
  split
  · next last =>
    rw [notify_frame, if_pos (.inl last)]
    exact ⟨_, _, rfl, cleared _ fun _ => rfl⟩
  · next more =>
    split
    · next marked =>
      rw [notify_frame, if_pos (.inr marked)]
      exact ⟨_, _, rfl, cleared _ fun _ => rfl⟩
    · next unmarked =>
      rw [if_neg (not_or.2 ⟨more, unmarked⟩)]
      exact ⟨_, _, rfl, cleared _ fun _ => rfl⟩

/-- The follow-ups keep every save area. -/
theorem keeps_sweep {p : Nat → Prop} {s t : State} (k : s.Keeps p t) (c : Nat) : (t.car c).sweep = (s.car c).sweep := by
  have all := congrArg (fun l : List Carousel => (l.getD c (Carousel.fixed {})).sweep) k.carousels
  simp only [List.getD_map] at all
  exact all

/-- The step of a carousel presented ends: what its end leaves of the part, with the follow-ups it takes. -/
theorem endStep_ends (s : State) (c : Nat) (w : SweepContext) (m : Nat) (len : c < s.carousels.length)
    (sweeps : c < s.audit.sweeps.length) (state : (s.car c).state = .presenting) :
    let u := s.endStep c w m
    s.Shelved u ∧ (u.car c).state = (if (s.car c).faultPending then .driveFault else .ready) ∧
      (u.car c).faultPending = false ∧ (u.car c).inService = none ∧ (u.sweepRecord c).readTimer = none ∧
      (u.car c).sweep = w.after (s.carriersOf c) (w.mismatches + m) (s.sweepRecord c).stopMark := by
  intro u
  obtain ⟨link, records, moved, stopped⟩ := stepped_frame s c w (w.mismatches + m)
  have ended : u = (s.stepped c w (w.mismatches + m)).settle.presentationEnd c := endStep_eq s c w m len
  generalize s.stepped c w (w.mismatches + m) = v at moved ended
  have shelved : s.Shelved v := by
    have written := State.Shelved.modCar s c
      (fun k => { k with sweep := w.after (s.carriersOf c) (w.mismatches + m) (s.sweepRecord c).stopMark }) fun _ => rfl
    rw [moved]
    exact { written with }
  have car : v.car c = { s.car c with
      sweep := w.after (s.carriersOf c) (w.mismatches + m) (s.sweepRecord c).stopMark } := by
    rw [moved]
    exact (State.car_modCar ..).trans (if_pos ⟨rfl, len⟩)
  have busy : v.idleReady c = false := by simp [State.idleReady, car, state]
  have still := settle_car_busy v c busy
  have record := (State.KeepsSteps.settle v c busy).2
  obtain ⟨link', agenda, presented, _⟩ := presentationEnd_eq v.settle c
  have length : c < v.settle.carousels.length := by
    rw [keeps_len v.settle_follows, moved]
    simpa using len
  have own : u.car c = (v.settle.car c).presented := by
    rw [ended, presented]
    exact (State.car_modCar ..).trans (if_pos ⟨rfl, length⟩)
  rw [still, car] at own
  refine ⟨(shelved.trans (.settle v)).trans (ended ▸ presentationEnd_shelved _ c), by rw [own]; rfl, by rw [own]; rfl,
    by rw [own]; rfl, ?_, by rw [own]; rfl⟩
  have audit : u.audit = v.settle.audit := by
    rw [ended, presented]
    rfl
  rw [State.sweepRecord, audit, ← State.sweepRecord, record, State.sweepRecord, moved]
  exact stopped sweeps

/-- Settles O23: the first expiry is `secondAttempt_builds`; the second marks every bay (`State.Audited.unreadBays`) and ends
the step (`endStep_ends`), and the follow-ups come after. -/
theorem readTimerExpires : Obligations.ReadTimerExpires := by
  intro s c p w bounded q c8 profile state serving sweep
  have row : exec (.readTimerExpiry c) s = .next (s.readTimeout c).settle := if_pos c8
  refine ⟨fun stopped => ?_, fun runs first => ?_, fun runs second => ?_⟩
  · rw [row, readTimeout_stopped s c stopped, State.settle_of_quiet s q]
  · have sent := readTimeout_first s c w state serving sweep runs first
    have quiet : (s.readTimeout c).quiet := State.quiet_of_notes q (by rw [sent]; simp)
    refine ⟨_, row.trans (congrArg _ (State.settle_of_quiet _ quiet)), ?_⟩
    rw [sent]
    exact secondAttempt_builds s c w p profile
  · have room : s.baysPerCarrier c = p.bays := by
      unfold State.baysPerCarrier
      rw [profile]
    have audited := State.Audited.unreadBays w (s.carrierBays c w.next) s
    have list := unreadBays_list w (s.carrierBays c w.next) s bounded.discrepancies
    have now := readTimeout_second s c w state serving sweep runs second
    generalize (s.carrierBays c w.next).foldl (State.unreadBay w) s = v at audited list now
    obtain ⟨vState, vFault⟩ := audited.undisturbed.car c
    have len : c < v.carousels.length := by rwa [audited.undisturbed.length, bounded.eight.1]
    have sweeps : c < v.audit.sweeps.length := by rwa [audited.sweeps, bounded.eight.2.2.2]
    have stop : v.sweepRecord c = s.sweepRecord c := by rw [State.sweepRecord, audited.sweeps, State.sweepRecord]
    have carriers : v.carriersOf c = p.carriers := by
      unfold State.carriersOf
      rw [audited.profiles, profile]
    obtain ⟨shelved, uState, uFault, uService, uTimer, uSweep⟩ :=
      endStep_ends v c w (s.baysPerCarrier c) len sweeps (vState.trans state)
    rw [← now] at shelved uState uFault uService uTimer uSweep
    have follows := (s.readTimeout c).settle_follows
    have kept := shelved.trans (.of_keeps follows)
    rw [stop, carriers, room, ← keeps_sweep follows c] at uSweep
    refine ⟨s.readTimeout c, (s.readTimeout c).settle, row, follows, fun b hb id is there => ?_, vFault ▸ uState, uFault,
      uService, uTimer, fun last => ?_, fun more marked => ?_, fun more unmarked => ?_, ?_,
      kept.balances.trans audited.balances, kept.articles.trans audited.articles, kept.target.trans audited.target⟩
    · have mem : id ∈ s.carrierBays c w.next := by
        rw [is, State.carrierBays, room]
        exact List.mem_map_of_mem (List.mem_range.2 hb)
      have bays : id.carousel < s.bays.length := by rwa [is, bounded.eight.2.1]
      exact ⟨(kept.holds id).trans (audited.audited id mem ⟨bays, is ▸ there⟩), (kept.count id).trans (audited.count id)⟩
    · exact uSweep.trans (if_pos (.inl last))
    · exact uSweep.trans (if_pos (.inr marked))
    · exact uSweep.trans (if_neg (by simp [more, unmarked]))
    · rw [kept.list, list]
      simp [State.carrierBays, room]

end Sys2Proof.Machine
end

section
/-! One FILTER entry of a TABLE-LOAD (O44): the tests of R160, and the element replaced whole. -/

namespace Sys2Proof.Machine

/-- The tests of a FILTER entry, in their order (R160). -/
theorem loadFilter_cases (s : State) (index : Nat) (bs : List Byte) :
    (32 ≤ index → s.loadFilter index bs = .error .badValue) ∧
    (readFilter bs = none → s.loadFilter index bs = .error .badValue) ∧
    ∀ e, readFilter bs = some e →
      (e.matchType = .range → e.b < e.a → s.loadFilter index bs = .error .badValue) ∧
      (index < 32 → (e.matchType = .range → e.a ≤ e.b) →
        s.loadFilter index bs = .ok { s with filter := s.filter.set index e }) := by
  unfold State.loadFilter
  refine ⟨fun beyond => if_pos beyond, fun unread => ?_, fun e read => ⟨fun range above => ?_, fun within ordered => ?_⟩⟩
  · rw [unread]
    split <;> rfl
  · rw [read]
    dsimp only
    split
    · rfl
    · exact if_pos ⟨range, above⟩
  · rw [read, if_neg (by omega)]
    exact if_neg fun h => BitVec.not_lt.2 (ordered h.1) h.2

/-- Settles O44: the tests of `loadFilter` in turn; an element replaced notes no follow-up. -/
theorem filterEntryLoads : Obligations.FilterEntryLoads := by
  intro s f index bs q asked refused
  have row : exec .tableLoadFilter s = .next (s.serve f fun s => s.tableLoad State.loadFilter index [bs]) :=
    congrArg _ (onRequest_asked asked rfl)
  have refuses : s.takeRequest.loadFilter index bs = .error .badValue → refused := fun h =>
    row.trans (congrArg _ (serve_tableLoad_error q f h))
  obtain ⟨beyond, unread, tests⟩ := loadFilter_cases s.takeRequest index bs
  refine ⟨fun h => refuses (beyond h), fun h => refuses (unread h), fun e read => ?_⟩
  obtain ⟨above, accepted⟩ := tests e read
  exact ⟨fun range h => refuses (above range h), fun within ordered =>
    row.trans (congrArg _ (serve_tableLoad_ok_quiet f (accepted within ordered) q))⟩

end Sys2Proof.Machine
end

section
/-! The transmitter's start and end (O12): R165, R166. -/

namespace Sys2Proof.Machine

/-! ## The MOVE chosen (R165) -/

theorem bestMove_mem (l : List (Nat × Nat)) (x : Nat × Nat) (best : bestMove l = some x) : x ∈ l := by
  induction l generalizing x with
  | nil => cases best
  | cons y ys ih =>
    unfold bestMove at best
    split at best
    · cases best
      exact List.mem_cons_self
    · next z later =>
      split at best
      · cases best
        exact List.mem_cons_self
      · cases best
        exact List.mem_cons_of_mem _ (ih _ later)

/-- The best of a list in carousel order: no level is above its own, and no other of its level has a lower carousel. -/
theorem bestMove_eq (l : List (Nat × Nat)) (x : Nat × Nat) (ascending : l.Pairwise fun y z => y.1 < z.1) (mem : x ∈ l)
    (best : ∀ y ∈ l, y.2 < x.2 ∨ (y.2 = x.2 ∧ x.1 ≤ y.1)) : bestMove l = some x := by
  induction l with
  | nil => cases mem
  | cons y ys ih =>
    obtain ⟨first, ascending⟩ := List.pairwise_cons.1 ascending
    unfold bestMove
    rcases List.mem_cons.1 mem with rfl | later
    · split
      · rfl
      · next z found =>
        have at_most := best z (List.mem_cons_of_mem _ (bestMove_mem ys z found))
        exact if_pos (by omega)
    · rw [ih ascending later fun z hz => best z (List.mem_cons_of_mem _ hz)]
      have below := best y List.mem_cons_self
      have before := first x later
      exact if_neg (by omega)

/-- A slot's share in the list of unsent MOVEs. -/
theorem unsentMove_iff (s : State) (c : Nat) (x : Nat × Nat) :
    (match s.slot c with
      | some m => if m.chosen then none else some (c, m.level)
      | none => none) = some x ↔ x.1 = c ∧ ∃ m, s.slot c = some m ∧ m.chosen = false ∧ x.2 = m.level := by
  obtain ⟨d, level⟩ := x
  cases s.slot c with
  | none => simp
  | some m =>
    cases chosen : m.chosen with
    | true => simp [chosen]
    | false => simp [chosen, eq_comm (a := c), eq_comm (a := m.level)]

theorem mem_unsentMoves (s : State) (x : Nat × Nat) :
    x ∈ s.unsentMoves ↔ x.1 < 8 ∧ ∃ m, s.slot x.1 = some m ∧ m.chosen = false ∧ x.2 = m.level := by
  unfold State.unsentMoves
  rw [List.mem_filterMap]
  constructor
  · rintro ⟨c, range, found⟩
    obtain ⟨rfl, unsent⟩ := (unsentMove_iff s c x).1 found
    exact ⟨List.mem_range.1 range, unsent⟩
  · rintro ⟨range, unsent⟩
    exact ⟨x.1, List.mem_range.2 range, (unsentMove_iff s x.1 x).2 ⟨rfl, unsent⟩⟩

theorem unsentMoves_ascending (s : State) : s.unsentMoves.Pairwise fun y z => y.1 < z.1 := by
  refine List.Pairwise.filterMap _ (fun c d less y hy z hz => ?_) List.pairwise_lt_range
  rw [((unsentMove_iff s c y).1 hy).1, ((unsentMove_iff s d z).1 hz).1]
  exact less

/-! ## Transmission -/

section Starts

variable (s : State) (idle : s.outbox.tx = .idle) (active : s.lineActive = true)
include idle active

theorem startTransmission_move (c : Nat) (m : SlotMove) (c8 : c < 8) (slot : s.slot c = some m) (unsent : m.chosen = false)
    (best : ∀ d n, d < 8 → s.slot d = some n → n.chosen = false → n.level < m.level ∨ (n.level = m.level ∧ c ≤ d)) :
    s.startTransmission = { s with outbox := { s.outbox with
      slots := s.outbox.slots.modify c fun _ => some { m with chosen := true }
      tx := .sending { frame := m.frame, src := s.lineSource m.frame, source := .slot c } } } := by
  have chosen : bestMove s.unsentMoves = some (c, m.level) := by
    refine bestMove_eq _ _ (unsentMoves_ascending s) ((mem_unsentMoves ..).2 ⟨c8, m, slot, unsent, rfl⟩) fun y hy => ?_
    obtain ⟨y8, n, there, waits, level⟩ := (mem_unsentMoves ..).1 hy
    rw [level]
    exact best y.1 n y8 there waits
  unfold State.startTransmission
  rw [if_pos ⟨idle, active⟩, chosen]
  dsimp only
  rw [slot]
  rfl

theorem startTransmission_fifo (g : OutFrame) (rest : List OutFrame) (fifo : s.outbox.fifo = g :: rest)
    (all_sent : ∀ d n, d < 8 → s.slot d = some n → n.chosen = true) :
    s.startTransmission = { s with outbox := { s.outbox with
      fifo := rest, tx := .sending { frame := g, src := s.lineSource g, source := .fifo } } } := by
  have no_move : bestMove s.unsentMoves = none := by
    cases best : bestMove s.unsentMoves with
    | none => rfl
    | some x =>
      obtain ⟨x8, m, slot, unsent, _⟩ := (mem_unsentMoves ..).1 (bestMove_mem _ x best)
      rw [all_sent x.1 m x8 slot] at unsent
      cases unsent
  unfold State.startTransmission
  rw [if_pos ⟨idle, active⟩, no_move, fifo]

end Starts

/-- Settles O12: the transmitter's choice is `bestMove_eq` over the slots in carousel order. -/
theorem transmitterStartsAndEnds : Obligations.TransmitterStartsAndEnds := by
  intro s p bounded profile
  have active : s.lineActive = true := by rw [State.lineActive, profile]; rfl
  refine ⟨fun c m c8 idle slot unsent best => ?_, fun g rest idle all_sent fifo => ?_, fun x sends all => ?_,
    fun x sends one => ?_⟩
  · refine congrArg _ ((startTransmission_move s idle active c m c8 slot unsent best).trans ?_)
    rw [modify_eq_set_getD _ c _ none]
  · exact congrArg _ (startTransmission_fifo s idle active g rest fifo all_sent)
  · refine congrArg _ (?_ : s.endTransmission = _)
    unfold State.endTransmission
    rw [sends]
    exact if_pos all
  · refine congrArg _ (?_ : s.endTransmission = _)
    unfold State.endTransmission
    rw [sends]
    dsimp only
    rw [profile]
    exact if_neg one

end Sys2Proof.Machine
end

section
/-! A frame handed down by the link port (O11): the tests of R163 in order, and the FIFO it joins (R164). -/

namespace Sys2Proof.Machine

/-! ## The tests (R163) -/

theorem drivenStation_iff (s : State) (station : Byte) : s.drivenStation station = true ↔
    ∃ c < 8, ∃ q, (s.car c).profile = some q ∧ q.drive = station ∧ (s.car c).state ≠ .manual := by
  unfold State.drivenStation
  rw [List.any_eq_true]
  refine exists_congr fun c => and_congr List.mem_range ?_
  cases (s.car c).profile with
  | none => simp
  | some q => simp

/-- Each test of a profiled line port, where those before it are passed. -/
theorem passRefusal_cases (s : State) (f : Frame) (p : LineProfile) (profile : s.line.profile = some p) :
    let driven := (f.kind = kindMove ∨ f.kind = kindStop) ∧ (f.dest = 255 ∨
      ∃ c < 8, ∃ q, (s.car c).profile = some q ∧ q.drive = f.dest ∧ (s.car c).state ≠ .manual)
    (f.dest = p.station → s.passRefusal f = some .ownStation) ∧
    (f.dest ≠ p.station → driven → s.passRefusal f = some .drive) ∧
    (f.dest ≠ p.station → ¬driven → p.maxPayload < f.payload.length → s.passRefusal f = some .oversize) ∧
    (f.dest ≠ p.station → ¬driven → f.payload.length ≤ p.maxPayload → s.passRefusal f = none) := by
  intro driven
  have driven_iff : driven ↔
      (f.kind = kindMove ∨ f.kind = kindStop) ∧ (f.dest = broadcast ∨ s.drivenStation f.dest = true) :=
    and_congr_right' (or_congr Iff.rfl (drivenStation_iff s f.dest).symm)
  have is : s.passRefusal f = if f.dest = p.station then some .ownStation
      else if (f.kind = kindMove ∨ f.kind = kindStop) ∧ (f.dest = broadcast ∨ s.drivenStation f.dest = true) then some .drive
      else if p.maxPayload < f.payload.length then some .oversize else none := by
    unfold State.passRefusal
    rw [profile]
  rw [is, driven_iff]
  refine ⟨fun own => if_pos own, fun other drive => ?_, fun other free long => ?_, fun other free short => ?_⟩
  · rw [if_neg other, if_pos drive]
  · rw [if_neg other, if_neg free, if_pos long]
  · rw [if_neg other, if_neg free, if_neg (not_lt.2 short)]

/-! ## The FIFO (R164) -/

/-- A link frame as the FIFO holds it. -/
def Frame.passed (f : Frame) : OutFrame :=
  { dest := f.dest, kind := f.kind, tag := f.tag, payload := f.payload, origin := .link f.src }

theorem handDown_refused (s : State) (f : Frame) (reason : PassRefusal) (refused : s.passRefusal f = some reason) :
    s.handDown f = s.notify (.passthroughRefused reason f) := by
  unfold State.handDown
  rw [refused]

theorem handDown_passed (s : State) (f : Frame) (passes : s.passRefusal f = none) : s.handDown f = s.joinFifo f.passed := by
  unfold State.handDown
  rw [passes]
  rfl

theorem joinFifo_room (s : State) (f : OutFrame) (room : s.outbox.fifo.length < 32) :
    s.joinFifo f = { s with outbox := { s.outbox with fifo := s.outbox.fifo ++ [f] } } :=
  if_pos room

theorem joinFifo_replaces (s : State) (f : OutFrame) (full : 32 ≤ s.outbox.fifo.length) (indicate : f.kind = kindIndicate)
    (a b : List OutFrame) (g : OutFrame) (fifo : s.outbox.fifo = a ++ g :: b) (old : g.kind = kindIndicate ∧ g.dest = f.dest)
    (last : ∀ x ∈ b, ¬(x.kind = kindIndicate ∧ x.dest = f.dest)) :
    s.joinFifo f = { s with outbox := { s.outbox with fifo := a ++ f :: b } } := by
  have taken := replaceLast_some (fun g => g.kind == kindIndicate && g.dest == f.dest) f a b g (by simp [old])
    fun x hx => by simpa using last x hx
  unfold State.joinFifo
  rw [if_neg (not_lt.2 full), if_pos indicate, fifo, taken]

theorem joinFifo_drops (s : State) (f : OutFrame) (full : 32 ≤ s.outbox.fifo.length)
    (no_place : f.kind ≠ kindIndicate ∨ ∀ x ∈ s.outbox.fifo, ¬(x.kind = kindIndicate ∧ x.dest = f.dest)) :
    s.joinFifo f = s.dropFrame f := by
  unfold State.joinFifo
  rw [if_neg (not_lt.2 full)]
  split
  · next indicate =>
    rw [replaceLast_none _ _ _ fun x hx => by simpa using no_place.resolve_left (not_not_intro indicate) x hx]
  · rfl

/-- A passthrough frame dropped is reported with its header. -/
theorem dropFrame_passed (s : State) (f : Frame) : s.dropFrame f.passed =
    State.notify { s with line := { s.line with errors := { s.line.errors with full := true } } }
      (.passthroughRefused .outboxFull f) := rfl

/-! ## The head of the link receive queue -/

theorem handDown_notes (s : State) (f : Frame) : (s.handDown f).notes = s.notes := by
  unfold State.handDown
  split <;> simp

theorem exec_passthrough (s : State) (r : Received) (rest : List Received) (q : s.quiet) (rx : s.link.rx = r :: rest)
    (passing : r.request = false) :
    exec .passthrough s = .next (State.handDown { s with link := { s.link with rx := rest } } r.frame) := by
  have head : s.passHead = State.handDown { s with link := { s.link with rx := rest } } r.frame := by
    unfold State.passHead
    rw [rx]
    dsimp only
    rw [passing]
    rfl
  have quiet : (State.handDown { s with link := { s.link with rx := rest } } r.frame).quiet :=
    State.quiet_of_notes q (handDown_notes _ _)
  show Host.Outcome.next s.passHead.settle = _
  rw [head, State.settle_of_quiet _ quiet]

/-- Settles O11: one case of `passRefusal_cases` for each test, and one of the FIFO's for a frame that passes. -/
theorem passthroughTests : Obligations.PassthroughTests := by
  intro s r rest q rx passing f u new
  have row := exec_passthrough s r rest q rx passing
  refine ⟨fun bare => ?_, fun p profile => ?_⟩
  · have refused : u.passRefusal f = some .notProfiled := by
      unfold State.passRefusal
      rw [show u.line.profile = none from bare]
    rw [row, handDown_refused u f _ refused]
  · obtain ⟨ownStation, drive, oversize, passes⟩ := passRefusal_cases u f p profile
    have refuses : ∀ reason, u.passRefusal f = some reason → exec .passthrough s = .next (u.notify (.passthroughRefused reason f)) :=
      fun reason refused => row.trans (congrArg _ (handDown_refused u f reason refused))
    refine ⟨fun own => refuses _ (ownStation own), fun other => ?_⟩
    intro driven
    refine ⟨fun yes => refuses _ (drive other yes), fun no long => refuses _ (oversize other no long), fun no short => ?_⟩
    have joins : exec .passthrough s = .next (u.joinFifo new) :=
      row.trans (congrArg _ (handDown_passed u f (passes other no short)))
    refine ⟨fun room => joins.trans (congrArg _ (joinFifo_room u new room)), fun full indicate a g b fifo old dest last => ?_,
      fun full no_place => ?_⟩
    · exact joins.trans (congrArg _ (joinFifo_replaces u new full indicate a b g fifo ⟨old, dest⟩ last))
    · exact joins.trans (congrArg _ ((joinFifo_drops u new full no_place).trans (dropFrame_passed u f)))

end Sys2Proof.Machine
end

section
/-! An ACCEPT at the outbox (O14): R62, R164, R165. -/

namespace Sys2Proof.Machine

@[simp] theorem State.forward_notes (s : State) (f : Frame) : (s.forward f).notes = s.notes := by
  unfold State.forward
  split
  · exact s.queueLink_notes f
  · rfl

theorem setSlot_eq (s : State) (c : Nat) (m : Option SlotMove) :
    s.setSlot c m = { s with outbox := { s.outbox with slots := s.outbox.slots.set c m } } := by
  unfold State.setSlot
  rw [modify_eq_set_getD _ c _ none]

theorem modCar_eq_set (s : State) (c : Nat) (f : Carousel → Carousel) :
    s.modCar c f = { s with carousels := s.carousels.set c (f (s.car c)) } := by
  unfold State.modCar
  rw [modify_eq_set_getD _ c _ {}]
  rfl

/-- A move that has ended ignores the ACCEPT of its MOVE (R62). -/
theorem moveAccepted_ended (s : State) (c : Nat) (ended : (s.car c).state ≠ .moving) : s.moveAccepted c = s := by
  unfold State.moveAccepted
  split
  · exact if_neg ended
  · rfl

theorem moveAccepted_moving (s : State) (c : Nat) (p : Profile) (m : Move) (profile : (s.car c).profile = some p)
    (move : (s.car c).move = some m) (moving : (s.car c).state = .moving) :
    s.moveAccepted c = s.modCar c fun k => { k with
      moveTimer := some (s.now + (p.moveFixed + p.movePerCarrier * m.distance)) } := by
  unfold State.moveAccepted
  rw [profile, move]
  exact if_pos moving

theorem moveAccepted_notes (s : State) (c : Nat) : (s.moveAccepted c).notes = s.notes := by
  unfold State.moveAccepted
  split
  · split <;> rfl
  · rfl

theorem accepted_notes (s : State) (x : Sending) (f : Frame) : (s.accepted x f).notes = s.notes := by
  unfold State.accepted
  split
  · exact moveAccepted_notes _ _
  · rfl
  · split
    · rfl
    · exact State.forward_notes _ f

theorem takeAccept_notes (s : State) (f : Frame) : (s.takeAccept f).notes = s.notes := by
  unfold State.takeAccept
  split
  · split
    · exact accepted_notes s _ f
    · rfl
  · rfl

/-- The head of the line receive queue taken, with its follow-ups. -/
theorem exec_classifyFrame (s : State) (f : Frame) (rest : List Frame) (rx : s.line.rx = f :: rest) :
    exec .classifyFrame s = .next (State.settle
      (if f.kind = kindAccept then State.takeAccept { s with line := { s.line with rx := rest } } f
       else State.classify { s with line := { s.line with rx := rest } } f)) := by
  show Host.Outcome.next s.classifyHead.settle = _
  unfold State.classifyHead
  rw [rx]

/-- Settles O14: an ACCEPT notes no follow-up, and what it does is `State.accepted` by the frame's source. -/
theorem acceptEndsWait : Obligations.AcceptEndsWait := by
  intro s f rest q bounded rx accept u v
  have row : exec .classifyFrame s = .next (u.takeAccept f) := by
    rw [exec_classifyFrame s f rest rx, if_pos accept,
      State.settle_of_quiet _ (State.quiet_of_notes (s := u) q (takeAccept_notes u f))]
  refine ⟨fun x held differs => ?_, fun idle => ?_, fun x held dest tag => ?_⟩
  · rw [row, State.takeAccept, show u.outbox.tx.held = some x from held]
    exact congrArg _ (if_neg differs)
  · rw [row, State.takeAccept, show u.outbox.tx = .idle from idle]
    rfl
  · have ends : exec .classifyFrame s = .next (u.accepted x f) := by
      rw [row, State.takeAccept, show u.outbox.tx.held = some x from held]
      exact congrArg _ (if_pos ⟨dest, tag⟩)
    have slotted : ∀ c, x.source = .slot c → exec .classifyFrame s = .next (State.moveAccepted
        { v with outbox := { v.outbox with slots := s.outbox.slots.set c none } } c) := fun c source => by
      rw [ends, State.accepted, source]
      exact congrArg (fun t : State => Host.Outcome.next (t.moveAccepted c)) (setSlot_eq v c none)
    refine ⟨fun source => ?_, fun source origin => ?_, fun src source origin => ?_, fun c c8 source ended => ?_,
      fun c p m source c8 profile move moving => ?_⟩
    · rw [ends, State.accepted, source]
      rfl
    · rw [ends, State.accepted, source]
      dsimp only
      rw [origin]
      rfl
    · rw [ends, State.accepted, source]
      dsimp only
      rw [origin]
      rfl
    · exact (slotted c source).trans (congrArg _ (moveAccepted_ended _ c ended))
    · refine (slotted c source).trans (congrArg _ ?_)
      exact (moveAccepted_moving { v with outbox := { v.outbox with slots := s.outbox.slots.set c none } } c p m profile move
        moving).trans (modCar_eq_set ..)

end Sys2Proof.Machine
end

section
/-! A floor frame decided by the filter (O16): the first match of R160, the actions of R161 and the roles of R162. -/

namespace Sys2Proof.Machine

/-! ## The first place of a list that passes a test -/

theorem findIdx?_first {α : Type} (test : α → Bool) (l : List α) (i : Nat) (a : α) (there : l[i]? = some a)
    (passes : test a = true) (first : ∀ j < i, ∀ b, l[j]? = some b → test b = false) : l.findIdx? test = some i := by
  obtain ⟨lt, is⟩ := List.getElem?_eq_some_iff.1 there
  refine List.findIdx?_eq_some_iff_getElem.2 ⟨lt, is ▸ passes, fun j less => ?_⟩
  rw [first j less _ (List.getElem?_eq_getElem _)]
  exact Bool.false_ne_true

/-! ## Roles (R162) -/

/-- Carousel `c` names the station as its drive, mouth reader or mouth keypad. -/
def State.names (s : State) (station : Byte) (c : Nat) : Prop :=
  c < 8 ∧ ∃ p, (s.car c).profile = some p ∧ (station = p.drive ∨ station = p.reader ∨ station = p.keypad)

theorem carouselRole_unnamed (s : State) (station : Byte) (c : Nat) (c8 : c < 8) (unnamed : ¬s.names station c) :
    s.carouselRole station c = none := by
  unfold State.carouselRole
  split
  · rfl
  · next p profile =>
    have other : ∀ x, x = p.drive ∨ x = p.reader ∨ x = p.keypad → x ≠ station := fun x own same =>
      unnamed ⟨c8, p, profile, same ▸ own⟩
    rw [if_neg (other _ (.inl rfl)), if_neg (other _ (.inr (.inl rfl))), if_neg (other _ (.inr (.inr rfl)))]

/-- The first carousel that names a station gives it its role. -/
theorem role_of_first (s : State) (station : Byte) (c : Nat) (r : Role) (c8 : c < 8)
    (first : ∀ d < c, ¬s.names station d) (own : s.carouselRole station c = some r) : s.role station = some r := by
  obtain ⟨before, after, split⟩ := List.append_of_mem (List.mem_range.2 c8)
  have less : ∀ d ∈ before, d < c := fun d mem =>
    (List.pairwise_append.1 (split ▸ List.pairwise_lt_range)).2.2 d mem c List.mem_cons_self
  have found : (List.range 8).findSome? (s.carouselRole station) = some r :=
    List.findSome?_eq_some_iff.2 ⟨before, c, after, split, own, fun d mem =>
      carouselRole_unnamed s station d ((less d mem).trans c8) (first d (less d mem))⟩
  unfold State.role
  rw [found]

/-- A station that no carousel names has its role from the site record. -/
theorem role_of_site (s : State) (station : Byte) (unnamed : ∀ c, ¬s.names station c) :
    s.role station = s.putAway.site.bind fun x => x.role station := by
  have no_carousel : (List.range 8).findSome? (s.carouselRole station) = none :=
    List.findSome?_eq_none_iff.2 fun c mem => carouselRole_unnamed s station c (List.mem_range.1 mem) (unnamed c)
  unfold State.role
  rw [no_carousel]
  cases s.putAway.site <;> rfl

/-- The roles of the site record, in the order they are looked up. -/
theorem siteRole_cases (x : Site) (station : Byte) :
    (station = x.infeed → x.role station = some .infeed) ∧
    (∀ n, station ≠ x.infeed → x.laneReaders[n]? = some station → (∀ m < n, x.laneReaders[m]? ≠ some station) →
      x.role station = some (.lane n)) ∧
    (station ≠ x.infeed → station ∉ x.laneReaders → x.role station = none ∨ x.role station = some .diverter) := by
  unfold Site.role
  refine ⟨fun same => if_pos same.symm, fun n other there first => ?_, fun other no_lane => ?_⟩
  · have found := findIdx?_first (· == station) x.laneReaders n station there (beq_self_eq_true station)
      fun m less b at_ => beq_eq_false_iff_ne.2 fun same => first m less (same ▸ at_)
    rw [if_neg other.symm, found]
  · have none_found : x.laneReaders.findIdx? (· == station) = none :=
      List.findIdx?_eq_none_iff.2 fun b mem => beq_eq_false_iff_ne.2 fun same => no_lane (same ▸ mem)
    rw [if_neg other.symm, none_found]
    dsimp only
    split
    · exact .inr rfl
    · exact .inl rfl

/-! ## Delivery (R162, R187) -/

/-- What a TAG-READ does at the reader whose operation is `take`; no other kind is taken there. -/
def Frame.readBy (f : Frame) (take : List Tally → State) : Option State :=
  if f.kind = kindTagRead then (readTagRead f.payload).map take else none

section Delivery

variable (s : State) (f : Frame)

theorem deliver_drive (c : Nat) (role : s.role f.src = some (.drive c)) :
    (f.kind = kindArrived → s.deliver f = (readArrived f.payload).map fun a => s.arrived c a.1 a.2.1 a.2.2) ∧
    (f.kind = kindDriveState → s.deliver f = (readDriveState f.payload).map fun d => s.driveState c d.1 d.2) ∧
    (f.kind ≠ kindArrived → f.kind ≠ kindDriveState → s.deliver f = none) := by
  unfold State.deliver
  rw [role]
  dsimp only
  refine ⟨fun arrived => if_pos arrived, fun state => ?_, fun no_arrived no_state => ?_⟩
  · rw [if_neg (by rw [state]; decide), if_pos state]
  · rw [if_neg no_arrived, if_neg no_state]

/-- Delivery where the source is no drive: the operation of its role, if there is one. -/
theorem deliver_role (r : Option Role) (role : s.role f.src = r) :
    (∀ c, r = some (.reader c) → s.deliver f = f.readBy (s.mouthRead c)) ∧
    (∀ c, r = some (.keypad c) → s.deliver f = if f.kind = kindKey then (readKey f.payload).map (s.mouthKey c) else none) ∧
    (r = some .infeed → s.deliver f = f.readBy s.queueRead) ∧
    (∀ n, r = some (.lane n) → s.deliver f = f.readBy (s.arrival n)) ∧
    (r = none ∨ r = some .diverter → s.deliver f = none) := by
  unfold State.deliver
  rw [role]
  refine ⟨?_, ?_, ?_, ?_, ?_⟩
  · rintro c rfl
    rfl
  · rintro c rfl
    rfl
  · rintro rfl
    rfl
  · rintro n rfl
    rfl
  · rintro (rfl | rfl)
    · rfl
    · rfl

/-- Delivery to the first carousel that names the source: its drive, else its mouth reader, else its keypad. -/
theorem deliver_carousel (c : Nat) (p : Profile) (c8 : c < 8) (profile : (s.car c).profile = some p)
    (first : ∀ d < c, ¬s.names f.src d) :
    (f.src = p.drive →
      (f.kind = kindArrived → s.deliver f = (readArrived f.payload).map fun a => s.arrived c a.1 a.2.1 a.2.2) ∧
      (f.kind = kindDriveState → s.deliver f = (readDriveState f.payload).map fun d => s.driveState c d.1 d.2) ∧
      (f.kind ≠ kindArrived → f.kind ≠ kindDriveState → s.deliver f = none)) ∧
    (f.src ≠ p.drive → f.src = p.reader → s.deliver f = f.readBy (s.mouthRead c)) ∧
    (f.src ≠ p.drive → f.src ≠ p.reader → f.src = p.keypad →
      s.deliver f = if f.kind = kindKey then (readKey f.payload).map (s.mouthKey c) else none) := by
  have roles : s.carouselRole f.src c = if p.drive = f.src then some (.drive c) else if p.reader = f.src then some (.reader c)
      else if p.keypad = f.src then some (.keypad c) else none := by
    unfold State.carouselRole
    rw [profile]
  have role : ∀ r, s.carouselRole f.src c = some r → s.role f.src = some r := fun r => role_of_first s f.src c r c8 first
  obtain ⟨reader, keypad, _⟩ := deliver_role s f _ rfl
  refine ⟨fun drive => deliver_drive s f c (role _ ?_), fun no_drive own => reader c (role _ ?_),
    fun no_drive no_reader own => keypad c (role _ ?_)⟩
  · rw [roles, if_pos drive.symm]
  · rw [roles, if_neg (Ne.symm no_drive), if_pos own.symm]
  · rw [roles, if_neg (Ne.symm no_drive), if_neg (Ne.symm no_reader), if_pos own.symm]

/-- Delivery by the site record, where no carousel names the source. -/
theorem deliver_site (unnamed : ∀ c, ¬s.names f.src c) :
    (s.putAway.site = none → s.deliver f = none) ∧
    ∀ x, s.putAway.site = some x →
      (f.src = x.infeed → s.deliver f = f.readBy s.queueRead) ∧
      (∀ n, f.src ≠ x.infeed → x.laneReaders[n]? = some f.src → (∀ m < n, x.laneReaders[m]? ≠ some f.src) →
        s.deliver f = f.readBy (s.arrival n)) ∧
      (f.src ≠ x.infeed → f.src ∉ x.laneReaders → s.deliver f = none) := by
  have role := role_of_site s f.src unnamed
  obtain ⟨_, _, infeed, lane, nowhere⟩ := deliver_role s f _ role
  refine ⟨fun bare => nowhere (.inl (by rw [bare]; rfl)), fun x site => ?_⟩
  rw [site] at infeed lane nowhere
  obtain ⟨at_infeed, at_lane, elsewhere⟩ := siteRole_cases x f.src
  exact ⟨fun own => infeed (at_infeed own), fun n other there first => lane n (at_lane n other there first),
    fun other no_lane => nowhere (elsewhere other no_lane)⟩

end Delivery

/-! ## The filter (R160) -/

/-- A valid element matches a frame by source and kind (Table 9-2). -/
def FilterElement.fits (e : FilterElement) (f : Frame) : Prop :=
  e.valid = true ∧ (e.kind = none ∨ e.kind = some f.kind) ∧
    match e.matchType with
    | .exact => f.src = e.a
    | .range => e.a ≤ f.src ∧ f.src ≤ e.b
    | .mask => ∀ i < 8, e.b.getLsbD i = true → f.src.getLsbD i = e.a.getLsbD i

theorem mask_iff (x a b : Byte) : x &&& b = a &&& b ↔ ∀ i < 8, b.getLsbD i = true → x.getLsbD i = a.getLsbD i := by
  constructor
  · intro same i _ set
    have bit := congrArg (fun y : Byte => y.getLsbD i) same
    simpa [set] using bit
  · intro same
    refine BitVec.eq_of_getLsbD_eq fun i lt => ?_
    rw [BitVec.getLsbD_and, BitVec.getLsbD_and]
    cases set : b.getLsbD i with
    | false => rw [Bool.and_false, Bool.and_false]
    | true => rw [same i lt set]

theorem isMatch_iff (e : FilterElement) (f : Frame) : e.isMatch f = true ↔ e.fits f := by
  have source : e.sourceMatches f.src = true ↔ match e.matchType with
      | .exact => f.src = e.a
      | .range => e.a ≤ f.src ∧ f.src ≤ e.b
      | .mask => ∀ i < 8, e.b.getLsbD i = true → f.src.getLsbD i = e.a.getLsbD i := by
    unfold FilterElement.sourceMatches
    cases e.matchType with
    | exact => exact beq_iff_eq
    | range => simp
    | mask => exact beq_iff_eq.trans (mask_iff ..)
  have kind : (match e.kind with | none => true | some k => k == f.kind) = true ↔ e.kind = none ∨ e.kind = some f.kind := by
    cases e.kind <;> simp
  unfold FilterElement.isMatch FilterElement.fits
  rw [Bool.and_eq_true, Bool.and_eq_true, source, and_assoc]
  exact and_congr_right' (and_comm.trans (and_congr_left' kind))

theorem deciding_first (s : State) (f : Frame) (i : Nat) (e : FilterElement) (there : s.filter[i]? = some e) (fit : e.fits f)
    (first : ∀ j < i, ∀ d, s.filter[j]? = some d → ¬d.fits f) : s.deciding f = some (i, e) := by
  have found := findIdx?_first (fun e => e.isMatch f) s.filter i e there ((isMatch_iff e f).2 fit) fun j less d at_ =>
    Bool.eq_false_iff.2 fun matched => first j less d at_ ((isMatch_iff d f).1 matched)
  unfold State.deciding
  rw [found]
  dsimp only
  rw [there]
  rfl

theorem deciding_none (s : State) (f : Frame) (unfit : ∀ e ∈ s.filter, ¬e.fits f) : s.deciding f = none := by
  have none_found : s.filter.findIdx? (fun e => e.isMatch f) = none := List.findIdx?_eq_none_iff.2 fun e mem =>
    Bool.eq_false_iff.2 fun matched => unfit e mem ((isMatch_iff e f).1 matched)
  unfold State.deciding
  rw [none_found]

/-! ## The action (R161) -/

/-- URGENT-FRAME for an urgent element. -/
def FilterElement.report (e : FilterElement) (i : Nat) (f : Frame) (t : State) : State :=
  if e.urgent then t.notify (.urgentFrame i f) else t

theorem report_notes (e : FilterElement) (i : Nat) (f : Frame) (t : State) : (e.report i f t).notes = t.notes := by
  unfold FilterElement.report
  split
  · exact t.notify_notes _
  · rfl

theorem classify_decided (s : State) (f : Frame) (i : Nat) (e : FilterElement) (decided : s.deciding f = some (i, e)) :
    s.classify f = e.report i f (s.act f e.action) := by
  unfold State.classify
  rw [decided]
  rfl

theorem act_undelivered (s : State) (f : Frame) (a : FilterAction) (delivers : a = .deliver ∨ a = .copy)
    (untaken : s.deliver f = none) : s.act f a = s.forward f := by
  unfold State.act
  rcases delivers with rfl | rfl
  · dsimp only
    rw [untaken]
  · dsimp only
    rw [untaken]

theorem act_delivered (s v : State) (f : Frame) (taken : s.deliver f = some v) :
    s.act f .deliver = v ∧ s.act f .copy = v.forward f := by
  unfold State.act
  dsimp only
  rw [taken]
  exact ⟨rfl, rfl⟩

theorem classify_global (s : State) (f : Frame) (undecided : s.deciding f = none) :
    s.classify f = if s.line.profile.map LineProfile.rule = some .discard then s else s.forward f := by
  unfold State.classify State.globalRule
  rw [undecided]
  cases s.line.profile with
  | none => rfl
  | some p =>
    obtain ⟨_, _, _, _, rule⟩ := p
    cases rule <;> rfl

/-- Settles O16: the roles by `deliver_carousel` and `deliver_site`; the element that decides by `deciding_first`, and what
it does by the lemmas on `State.act`. -/
theorem firstMatchDecides : Obligations.FirstMatchDecides := by
  constructor
  · intro s f holds reads
    exact ⟨fun c p c8 profile first => deliver_carousel s f c p c8 profile first, fun unnamed => deliver_site s f unnamed⟩
  intro s f rest q rx other u fits
  have row : exec .classifyFrame s = .next (u.classify f).settle := by
    rw [exec_classifyFrame s f rest rx, if_neg other]
  have quietly : ∀ t : State, u.classify f = t → t.notes = u.notes → exec .classifyFrame s = .next t := fun t is notes => by
    rw [row, is, State.settle_of_quiet t (State.quiet_of_notes (s := u) q notes)]
  refine ⟨fun i e there fit first => ?_, fun unfit => ?_⟩
  · intro urgent
    have decided := classify_decided u f i e (deciding_first u f i e there fit first)
    have acts : ∀ t : State, u.act f e.action = t → t.notes = u.notes → exec .classifyFrame s = .next (urgent t) :=
      fun t is notes => quietly _ (decided.trans (congrArg _ is)) ((report_notes ..).trans notes)
    have forwards := acts (u.forward f)
    refine ⟨fun discard => acts u (by rw [discard]; rfl) rfl, fun forward => forwards (by rw [forward]; rfl) (u.forward_notes f),
      fun delivers untaken => forwards (act_undelivered u f _ delivers untaken) (u.forward_notes f), fun v taken => ?_⟩
    obtain ⟨delivered, copied⟩ := act_delivered u v f taken
    refine ⟨fun deliver => ?_, fun copy => ?_⟩
    · rw [row, decided, deliver, delivered]
      rfl
    · rw [row, decided, copy, copied]
      rfl
  · refine quietly _ (classify_global u f (deciding_none u f unfit)) ?_
    split
    · rfl
    · exact u.forward_notes f

end Sys2Proof.Machine
end

section
/-! What the follow-ups of a step do to the outbox and to the claims on the power budget: a service point writes the slot and
the claim of its own carousel alone, and takes no frame but an INDICATE out of the FIFO (R36, R58, R164). -/

namespace Sys2Proof.Machine

/-! ## Relations that the follow-ups keep -/

/-- A relation between the part before and after that everything the follow-ups of a step are made of keeps. -/
structure FollowRelated (R : State → State → Prop) : Prop where
  refl : ∀ s, R s s
  trans : ∀ {s t u}, R s t → R t u → R s u
  notes : ∀ s a n r, R s { s with agenda := a, choices := n, orderUnit := { s.orderUnit with retry := r } }
  queue : ∀ s c f, (∀ k : Carousel, (f k).unqueued = k.unqueued) → R s (s.modCar c f)
  point : ∀ s c, R s (s.servicePoint c)
  held : ∀ s n id, R s (s.modOrder n fun o => { o with held := o.held ++ [id] })
  allotted : ∀ s o ref plan ids, R s (s.allotted o ref plan ids)

namespace FollowRelated

variable {R : State → State → Prop} (h : FollowRelated R) (s : State)
include h

theorem foldl {α : Type} (f : State → α → State) (one : ∀ s a, R s (f s a)) (l : List α) (s : State) : R s (l.foldl f s) := by
  induction l generalizing s with
  | nil => exact h.refl s
  | cons a l ih => exact h.trans (one s a) (ih _)

theorem agenda (a : Agenda) : R s { s with agenda := a } := h.notes s a s.choices s.orderUnit.retry

theorem servicePoints (l : List Nat) : R s (s.servicePoints l) := by
  obtain ⟨_, n, arranged⟩ := arrange_perm s (l.filter s.idleReady)
  refine h.trans ?_ (h.foldl _ h.point _ _)
  rw [arranged]
  exact h.notes s s.agenda n s.orderUnit.retry

theorem placeTask (o : Order) (id : Nat) : R s (s.placeTask o id) := by
  unfold State.placeTask State.joinTail
  split
  · exact h.held s _ id
  · split
    · exact h.trans (h.queue s _ _ fun k => modQueue_unqueued k _ _) (h.point _ _)
    · exact h.refl s

theorem allocateGroup (ref : GroupRef) : R s (s.allocateGroup ref).1 := by
  rcases allocateGroup_cases s ref with refused | ⟨o, plan, ids, _, _, _, made⟩
  · rw [refused]
    exact h.refl s
  · rw [made]
    exact h.trans (h.allotted s o ref plan ids) (h.foldl _ (fun v => h.placeTask v o) ids _)

theorem runRetries (n : Nat) : R s (State.runRetries n s) := by
  induction n generalizing s with
  | zero => exact h.refl s
  | succ n ih =>
    unfold State.runRetries
    split
    · exact h.refl s
    · refine h.trans (h.trans (h.notes s s.agenda s.choices .none) (h.foldl _ (fun v ref => ?_) _ _)) (ih _)
      unfold State.retryGroup
      split
      · exact h.allocateGroup v ref
      · exact h.refl v

/-- So the follow-ups of a step keep it (log 8). -/
theorem settle : R s s.settle := by
  have freed : R s s.serveFreed := by
    unfold State.serveFreed
    split
    · exact h.trans (h.agenda s _) (h.servicePoints _ _)
    · exact h.refl s
  exact h.trans (h.trans freed (h.runRetries _ 4)) (h.trans (h.agenda _ _) (h.servicePoints _ _))

end FollowRelated

/-! ## One frame -/

/-- Carousel `c` is worked on: of the slots and claims those of `c` alone change, and every frame of the FIFO but an INDICATE
stays in it. `s` is the part before, `t` after. -/
structure State.WorksOn (c : Nat) (s t : State) : Prop where
  frames : ∀ h ∈ s.outbox.fifo, h.kind ≠ kindIndicate → h ∈ t.outbox.fifo
  slots : ∀ d, d ≠ c → t.slot d = s.slot d
  claims : ∀ x ∈ t.power.claims, x ∈ s.power.claims ∨ x.carousel = c

namespace State.WorksOn

variable {c : Nat}

theorem of_eq {s t : State} (outbox : t.outbox = s.outbox) (claims : t.power.claims = s.power.claims) : s.WorksOn c t :=
  ⟨fun _ mem _ => outbox ▸ mem, fun d _ => by rw [State.slot, outbox, State.slot], fun _ mem => .inl (claims ▸ mem)⟩

theorem refl (s : State) : s.WorksOn c s := of_eq rfl rfl

theorem trans {s t u : State} (a : s.WorksOn c t) (b : t.WorksOn c u) : s.WorksOn c u where
  frames := fun h mem kind => b.frames h (a.frames h mem kind) kind
  slots := fun d other => (b.slots d other).trans (a.slots d other)
  claims := fun x mem => (b.claims x mem).elim (a.claims x) .inr

theorem joinFifo (s : State) (f : OutFrame) : s.WorksOn c (s.joinFifo f) := by
  have dropped : s.WorksOn c (s.dropFrame f) := of_eq (dropFrame_outbox s f) (by
    unfold State.dropFrame State.reportLost
    dsimp only
    split
    · split <;> rfl
    · rw [notify_frame]
      split <;> rfl)
  unfold State.joinFifo
  split
  · exact ⟨fun _ mem _ => List.mem_append_left _ mem, fun _ _ => rfl, fun _ => .inl⟩
  · split
    · split
      · next m replaced =>
        refine ⟨fun h mem kind => (replaceLast_length_mem _ f _ m replaced).2 h mem ?_, fun _ _ => rfl, fun _ => .inl⟩
        rw [beq_false_of_ne kind, Bool.false_and]
      · exact dropped
    · exact dropped

theorem build (s : State) (dest kind : Byte) (payload : List Byte) (entry : Option Nat) :
    s.WorksOn c (s.build dest kind payload entry) :=
  trans (t := s.takeTag.2) ⟨fun _ mem _ => mem, fun _ _ => rfl, fun _ => .inl⟩ (joinFifo _ _)

theorem indicate (s : State) (d bay : Nat) (action : Indication) (quantity width : Nat) :
    s.WorksOn c (s.indicate d bay action quantity width) := by
  unfold State.indicate
  split
  · exact build s _ _ _ _
  · exact refl s

theorem indicateTask (s : State) (d : Nat) (k : Task) : s.WorksOn c (s.indicateTask d k) := by
  unfold State.indicateTask
  split
  · exact indicate s d _ _ _ _
  · exact indicate s d _ _ _ _

theorem sendScan (s : State) (d carrier : Nat) : s.WorksOn c (s.sendScan d carrier) := by
  unfold State.sendScan
  split
  · exact build s _ _ _ _
  · exact refl s

/-! ## Service points (R58) -/

variable (s : State) (c : Nat)

theorem present : s.WorksOn c (s.present c) := by
  unfold State.present
  split
  · next id _ =>
    have shown : s.WorksOn c ((s.taskState id .presenting).modCar c fun k =>
        { k with state := .presenting, presentationTimer := some (s.now + s.presentationMs) }) := of_eq rfl rfl
    dsimp only
    split
    · exact shown.trans (indicateTask _ c _)
    · exact shown
  · split
    · have shown : s.WorksOn c (s.modCar c fun k => { k with state := .presenting }) := of_eq rfl rfl
      exact (shown.trans (sendScan _ c _)).trans (of_eq rfl rfl)
    · exact refl s
  · exact refl s

theorem startMove (t : State) (level target : Nat) (moved : s.startMove c level target = some t) : s.WorksOn c t := by
  obtain ⟨_, claims, _, _⟩ := startMove_power s t c level target moved
  refine ⟨fun h mem _ => ?_, (startMove_offerFrame s t c level target moved).2, claims⟩
  · rw [startMove_fifo s t c level target moved]
    exact mem

theorem beginWork (w : Work) (level target : Nat) : s.WorksOn c (s.beginWork c w level target) := by
  have served : s.WorksOn c (s.modCar c fun k => { k with inService := some w }) := of_eq rfl rfl
  unfold State.beginWork
  dsimp only
  split
  · exact served.trans (present _ c)
  · split
    · next moved => exact served.trans (startMove _ c _ level target moved)
    · refine served.trans ?_
      unfold State.enterWait
      dsimp only
      split
      · exact of_eq rfl rfl
      · exact of_eq rfl rfl

theorem releaseTransit (t : State) (id : Nat) (k : Task) (granted : s.releaseTransit id k = some t) : s.WorksOn c t := by
  unfold State.releaseTransit at granted
  split at granted
  · obtain ⟨u, room, rfl⟩ := Option.map_eq_some_iff.1 granted
    unfold State.grant at room
    split at room
    · cases room
      exact of_eq rfl rfl
    · cases room
  · cases granted
    exact refl s

theorem attemptRelease (id : Nat) (k : Task) : s.WorksOn c (s.attemptRelease c id k).1 := by
  unfold State.attemptRelease
  split
  · split
    · next t granted =>
      have off : t.WorksOn c (t.modCar c fun x => x.unqueue id) := of_eq rfl rfl
      exact ((releaseTransit s c t id k granted).trans off).trans (beginWork _ c _ _ _)
    · exact refl s
  · exact of_eq rfl rfl

theorem walk (l : List Nat) : s.WorksOn c (State.walk c l s).1 := by
  induction l generalizing s with
  | nil => exact refl s
  | cons id rest ih =>
    unfold State.walk
    split
    · exact ih s
    · next k _ =>
      split
      · have tried := attemptRelease s c id k
        split
        · next e => rw [e] at tried; exact tried
        · next e => rw [e] at tried; exact tried.trans (ih _)
      · exact ih s

theorem servicePoint : s.WorksOn c (s.servicePoint c) := by
  by_cases idle : s.idleReady c = true
  · rw [servicePoint_idle s c idle]
    refine (walk s c (s.car c).walkOrder).trans ?_
    unfold State.afterWalk State.releaseStep
    split
    · exact refl _
    · split
      · split
        · exact beginWork _ c _ _ _
        · exact refl _
      · exact refl _
  · rw [servicePoint_busy s c idle]
    exact refl s

end State.WorksOn

/-! ## The follow-ups -/

/-- Every frame of the FIFO but an INDICATE stays in it, and a carousel that takes no service points takes none still, keeps
its slot and is given no claim. `s` is the part before, `t` after. -/
structure State.LeavesBusy (s t : State) : Prop where
  frames : ∀ h ∈ s.outbox.fifo, h.kind ≠ kindIndicate → h ∈ t.outbox.fifo
  idle : ∀ d, s.idleReady d = false → t.idleReady d = false
  slots : ∀ d, s.idleReady d = false → t.slot d = s.slot d
  claims : ∀ d, s.idleReady d = false → s.hasClaim d = false → t.hasClaim d = false

theorem State.LeavesBusy.of_eq {s t : State} (outbox : t.outbox = s.outbox) (power : t.power = s.power)
    (idle : ∀ d, t.idleReady d = s.idleReady d) : s.LeavesBusy t where
  frames := fun _ mem _ => outbox ▸ mem
  idle := fun d busy => (idle d).trans busy
  slots := fun d _ => by rw [State.slot, outbox, State.slot]
  claims := fun d _ unclaimed => by rw [State.hasClaim, power]; exact unclaimed

theorem leavesBusy_related : FollowRelated State.LeavesBusy where
  refl := fun s => .of_eq rfl rfl fun _ => rfl
  trans := fun a b =>
    { frames := fun h mem kind => b.frames h (a.frames h mem kind) kind
      idle := fun d busy => b.idle d (a.idle d busy)
      slots := fun d busy => (b.slots d (a.idle d busy)).trans (a.slots d busy)
      claims := fun d busy unclaimed => b.claims d (a.idle d busy) (a.claims d busy unclaimed) }
  notes := fun s a n r => .of_eq rfl rfl fun _ => rfl
  queue := fun s c f same => .of_eq rfl rfl fun d => (s.keeps_queues (fun _ => True) c f same).idle trivial
  held := fun s n id => .of_eq rfl rfl fun _ => rfl
  allotted := fun s o ref plan ids => by
    rw [allotted_frame]
    exact .of_eq rfl rfl fun _ => rfl
  point := fun s c => by
    have works := State.WorksOn.servicePoint s c
    have other : ∀ d, s.idleReady d = false → s.servicePoint c = s ∨ d ≠ c := fun d busy => by
      by_cases same : d = c
      · exact .inl (servicePoint_busy s c (by simp [← same, busy]))
      · exact .inr same
    refine ⟨works.frames, fun d busy => ((s.follows_servicePoint c).idle busy).trans busy, fun d busy => ?_,
      fun d busy unclaimed => ?_⟩
    · rcases other d busy with same | ne
      · rw [same]
      · exact works.slots d ne
    · rcases other d busy with same | ne
      · rw [same]
        exact unclaimed
      · rw [State.hasClaim, List.any_eq_false] at unclaimed ⊢
        intro x mem
        rcases works.claims x mem with old | new
        · exact unclaimed x old
        · simp [new, ne.symm]

theorem settle_leavesBusy (s : State) : s.LeavesBusy s.settle := leavesBusy_related.settle s

end Sys2Proof.Machine
end

section
/-! What the part gives up where a carousel's work is returned while the stop pair is held (R65, R68, R159): the frame
`State.Halts`, once for each operation that R68 is made of. -/

namespace Sys2Proof.Machine

theorem lineHeld_congr {s t : State} (line : t.line = s.line) : t.lineHeld = s.lineHeld := by
  rw [State.lineHeld, line, State.lineHeld]

/-! ## What the stop pair never touches -/

namespace State.OffThePair

theorem refl (s : State) : s.OffThePair s :=
  ⟨rfl, rfl, rfl, rfl, fun _ => ⟨rfl, rfl⟩, rfl, rfl, rfl, rfl, rfl, ⟨rfl, rfl⟩, rfl⟩

theorem trans {s t u : State} (a : s.OffThePair t) (b : t.OffThePair u) : s.OffThePair u where
  now := b.now.trans a.now
  filter := b.filter.trans a.filter
  articles := b.articles.trans a.articles
  balances := b.balances.trans a.balances
  counts := fun id => ⟨(b.counts id).1.trans (a.counts id).1, (b.counts id).2.trans (a.counts id).2⟩
  putAway := b.putAway.trans a.putAway
  lanes := b.lanes.trans a.lanes
  transit := b.transit.trans a.transit
  target := b.target.trans a.target
  discrepancies := b.discrepancies.trans a.discrepancies
  line := ⟨b.line.1.trans a.line.1, b.line.2.trans a.line.2⟩
  pending := b.pending.trans a.pending

/-- The frame of the follow-ups is off the pair. -/
theorem of_keeps {p : Nat → Prop} {s t : State} (k : s.Keeps p t) : s.OffThePair t where
  now := k.now
  filter := k.filter
  articles := k.articles
  balances := k.balances
  counts := fun id => ⟨(congrArg Bay.count (keeps_bay k id) :), (congrArg Bay.holds (keeps_bay k id) :)⟩
  putAway := k.putAway
  lanes := k.lanes
  transit := k.transit
  target := k.power.1
  discrepancies := (congrArg AuditUnit.list k.audit :)
  line := by
    rw [k.line]
    exact ⟨rfl, rfl⟩
  pending := k.pending

theorem notify (s : State) (n : Notice) : s.OffThePair (s.notify n) := by
  rw [notify_frame]
  exact { refl s with }

end State.OffThePair

/-! ## The frame of a halt -/

/-- What a halt of the carousels that `p` names leaves: all that is off the pair, the frames but for MOVEs taken out of slots
of those carousels, the other carousels but for their queues; no claim is added, and notices join the link's transmit
queue. `s` is the part before, `t` after. -/
structure State.Halts (p : Nat → Prop) (s t : State) : Prop where
  off : s.OffThePair t
  line : t.line = s.line
  outbox : t.outbox = { s.outbox with slots := t.outbox.slots }
  slots : ∀ d, t.slot d = s.slot d ∨ p d ∧ t.slot d = none
  others : ∀ d, ¬p d → (t.car d).unqueued = (s.car d).unqueued
  length : t.carousels.length = s.carousels.length
  claims : ∀ x ∈ t.power.claims, x ∈ s.power.claims
  tail : s.link.tx <+: t.link.tx

namespace State.Halts

variable {p : Nat → Prop}

theorem refl (s : State) : s.Halts p s :=
  ⟨.refl s, rfl, rfl, fun _ => .inl rfl, fun _ _ => rfl, rfl, fun _ => id, List.prefix_rfl⟩

theorem trans {s t u : State} (a : s.Halts p t) (b : t.Halts p u) : s.Halts p u where
  off := a.off.trans b.off
  line := b.line.trans a.line
  outbox := by rw [b.outbox, a.outbox]
  slots := fun d => by
    rcases b.slots d with same | emptied
    · exact (a.slots d).imp same.trans (And.imp_right same.trans)
    · exact .inr emptied
  others := fun d other => (b.others d other).trans (a.others d other)
  length := b.length.trans a.length
  claims := fun x mem => a.claims x (b.claims x mem)
  tail := a.tail.trans b.tail

theorem weaken {q : Nat → Prop} {s t : State} (a : s.Halts p t) (more : ∀ d, p d → q d) : s.Halts q t :=
  { a with
    slots := fun d => (a.slots d).imp_right (And.imp_left (more d))
    others := fun d other => a.others d (mt (more d) other) }

theorem unclaimed {s t : State} (a : s.Halts p t) {c : Nat} (before : s.hasClaim c = false) : t.hasClaim c = false := by
  rw [State.hasClaim, List.any_eq_false] at before ⊢
  exact fun x mem => before x (a.claims x mem)

/-- An emptied slot stays empty. -/
theorem slot_none {s t : State} (a : s.Halts p t) {c : Nat} (before : s.slot c = none) : t.slot c = none :=
  (a.slots c).elim (·.trans before) And.right

/-! ## Single changes -/

variable (s : State)

theorem modCar (c : Nat) (f : Carousel → Carousel) (here : p c) (profile : ∀ k, (f k).profile = k.profile) :
    s.Halts p (s.modCar c f) :=
  { refl s with
    off := { OffThePair.refl s with
      counts := fun id => by
        rw [bay_modCar s c f profile]
        exact ⟨rfl, rfl⟩ }
    others := fun d other => by
      rw [State.car_modCar, if_neg fun at_ : c = d ∧ _ => other (at_.1 ▸ here)]
    length := List.length_modify .. }

theorem queues (c : Nat) (f : Carousel → Carousel) (same : ∀ k, (f k).unqueued = k.unqueued) : s.Halts p (s.modCar c f) :=
  { refl s with
    off := .of_keeps (s.keeps_queues (fun _ => True) c f same)
    others := fun d _ => (s.keeps_queues (fun _ => True) c f same).busy d trivial
    length := List.length_modify .. }

theorem orderUnit (o : OrderUnit) : s.Halts p { s with orderUnit := o } := { refl s with off := { OffThePair.refl s with } }

theorem leaveWait (c : Nat) : s.Halts p (s.leaveWait c) := { refl s with off := { OffThePair.refl s with } }

theorem giveBack (n : Nat) : s.Halts p (s.giveBack n) := by
  rw [giveBack_eq]
  exact { refl s with off := { OffThePair.refl s with } }

theorem notify (n : Notice) : s.Halts p (s.notify n) := by
  have off := OffThePair.notify s n
  have tail := notify_tx_prefix s n
  rw [notify_frame] at off ⊢
  exact { refl s with off, tail }

theorem dropClaim (c : Nat) : s.Halts p { s with power := s.power.dropClaim c } :=
  { refl s with
    off := { OffThePair.refl s with }
    claims := fun _ => List.mem_of_mem_filter }

theorem setSlot_none (c : Nat) (here : p c) : s.Halts p (s.setSlot c none) :=
  { refl s with
    off := { OffThePair.refl s with }
    outbox := rfl
    slots := fun d => by
      have read : (s.setSlot c none).slot d = _ := getD_modify s.outbox.slots c d (fun _ => none) none
      rw [read]
      split
      · next at_ => exact .inr ⟨at_.1 ▸ here, rfl⟩
      · exact .inl rfl }

/-! ## The return of the work (R65) -/

theorem endSweep (c : Nat) (cause : SweepCause) (here : p c) : s.Halts p (s.endSweep c cause) := by
  cases sweep : (s.car c).sweep with
  | none =>
    unfold State.endSweep
    rw [sweep]
    exact refl s
  | some w =>
    rw [endSweep_some s c cause w sweep]
    have noticed := notify (p := p) s (.auditDone c w.number (s.sweepRecord c).origin cause w.done w.mismatches)
    have cleared := noticed.trans (modCar _ c (fun k => { k with sweep := none }) here fun _ => rfl)
    exact { cleared with off := { cleared.off with discrepancies := rfl } }

/-- The end of a task (R54) changes bay records in what is promised and awaited, the order unit, and the entries reserved. -/
theorem endTask (id : Nat) : s.Halts p (s.endTask id) := by
  cases task : s.task id with
  | none =>
    unfold State.endTask
    rw [task]
    exact refl s
  | some k =>
    have ended := endTask_ended s id true
    have holds : ∀ j, ((s.endTask id).bay j).holds = (s.bay j).holds := fun j => by
      cases kind : k.kind with
      | pick =>
        rw [endTask_bay_pick s id k task kind]
        exact bay_modBay_field Bay.holds s k.bay (fun b => { b with reserved := b.reserved - (k.quantity - k.taken) })
          (fun _ => rfl) j
      | put =>
        by_cases taken : k.taken = 0
        · rw [endTask_bay_put s id k task kind taken]
          exact bay_modBay_field Bay.holds s k.bay (fun b => { b with incoming := b.incoming - 1 }.tidy)
            (fun _ => tidy_holds _) j
        · rw [endTask_bay_put_taken s id k task kind taken]
    have frame : ∃ bays orderUnit reserved agenda, s.endTask id =
        { s with bays, orderUnit, consolidation := { s.consolidation with reserved }, agenda } := by
      cases kind : k.kind with
      | pick =>
        obtain ⟨⟨_, released, _⟩, _⟩ := reserveRelease_frame (s.giveBack k.transit) k.bay (k.quantity - k.taken)
        obtain ⟨_, left, _⟩ := leaveGroup_ended ((s.giveBack k.transit).reserveRelease k.bay (k.quantity - k.taken)) id k
        rw [endTask_pick s id k task kind, left, released, giveBack_eq]
        exact ⟨_, _, _, _, rfl⟩
      | put =>
        rw [endTask_put s id k task kind, giveBack_eq]
        split
        · exact ⟨_, _, _, _, rfl⟩
        · exact ⟨_, _, _, _, rfl⟩
    have counts := fun j => And.intro (ended.counts j) (holds j)
    obtain ⟨_, _, _, _, is⟩ := frame
    rw [is] at counts ⊢
    exact { refl s with off := { OffThePair.refl s with counts } }

theorem giveBackTask (id : Nat) : s.Halts p (s.giveBackTask id) := by
  unfold State.giveBackTask
  split
  · exact (orderUnit s _).trans (giveBack _ _)
  · exact refl s

theorem joinHead (id : Nat) (st : TaskState) : s.Halts p (s.joinHead id st) := by
  unfold State.joinHead
  split
  · exact (orderUnit s _).trans (queues (s.taskState id st) _ _ fun k => modQueue_unqueued k _ _)
  · exact refl s

theorem returnWork (c : Nat) (here : p c) : s.Halts p (s.returnWork c) := by
  have out : s.Halts p ((s.leaveWait c).modCar c fun k => { k with inService := none }) :=
    (leaveWait s c).trans (modCar (s.leaveWait c) c _ here fun _ => rfl)
  unfold State.returnWork
  dsimp only
  split
  · exact leaveWait s c
  · split
    · exact out.trans (endSweep _ c _ here)
    · exact out
  · split
    · exact out
    · split
      · exact out.trans (endTask _ _)
      · exact (out.trans (giveBackTask _ _)).trans (joinHead _ _ _)

end State.Halts

end Sys2Proof.Machine
end

section
/-! The reply window expires (O13): a repeat, or the frame reported by its source (R53, R62, R132, R165). -/

namespace Sys2Proof.Machine

theorem slot_set_none (s : State) (c : Nat) : (s.outbox.slots.set c none).getD c none = none := by
  rw [List.getD_eq_getElem?_getD, List.getElem?_set_self']
  cases s.outbox.slots[c]? <;> rfl

/-! ## Exhaustion (R165) -/

/-- A move that has ended ignores the exhaustion of its MOVE (R62). -/
theorem moveExhausted_ended (s : State) (c : Nat) (ended : (s.car c).state ≠ .moving) : s.moveExhausted c = s :=
  if_neg ended

/-- A MOVE exhausted in MOVING takes its carousel to DRIVE-FAULT with index unknown and claim released (R53, R62). -/
theorem moveExhausted_moving (s : State) (c : Nat) (moving : (s.car c).state = .moving) (idle : s.waits c = false)
    (len : c < s.carousels.length) :
    let t := s.moveExhausted c
    s.EndsAway t c none ∧ t.hasClaim c = false ∧ t.slot c = s.slot c ∧ t.articles = s.articles ∧ t.balances = s.balances ∧
      t.pending = s.pending := by
  intro t
  have released := releaseClaim_spec s c
  have un := State.Unmoved.releaseClaim s c idle
  have back := State.Halts.returnWork (p := (· = c)) (s.releaseClaim c) c rfl
  obtain ⟨⟨power, outbox, cars, pool, offered⟩, _⟩ := (releaseClaim_offerFrame s c).1
  have slot := (releaseClaim_offerFrame s c).2 c idle
  have is : t = ((((s.releaseClaim c).returnWork c).endMove c).modCar c fun k => { k with index := none }).enterDriveFault c
      .noAccept := if_pos moving
  obtain ⟨ends, _, claims, _, frames, _, _⟩ := endsAway_spec un len none .noAccept
  rw [← is] at ends claims frames
  have length : c < ((s.releaseClaim c).returnWork c).carousels.length := by rwa [back.length, released.len]
  have rest := is.trans (endsAway_eq ((s.releaseClaim c).returnWork c) c none .noAccept length)
  refine ⟨ends, ?_, ?_, ?_, ?_, ?_⟩
  · rw [State.hasClaim, claims]
    exact released.claim idle
  · rw [State.slot, frames]
    exact slot
  · rw [rest]
    exact back.off.articles.trans released.articles
  · rw [rest]
    exact back.off.balances.trans released.balances
  · rw [rest]
    refine back.off.pending.trans ?_
    rw [offered]

/-- The report of a frame of the FIFO, by its kind. -/
theorem reportExhausted_fifo (s : State) (x : Sending) (source : x.source = .fifo) :
    (x.frame.origin ≠ .part ∨ x.frame.kind ≠ kindRoute → s.reportExhausted x =
      s.notify (.unaccepted x.frame.dest x.frame.kind x.frame.tag x.frame.origin (x.repeats + 1))) ∧
    (x.frame.origin = .part → x.frame.kind = kindRoute → s.reportExhausted x = s.reportLost x.frame) := by
  unfold State.reportExhausted
  rw [source]
  dsimp only
  cases x.frame.origin with
  | part => exact ⟨fun other => if_neg (other.resolve_left (not_not_intro rfl)), fun _ route => if_pos route⟩
  | link src => exact ⟨fun _ => rfl, nofun⟩

/-- Settles O13: below the limit `State.repeatFrame`; at it `State.exhausted` by the frame's source, whose follow-ups leave a
carousel in DRIVE-FAULT alone (`settle_leavesBusy`). -/
theorem replyWindowExpires : Obligations.ReplyWindowExpires := by
  intro s x expiry limit q bounded awaits u
  have row : exec .replyWindowExpiry s = .next s.replyExpired.settle := rfl
  have quietly : ∀ t : State, s.replyExpired = t → t.notes = s.notes → exec .replyWindowExpiry s = .next t :=
    fun t is notes => by rw [row, is, State.settle_of_quiet t (State.quiet_of_notes q notes)]
  have decides : s.replyExpired = if x.repeats < limit then s.repeatFrame x else s.exhausted x := by
    unfold State.replyExpired
    rw [awaits]
  have exhausts : limit ≤ x.repeats → s.replyExpired = s.exhausted x := fun spent => decides.trans (if_neg (not_lt.2 spent))
  have reports : limit ≤ x.repeats → x.source = .fifo → s.replyExpired = u.reportExhausted x := fun spent source => by
    rw [exhausts spent, State.exhausted, source]
    rfl
  have slotted : ∀ c, limit ≤ x.repeats → x.source = .slot c → s.replyExpired = State.moveExhausted
      { u with outbox := { u.outbox with slots := s.outbox.slots.set c none } } c := fun c spent source => by
    rw [exhausts spent, State.exhausted, source]
    exact congrArg (State.moveExhausted · c) (setSlot_eq u c none)
  refine ⟨fun below => quietly _ (decides.trans (if_pos below)) rfl, fun spent source => ?_, fun spent source other => ?_,
    fun n spent source origin route entry => ?_, fun spent source origin route entry => ?_,
    fun c c8 spent source ended => ?_, fun c c8 spent source moving idle => ?_⟩
  · refine quietly u ?_ rfl
    rw [exhausts spent, State.exhausted, source]
    rfl
  · exact quietly _ ((reports spent source).trans ((reportExhausted_fifo u x source).1 other)) (u.notify_notes _)
  · refine quietly _ ((reports spent source).trans (((reportExhausted_fifo u x source).2 origin route).trans ?_)) rfl
    unfold State.reportLost
    rw [entry]
    rfl
  · refine quietly u ((reports spent source).trans (((reportExhausted_fifo u x source).2 origin route).trans ?_)) rfl
    unfold State.reportLost
    rw [entry]
  · exact quietly _ ((slotted c spent source).trans (moveExhausted_ended _ c ended)) rfl
  · have len : c < s.carousels.length := by rwa [bounded.eight.1]
    obtain ⟨⟨state, index, move, timer, service, _⟩, claim, slot, articles, balances, pending⟩ := moveExhausted_moving
      { u with outbox := { u.outbox with slots := s.outbox.slots.set c none } } c moving idle len
    rw [← slotted c spent source] at state index move timer service claim slot articles balances pending
    have busy : s.replyExpired.idleReady c = false := by
      rw [State.idleReady, state]
      rfl
    have follows := s.replyExpired.settle_follows
    have leaves := settle_leavesBusy s.replyExpired
    have car := follows.busy c busy
    exact ⟨_, row, (leaves.slots c busy).trans (slot.trans (slot_set_none s c)), (congrArg Carousel.state car :).trans state,
      (congrArg Carousel.index car :).trans index, (congrArg Carousel.move car :).trans move,
      (congrArg Carousel.moveTimer car :).trans timer, (congrArg Carousel.inService car :).trans service,
      leaves.claims c busy claim, follows.articles.trans articles, follows.balances.trans balances,
      follows.pending.trans pending⟩

end Sys2Proof.Machine
end

section
/-! The pair is sensed held (R68, R159): what each carousel is once it has taken the hold, and what all of them leave. -/

namespace Sys2Proof.Machine

/-! ## No move starts while the pair is held (R49) -/

theorem offerPass_of_held (s : State) (held : s.lineHeld = true) : s.offerPass = s := by
  have one : ∀ e, s.offerEntry e = s := fun e => if_pos (by simp [State.moveBlocked, held])
  unfold State.offerPass
  generalize s.power.waitList = l
  induction l with
  | nil => rfl
  | cons e l ih => rw [List.foldl_cons, one, ih]

theorem unclaimed_dropClaim (s : State) (c : Nat) : State.hasClaim { s with power := s.power.dropClaim c } c = false := by
  rw [State.hasClaim, List.any_eq_false]
  intro x mem
  simpa using (List.mem_filter.1 mem).2

/-- While the pair is held the release of a claim takes it off, and no more. -/
theorem releaseClaim_of_held (s : State) (c : Nat) (held : s.lineHeld = true) :
    s.releaseClaim c = s ∨ s.releaseClaim c = { s with power := s.power.dropClaim c } := by
  unfold State.releaseClaim
  split
  · exact .inr (offerPass_of_held _ held)
  · exact .inl rfl

theorem releaseClaim_of_held_car (s : State) (c d : Nat) (held : s.lineHeld = true) :
    (s.releaseClaim c).car d = s.car d := by
  rcases releaseClaim_of_held s c held with is | is
  · rw [is]
  · rw [is]
    rfl

theorem releaseClaim_of_held_unclaimed (s : State) (c : Nat) (held : s.lineHeld = true) :
    (s.releaseClaim c).hasClaim c = false := by
  unfold State.releaseClaim
  split
  · rw [offerPass_of_held { s with power := s.power.dropClaim c } held]
    exact unclaimed_dropClaim s c
  · next unclaimed => simpa using unclaimed

theorem State.Halts.releaseClaim {p : Nat → Prop} (s : State) (c : Nat) (held : s.lineHeld = true) :
    s.Halts p (s.releaseClaim c) := by
  rcases releaseClaim_of_held s c held with is | is
  · rw [is]
    exact .refl s
  · rw [is]
    exact .dropClaim s c

/-! ## The hold taken by one carousel (R68) -/

/-- The carousel record once its move is given up. -/
def Carousel.halted (k : Carousel) : Carousel :=
  { k with state := .unhomed, index := none, move := none, moveTimer := none }

theorem takeHold_moving (s : State) (c : Nat) (moving : (s.car c).state = .moving) :
    s.takeHold c = (((s.cancelMove c).1.releaseClaim c).returnWork c).modCar c Carousel.halted := by
  unfold State.takeHold
  rw [moving]
  unfold State.endMove State.loseIndex State.modCar
  dsimp only
  rw [List.modify_modify_eq, List.modify_modify_eq]
  rfl

theorem takeHold_driveFault (s : State) (c : Nat) (fault : (s.car c).state = .driveFault) :
    s.takeHold c = s.releaseClaim c := by
  unfold State.takeHold
  rw [fault]

theorem takeHold_other (s : State) (c : Nat) (still : (s.car c).state ≠ .moving) (sound : (s.car c).state ≠ .driveFault) :
    s.takeHold c = s := by
  unfold State.takeHold
  split
  · next moving => exact absurd moving still
  · next fault => exact absurd fault sound
  all_goals rfl

theorem State.Halts.cancelMove (s : State) (c : Nat) : s.Halts (· = c) (s.cancelMove c).1 := by
  unfold State.cancelMove
  split
  · split
    · exact .refl s
    · exact .setSlot_none s c rfl
  · exact .refl s

/-- A move given up: what is left once the MOVE is cancelled, the claim released and the work returned. -/
theorem takeHold_returned (s : State) (c : Nat) (held : s.lineHeld = true) :
    s.Halts (· = c) (((s.cancelMove c).1.releaseClaim c).returnWork c) := by
  have cancelled := State.Halts.cancelMove s c
  exact (cancelled.trans (.releaseClaim _ c ((lineHeld_congr cancelled.line).trans held))).trans (.returnWork _ c rfl)

theorem takeHold_halts (s : State) (c : Nat) (held : s.lineHeld = true) : s.Halts (· = c) (s.takeHold c) := by
  by_cases moving : (s.car c).state = .moving
  · rw [takeHold_moving s c moving]
    exact (takeHold_returned s c held).trans (.modCar _ c _ rfl fun _ => rfl)
  · by_cases fault : (s.car c).state = .driveFault
    · rw [takeHold_driveFault s c fault]
      exact .releaseClaim s c held
    · rw [takeHold_other s c moving fault]
      exact .refl s

/-! ## What the hold makes of a carousel -/

/-- A move of carousel `c` is given up: UNHOMED, index unknown, no move, nothing in service and no claim. -/
def State.GivenUp (t : State) (c : Nat) : Prop :=
  (t.car c).state = .unhomed ∧ (t.car c).index = none ∧ (t.car c).move = none ∧ (t.car c).moveTimer = none ∧
    (t.car c).inService = none ∧ t.hasClaim c = false

/-- `State.heldCar` by what it says: a move is given up; any other record stands but for its level queues, unless the carousel
takes service points; DRIVE-FAULT has no claim left. -/
theorem heldCar_iff (t : State) (c : Nat) (k : Carousel) : t.heldCar c k ↔
    (k.state = .moving → t.GivenUp c) ∧
    (k.state ≠ .moving → (k.state = .ready → k.inService ≠ none) → (t.car c).unqueued = k.unqueued) ∧
    (k.state = .driveFault → t.hasClaim c = false) := by
  unfold State.heldCar
  cases state : k.state with
  | moving => exact ⟨fun h => ⟨fun _ => h, fun still => absurd rfl still, nofun⟩, fun h => h.1 rfl⟩
  | driveFault => exact ⟨fun h => ⟨nofun, fun _ _ => h.1, fun _ => h.2⟩, fun h => ⟨h.2.1 nofun nofun, h.2.2 rfl⟩⟩
  | ready => exact ⟨fun h => ⟨nofun, fun _ serving => h (serving rfl), nofun⟩, fun h serving => h.2.1 nofun fun _ => serving⟩
  | _ => exact ⟨fun h => ⟨nofun, fun _ _ => h, nofun⟩, fun h => h.2.1 nofun nofun⟩

/-- A carousel not MOVING whose record stands has taken the hold, once DRIVE-FAULT has no claim left. -/
theorem heldCar_of_still (t : State) (c : Nat) (k : Carousel) (still : k.state ≠ .moving)
    (same : (t.car c).unqueued = k.unqueued) (claim : k.state = .driveFault → t.hasClaim c = false) : t.heldCar c k :=
  (heldCar_iff t c k).2 ⟨fun moving => absurd moving still, fun _ _ => same, claim⟩

theorem takeHold_heldCar (s : State) (c : Nat) (held : s.lineHeld = true) (len : c < s.carousels.length) :
    (s.takeHold c).heldCar c (s.car c) := by
  by_cases moving : (s.car c).state = .moving
  · have cancelled := State.Halts.cancelMove s c
    have held' := (lineHeld_congr cancelled.line).trans held
    have length : c < ((s.cancelMove c).1.releaseClaim c).carousels.length := by
      rwa [(State.Halts.releaseClaim (p := (· = c)) _ c held').length, cancelled.length]
    have back := returnWork_returned _ c length
    have car : (s.takeHold c).car c = ((((s.cancelMove c).1.releaseClaim c).returnWork c).car c).halted := by
      rw [takeHold_moving s c moving]
      exact (State.car_modCar ..).trans (if_pos ⟨rfl, by rwa [back.len]⟩)
    have claim : (s.takeHold c).hasClaim c = false := by
      rw [takeHold_moving s c moving]
      show (State.returnWork _ c).power.claims.any _ = false
      rw [back.claims.1]
      exact releaseClaim_of_held_unclaimed _ c held'
    refine (heldCar_iff ..).2 ⟨fun _ => ?_, fun still => absurd moving still, fun fault => ?_⟩
    · unfold State.GivenUp
      rw [car]
      exact ⟨rfl, rfl, rfl, rfl, (congrArg Carousel.inService back.car :), claim⟩
    · rw [moving] at fault
      cases fault
  · refine heldCar_of_still _ c _ moving ?_ fun fault => ?_
    · by_cases fault : (s.car c).state = .driveFault
      · rw [takeHold_driveFault s c fault, releaseClaim_of_held_car s c c held]
      · rw [takeHold_other s c moving fault]
    · rw [takeHold_driveFault s c fault]
      exact releaseClaim_of_held_unclaimed s c held

/-! ## A hold taken stands -/

/-- What the hold makes of a carousel is said of its record but for the level queues. -/
theorem heldCar_congr {t : State} {c : Nat} {k k' : Carousel} (same : k'.unqueued = k.unqueued) (h : t.heldCar c k') :
    t.heldCar c k := by
  have state : k'.state = k.state := (congrArg Carousel.state same :)
  have service : k'.inService = k.inService := (congrArg Carousel.inService same :)
  rw [heldCar_iff, state, same, service] at h
  exact (heldCar_iff t c k).2 h

/-- It stands where the record stands but for its level queues and no claim is added. -/
theorem heldCar_mono {t u : State} {c : Nat} {k : Carousel} (same : (u.car c).unqueued = (t.car c).unqueued)
    (claim : t.hasClaim c = false → u.hasClaim c = false) (h : t.heldCar c k) : u.heldCar c k := by
  obtain ⟨given, stands, fault⟩ := (heldCar_iff t c k).1 h
  refine (heldCar_iff u c k).2 ⟨fun moving => ?_, fun still serving => same.trans (stands still serving),
    fun at_fault => claim (fault at_fault)⟩
  obtain ⟨state, index, move, timer, service, unclaimed⟩ := given moving
  exact ⟨(congrArg Carousel.state same :).trans state, (congrArg Carousel.index same :).trans index,
    (congrArg Carousel.move same :).trans move, (congrArg Carousel.moveTimer same :).trans timer,
    (congrArg Carousel.inService same :).trans service, claim unclaimed⟩

/-- Of a carousel that was READY with nothing in service nothing is said. -/
theorem heldCar_of_idle (t : State) (c : Nat) (k : Carousel) (ready : k.state = .ready) (bare : k.inService = none) :
    t.heldCar c k :=
  (heldCar_iff t c k).2 ⟨fun moving => absurd (ready.symm.trans moving) nofun, fun _ serving => absurd bare (serving ready),
    fun fault => absurd (ready.symm.trans fault) nofun⟩

/-- Any other carousel that has taken the hold is not MOVING, and takes no service points. -/
theorem heldCar_busy {t : State} {c : Nat} {k : Carousel} (h : t.heldCar c k)
    (serving : k.state = .ready → k.inService ≠ none) : (t.car c).state ≠ .moving ∧ t.idleReady c = false := by
  obtain ⟨given, stands, _⟩ := (heldCar_iff t c k).1 h
  by_cases moving : k.state = .moving
  · obtain ⟨state, _⟩ := given moving
    rw [State.idleReady, state]
    exact ⟨nofun, rfl⟩
  · have same := stands moving serving
    have state : (t.car c).state = k.state := (congrArg Carousel.state same :)
    have service : (t.car c).inService = k.inService := (congrArg Carousel.inService same :)
    rw [State.idleReady, state, service]
    refine ⟨moving, Bool.eq_false_iff.2 fun idle => ?_⟩
    rw [Bool.and_eq_true, decide_eq_true_eq, Option.isNone_iff_eq_none] at idle
    exact serving idle.1 idle.2

/-- The follow-ups of the step leave it. -/
theorem heldCar_settle {t : State} {c : Nat} {k : Carousel} (h : t.heldCar c k) : t.settle.heldCar c k := by
  by_cases idle : k.state = .ready ∧ k.inService = none
  · exact heldCar_of_idle _ c k idle.1 idle.2
  · obtain ⟨_, busy⟩ := heldCar_busy h fun ready bare => idle ⟨ready, bare⟩
    exact heldCar_mono (t.settle_follows.busy c busy) ((settle_leavesBusy t).claims c busy) h

end Sys2Proof.Machine
end

section
/-! The stop pair changes its sense (O15): LINE-HELD with the hold taken by every carousel, and LINE-CLEAR with the queries of
the UNHOMED ones (R68, R69, R158, R159). -/

namespace Sys2Proof.Machine

/-! ## Carousels halted one after another (R68, R168) -/

section

variable {f : State → Nat → State} (one : ∀ (s : State) (c : Nat), s.lineHeld = true → s.Halts (· = c) (f s c))
include one

theorem State.Halts.foldl (l : List Nat) (s : State) (held : s.lineHeld = true) : s.Halts (· ∈ l) (l.foldl f s) := by
  induction l generalizing s with
  | nil => exact .refl s
  | cons c l ih =>
    have first := one s c held
    exact (first.weaken fun d same => same ▸ List.mem_cons_self).trans
      ((ih _ ((lineHeld_congr first.line).trans held)).weaken fun d => List.mem_cons_of_mem c)

/-- Each carousel of the list whose slot is as `halts` asks has taken the hold, once all of them are halted. -/
theorem heldCar_foldl (halts : Option SlotMove → Prop) (own : ∀ (s : State) (c : Nat), s.lineHeld = true → c < s.carousels.length →
    halts (s.slot c) → (f s c).heldCar c (s.car c)) (l : List Nat) (s : State) (held : s.lineHeld = true) (once : l.Nodup)
    (len : ∀ c ∈ l, c < s.carousels.length) : ∀ c ∈ l, halts (s.slot c) → (l.foldl f s).heldCar c (s.car c) := by
  induction l generalizing s with
  | nil => nofun
  | cons c l ih =>
    obtain ⟨new, once⟩ := List.nodup_cons.1 once
    have first := one s c held
    have held' := (lineHeld_congr first.line).trans held
    have rest := State.Halts.foldl one l (f s c) held'
    intro d mem asks
    rcases List.mem_cons.1 mem with rfl | later
    · exact heldCar_mono (rest.others d new) rest.unclaimed (own s d held (len d mem) asks)
    · have other : d ≠ c := fun same => new (same ▸ later)
      have slot : (f s c).slot d = s.slot d := (first.slots d).resolve_right fun emptied => other emptied.1
      refine heldCar_congr (first.others d other) (ih _ held' once (fun e he => ?_) d later (slot ▸ asks))
      rw [first.length]
      exact len e (List.mem_cons_of_mem c he)

end

/-! ## Every carousel takes the hold (R68) -/

theorem dropUnsent_halts (s : State) : s.Halts (fun _ => True) s.dropUnsent :=
  { State.Halts.refl s with
    off := { State.OffThePair.refl s with }
    outbox := rfl
    slots := fun d => by
      have read : s.dropUnsent.slot d = unsentRemoved (s.slot d) := List.getD_map s.outbox.slots none unsentRemoved
      rw [read]
      unfold unsentRemoved
      split
      · next m there =>
        split
        · exact .inl there.symm
        · exact .inr ⟨trivial, rfl⟩
      · exact .inr ⟨trivial, rfl⟩ }

/-- The pair sensed held, by its steps. -/
theorem senseHeld_eq (s u : State) (noticed : s.dropUnsent.notify (.lineHeld s.line.drive) = u) (l : List Nat)
    (listed : (List.range 8).filter (fun c => decide ((u.car c).state = .moving) ||
      decide ((u.car c).state = .driveFault)) = l) (t : State) (arranged : (u.arrange l).2 = t) :
    s.senseHeld = (u.arrange l).1.foldl State.takeHold t := by
  subst noticed listed arranged
  rfl

/-- The pair sensed held: what it leaves, what each carousel is, and LINE-HELD before all other notices. -/
theorem senseHeld_spec (s : State) (held : s.lineHeld = true) (eight : s.carousels.length = 8) :
    s.Halts (fun _ => True) s.senseHeld ∧ (∀ c < 8, s.senseHeld.heldCar c (s.car c)) ∧
      (s.notify (.lineHeld s.line.drive)).link.tx <+: s.senseHeld.link.tx := by
  have dropped := dropUnsent_halts s
  have noticed := dropped.trans (.notify s.dropUnsent (.lineHeld s.line.drive))
  have link := notify_link_congr s.dropUnsent s (.lineHeld s.line.drive) rfl
  have cars : ∀ c, (s.dropUnsent.notify (.lineHeld s.line.drive)).car c = s.car c := fun c => by
    rw [notify_frame]
    rfl
  generalize bare : s.dropUnsent.notify (.lineHeld s.line.drive) = u at noticed link cars
  generalize listed : (List.range 8).filter (fun c => decide ((u.car c).state = .moving) ||
    decide ((u.car c).state = .driveFault)) = l
  obtain ⟨order, n, chosen⟩ := arrange_perm u l
  have is := senseHeld_eq s u bare l listed _ chosen
  have held' : State.lineHeld { u with choices := n } = true := (lineHeld_congr noticed.line).trans held
  have all := State.Halts.foldl takeHold_halts (u.arrange l).1 { u with choices := n } held'
  rw [← is] at all
  have mem : ∀ c < 8, c ∈ (u.arrange l).1 ↔ (s.car c).state = .moving ∨ (s.car c).state = .driveFault := fun c c8 => by
    rw [order.mem_iff, ← listed, List.mem_filter, cars]
    simp [c8]
  refine ⟨noticed.trans (State.Halts.trans (t := { u with choices := n }) ?_ (all.weaken fun _ _ => trivial)), fun c c8 => ?_,
    link ▸ all.tail⟩
  · exact { State.Halts.refl u with off := { State.OffThePair.refl u with } }
  · rw [← cars]
    by_cases taken : c ∈ (u.arrange l).1
    · rw [is]
      refine heldCar_foldl takeHold_halts (fun _ => True) (fun v d held len _ => takeHold_heldCar v d held len) _
        { u with choices := n } held' ?_ (fun d hd => ?_) c taken trivial
      · rw [order.nodup_iff, ← listed]
        exact List.nodup_range.filter _
      · rw [order.mem_iff, ← listed, List.mem_filter, List.mem_range] at hd
        show d < u.carousels.length
        rw [noticed.length, eight]
        exact hd.1
    · obtain ⟨still, sound⟩ := not_or.1 (mt (mem c c8).2 taken)
      rw [← cars] at still sound
      exact heldCar_of_still _ c _ still (all.others c taken) fun fault => absurd fault sound

/-- The pair sensed held, with the follow-ups of the step. -/
theorem senseHeld_settle (s : State) (held : s.lineHeld = true) (eight : s.carousels.length = 8) :
    let t := s.senseHeld.settle
    t.line.drive = s.line.drive ∧ t.line.outsideHold = s.line.outsideHold ∧ (∀ c < 8, t.heldCar c (s.car c)) ∧
      s.OffThePair t ∧ (s.notify (.lineHeld s.line.drive)).link.tx <+: t.link.tx := by
  intro t
  obtain ⟨halts, taken, notice⟩ := senseHeld_spec s held eight
  have follows := s.senseHeld.settle_follows
  have line : t.line = { s.line with errors := t.line.errors } := by rw [follows.line, halts.line]
  refine ⟨by rw [line], by rw [line], fun c c8 => heldCar_settle (taken c c8), halts.off.trans (.of_keeps follows), ?_⟩
  rw [follows.link]
  exact notice

/-! ## The pair is sensed clear (R69) -/

theorem sendStatusQuery_frame (s : State) (c : Nat) :
    s.sendStatusQuery c = { s with outbox := (s.sendStatusQuery c).outbox, line := (s.sendStatusQuery c).line } := by
  unfold State.sendStatusQuery
  split
  · exact build_frame s _ _ _
  · rfl

theorem keeps_sendStatusQuery (p : Nat → Prop) (s : State) (c : Nat) : s.Keeps p (s.sendStatusQuery c) := by
  unfold State.sendStatusQuery
  split
  · exact s.keeps_build p _ _ _
  · exact .refl p s

theorem sendStatusQueries_frame (l : List Nat) (s : State) :
    ∃ outbox line, l.foldl State.sendStatusQuery s = { s with outbox, line } := by
  induction l generalizing s with
  | nil => exact ⟨s.outbox, s.line, rfl⟩
  | cons c l ih =>
    obtain ⟨outbox, line, is⟩ := ih (s.sendStatusQuery c)
    rw [sendStatusQuery_frame] at is
    exact ⟨outbox, line, by rw [List.foldl_cons, sendStatusQuery_frame, is]⟩

/-- A STATUS-QUERY for a drive. -/
def OutFrame.queries (g : OutFrame) (drive : Byte) : Prop :=
  g.kind = kindStatusQuery ∧ g.dest = drive ∧ g.payload = []

/-- Queries sent stay in the FIFO while the others are sent. -/
theorem sendStatusQueries_keep (l : List Nat) (s : State) (g : OutFrame) (mem : g ∈ s.outbox.fifo)
    (query : g.kind = kindStatusQuery) : g ∈ (l.foldl State.sendStatusQuery s).outbox.fifo := by
  induction l generalizing s with
  | nil => exact mem
  | cons c l ih =>
    refine ih _ ?_
    unfold State.sendStatusQuery
    split
    · exact (State.WorksOn.build (c := c) s _ _ _ none).frames g mem (by rw [query]; decide)
    · exact mem

/-- With room for all of them each carousel that has a drive is queried. -/
theorem sendStatusQueries_sent (l : List Nat) (s : State) (room : s.outbox.fifo.length + l.length ≤ 32) :
    ∀ c ∈ l, ∀ p, (s.car c).profile = some p → ∃ g ∈ (l.foldl State.sendStatusQuery s).outbox.fifo, g.queries p.drive := by
  induction l generalizing s with
  | nil => nofun
  | cons c l ih =>
    rw [List.length_cons] at room
    intro d mem p profile
    rcases List.mem_cons.1 mem with rfl | later
    · have sent : (s.sendStatusQuery d).outbox.fifo = s.outbox.fifo ++
          [{ dest := p.drive, kind := kindStatusQuery, tag := s.outbox.tagCounter, payload := [] }] := by
        have is : s.sendStatusQuery d = s.build p.drive kindStatusQuery [] := by
          unfold State.sendStatusQuery
          rw [profile]
        rw [is]
        exact congrArg (fun t : State => t.outbox.fifo) (joinFifo_room s.takeTag.2 _ (by
          show s.outbox.fifo.length < 32
          omega))
      refine ⟨{ dest := p.drive, kind := kindStatusQuery, tag := s.outbox.tagCounter, payload := [] },
        sendStatusQueries_keep l _ _ ?_ rfl, rfl, rfl, rfl⟩
      rw [sent]
      exact List.mem_append_right _ List.mem_cons_self
    · have car : (s.sendStatusQuery c).car d = s.car d := by
        rw [sendStatusQuery_frame]
        rfl
      refine ih (s.sendStatusQuery c) ?_ d later p (car ▸ profile)
      have fed : (s.sendStatusQuery c).outbox.fifo.length ≤ s.outbox.fifo.length + 1 := by
        unfold State.sendStatusQuery
        split
        · exact (build_feeds s _ _ _ none).length
        · exact Nat.le_succ _
      omega

theorem notePoints_frame (l : List Nat) (s : State) : ∃ agenda, l.foldl State.notePoint s = { s with agenda } := by
  induction l generalizing s with
  | nil => exact ⟨s.agenda, rfl⟩
  | cons c l ih =>
    obtain ⟨agenda, is⟩ := ih (s.notePoint c)
    rw [notePoint_frame] at is
    exact ⟨agenda, by rw [List.foldl_cons, notePoint_frame, is]⟩

/-- The pair sensed clear leaves a carousel that waits for nothing as it is, and has queried each UNHOMED one. -/
def State.Cleared (s t : State) : Prop :=
  (∀ c < 8, (s.car c).state = .unhomed → s.waits c = false → (t.car c).unqueued = (s.car c).unqueued ∧
    ∀ p, (s.car c).profile = some p → ∃ g ∈ t.outbox.fifo, g.kind = kindStatusQuery ∧ g.dest = p.drive ∧ g.payload = []) ∧
  (∀ c < 8, s.idleReady c = false → s.waits c = false → (t.car c).unqueued = (s.car c).unqueued) ∧ s.OffThePair t

/-- Carousels, outbox and power list are read alike before and after a change of link and line. -/
theorem State.Cleared.of_same {s v t : State} (link : LinkPort) (line : LinePort) (is : v = { s with link, line })
    (same : line.profile = s.line.profile ∧ line.rx = s.line.rx) (h : v.Cleared t) : s.Cleared t := by
  obtain ⟨queried, still, off⟩ := h
  subst is
  exact ⟨queried, still, State.OffThePair.trans (t := { s with link, line }) { State.OffThePair.refl s with line := same } off⟩

theorem senseClear_steps (s u : State) (noticed : s.notify (.lineClear s.line.drive) = u) (l : List Nat)
    (listed : (List.range 8).filter (fun c => decide ((u.car c).state = .unhomed)) = l) : s.senseClear =
      (List.range 8).foldl State.notePoint ((u.arrange l).1.foldl State.sendStatusQuery (u.arrange l).2).offerPass := by
  subst noticed listed
  rfl

/-- The pair sensed clear, by its steps: LINE-CLEAR, the queries of the UNHOMED carousels in some order, the offer pass, and a
service point noted for each carousel. -/
theorem senseClear_eq (s u : State) (noticed : s.notify (.lineClear s.line.drive) = u) :
    ∃ (l : List Nat) (n : Nat) (agenda : Agenda),
      l.Perm ((List.range 8).filter fun c => decide ((u.car c).state = .unhomed)) ∧
        s.senseClear = { (l.foldl State.sendStatusQuery { u with choices := n }).offerPass with agenda } := by
  generalize listed : (List.range 8).filter (fun c => decide ((u.car c).state = .unhomed)) = l
  obtain ⟨order, n, chosen⟩ := arrange_perm u l
  obtain ⟨agenda, points⟩ := notePoints_frame (List.range 8)
    ((u.arrange l).1.foldl State.sendStatusQuery (u.arrange l).2).offerPass
  have is : s.senseClear = _ := senseClear_steps s u noticed l listed
  refine ⟨_, n, agenda, order, ?_⟩
  rw [is, points, chosen]

/-- After the queries: the offer pass and the service points of the step. -/
theorem offered_serves (v : State) (agenda : Agenda) : v.Serves (State.settle { v.offerPass with agenda }) := by
  have offers := (offerPass_spec v).1
  have noted := v.offerPass.keeps_agenda (fun _ => True) agenda
  generalize { v.offerPass with agenda } = w at noted
  refine (offers.weaken fun c h => h.2).trans ((noted.weaken fun _ _ => trivial).trans
    (w.settle_follows.weaken fun c h => ?_))
  exact (noted.idle trivial).trans ((offers.idle h.2).trans h.1)

/-- Where the pair sensed clear is settled: the part after the notice and after its queries, by what the rest keeps. -/
theorem senseClear_spec (s u : State) (noticed : s.notify (.lineClear s.line.drive) = u) :
    ∃ (l : List Nat) (v : State),
    l.Perm ((List.range 8).filter fun c => decide ((u.car c).state = .unhomed)) ∧
      (∃ n, v = l.foldl State.sendStatusQuery { u with choices := n }) ∧ u.Serves s.senseClear.settle ∧
      (∃ errors, s.senseClear.line = { u.line with errors }) ∧ ∀ g ∈ v.outbox.fifo, g.kind ≠ kindIndicate → g ∈ s.senseClear.settle.outbox.fifo := by
  obtain ⟨l, n, agenda, order, is⟩ := senseClear_eq s u noticed
  generalize asked : l.foldl State.sendStatusQuery { u with choices := n } = v at is
  have queries : u.Keeps (fun _ => True) v := by
    rw [← asked]
    exact (u.keeps_choices _ n).trans (State.keeps_foldl _ _ (keeps_sendStatusQuery _) _ _)
  have waits : ∀ c, v.waits c = u.waits c := fun c => by
    obtain ⟨_, _, frame⟩ := sendStatusQueries_frame l { u with choices := n }
    rw [← asked, frame]
    rfl
  refine ⟨l, v, order, ⟨n, asked.symm⟩, ?_, ?_, fun g mem kind => ?_⟩
  · rw [is]
    refine (queries.weaken fun _ _ => trivial).trans ((offered_serves v agenda).weaken fun c h => ?_)
    exact ⟨(queries.idle trivial).trans h.1, (waits c).trans h.2⟩
  · rw [is]
    exact ⟨_, (offerPass_spec v).1.line.trans (by rw [queries.line])⟩
  · refine (settle_leavesBusy s.senseClear).frames g ?_ kind
    rw [is]
    exact (State.Offered.offerPass v).fifo ▸ mem

/-- The pair sensed clear, with the follow-ups of the step. -/
theorem senseClear_settle (s : State) (room : s.outbox.fifo.length ≤ 24) :
    s.senseClear.settle.line.drive = s.line.drive ∧ s.senseClear.settle.line.outsideHold = s.line.outsideHold ∧
      s.Cleared s.senseClear.settle ∧ (s.notify (.lineClear s.line.drive)).link.tx <+: s.senseClear.settle.link.tx := by
  generalize noticed : s.notify (.lineClear s.line.drive) = u
  obtain ⟨link, frame⟩ : ∃ link, u = { s with link } := ⟨_, noticed ▸ notify_frame s _⟩
  obtain ⟨l, v, order, ⟨n, asked⟩, serves, -, stays⟩ := senseClear_spec s u noticed
  have off := (State.OffThePair.notify s _).trans (noticed ▸ State.OffThePair.of_keeps serves)
  generalize s.senseClear.settle = t at serves stays off
  have line := serves.line
  have tx : u.link.tx <+: t.link.tx := by rw [serves.link]
  have still : ∀ c, s.idleReady c = false → s.waits c = false → (t.car c).unqueued = (s.car c).unqueued := by
    rw [frame] at serves
    exact fun c idle unwaiting => serves.busy c ⟨idle, unwaiting⟩
  have queried : ∀ c < 8, (s.car c).state = .unhomed → ∀ p, (s.car c).profile = some p →
      ∃ g ∈ v.outbox.fifo, g.queries p.drive := by
    rw [frame] at asked order
    intro c c8 unhomed p profile
    have few : l.length ≤ 8 := order.length_eq ▸ (List.length_filter_le ..).trans List.length_range.le
    have mem : c ∈ l := order.mem_iff.2 (List.mem_filter.2 ⟨List.mem_range.2 c8, decide_eq_true unhomed⟩)
    rw [asked]
    exact sendStatusQueries_sent l _ (by show s.outbox.fifo.length + l.length ≤ 32; omega) c mem p profile
  rw [frame] at line
  refine ⟨by rw [line], by rw [line], ⟨fun c c8 unhomed unwaiting => ⟨still c ?_ unwaiting, fun p profile => ?_⟩,
    fun c _ => still c, off⟩, tx⟩
  · rw [State.idleReady, unhomed]
    rfl
  · obtain ⟨g, sent, query⟩ := queried c c8 unhomed p profile
    exact ⟨g, stays g sent (by rw [query.1]; decide), query⟩

/-- The RESULT of a change of the pair shows it as it then is. -/
theorem senseClear_pairReply (s : State) : s.senseClear.pairReply = s.pairReply := by
  obtain ⟨_, _, _, _, _, ⟨_, line⟩, _⟩ := senseClear_spec s _ rfl
  rw [notify_frame] at line
  rw [State.pairReply, State.lineHeld, line]
  rfl

/-! ## The pair driven and held (R158, R159) -/

/-- A change of the pair's parties that changes no sense changes no more (log 26). -/
theorem setOutsideHold_same (s : State) (on : Bool) (same : (s.line.drive || on) = s.lineHeld) :
    s.setOutsideHold on = { s with line := { s.line with outsideHold := on } } :=
  if_pos same.symm

theorem setDrive_same (s : State) (on : Bool) (same : (on || s.line.outsideHold) = s.lineHeld) :
    s.setDrive on = { s with line := { s.line with drive := on } } :=
  if_pos same.symm

theorem settle_setOutsideHold_same (s : State) (q : s.quiet) (on : Bool) (same : (s.line.drive || on) = s.lineHeld) :
    (s.setOutsideHold on).settle = { s with line := { s.line with outsideHold := on } } := by
  rw [setOutsideHold_same s on same]
  exact State.settle_of_quiet { s with line := { s.line with outsideHold := on } } q

theorem settle_setDrive_same (s : State) (q : s.quiet) (on : Bool) (same : (on || s.line.outsideHold) = s.lineHeld) :
    (s.setDrive on).settle = { s with line := { s.line with drive := on } } := by
  rw [setDrive_same s on same]
  exact State.settle_of_quiet { s with line := { s.line with drive := on } } q

theorem lineHoldSensed_takes (s : State) (eight : s.carousels.length = 8) (clear : s.lineHeld = false) :
    ∃ t, exec .lineHoldSensed s = .next t ∧ t.line.outsideHold = true ∧ t.line.drive = s.line.drive ∧
      (∀ c < 8, t.heldCar c (s.car c)) ∧ s.OffThePair t ∧
      (s.notify (.lineHeld s.line.drive)).link.tx <+: t.link.tx := by
  let v : State := { s with line := { s.line with outsideHold := true } }
  have held : v.lineHeld = true := Bool.or_true _
  have is : s.setOutsideHold true = v.senseHeld := if_neg (by
    show ¬s.lineHeld = v.lineHeld
    rw [clear, held]
    exact Bool.false_ne_true)
  obtain ⟨drive, outside, taken, off, notice⟩ := senseHeld_settle v held eight
  refine ⟨_, congrArg (fun t : State => Host.Outcome.next t.settle) is, outside, drive, taken,
    State.OffThePair.trans (t := v) { State.OffThePair.refl s with } off, ?_⟩
  rw [notify_link_congr s v _ rfl]
  exact notice

theorem lineHoldSensed_held (s : State) (q : s.quiet) (held : s.lineHeld = true) :
    exec .lineHoldSensed s = .next { s with line := { s.line with outsideHold := true } } := by
  have row : exec .lineHoldSensed s = .next (s.setOutsideHold true).settle := rfl
  rw [row, settle_setOutsideHold_same s q true ((Bool.or_true _).trans held.symm)]

theorem lineHold_row (s : State) (f : Frame) (asked : s.asked f .lineHold) :
    exec .lineHold s = .next ((s.takeRequest.setDrive true).settle.answer f (s.takeRequest.setDrive true).pairReply) :=
  congrArg _ ((onRequest_asked asked rfl).trans (serve_done f rfl))

/-- LINE-HOLD of a pair that is held already. -/
theorem lineHold_held (s : State) (f : Frame) (q : s.quiet) (asked : s.asked f .lineHold) (held : s.lineHeld = true) :
    exec .lineHold s = .next ({ s.takeRequest with line := { s.line with drive := true } }.answer f (.done [1, 1])) := by
  rw [lineHold_row s f asked, settle_setDrive_same s.takeRequest q true held.symm,
    setDrive_same s.takeRequest true held.symm]
  rfl

theorem lineHold_takes (s : State) (f : Frame) (eight : s.carousels.length = 8) (asked : s.asked f .lineHold)
    (clear : s.lineHeld = false) : ∃ v, exec .lineHold s = .next (v.answer f (.done [1, 1])) ∧
      v.line.drive = true ∧ v.line.outsideHold = s.line.outsideHold ∧ (∀ c < 8, v.heldCar c (s.car c)) ∧
      s.OffThePair v ∧ (s.takeRequest.notify (.lineHeld true)).link.tx <+: v.link.tx := by
  let v : State := { s.takeRequest with line := { s.line with drive := true } }
  have held : v.lineHeld = true := rfl
  have is : s.takeRequest.setDrive true = v.senseHeld := if_neg (by
    show ¬s.lineHeld = v.lineHeld
    rw [clear, held]
    exact Bool.false_ne_true)
  have line := (senseHeld_spec v held eight).1.line
  have reply : v.senseHeld.pairReply = .done [1, 1] := by
    rw [State.pairReply, lineHeld_congr line, line]
    rfl
  obtain ⟨drive, outside, taken, off, notice⟩ := senseHeld_settle v held eight
  refine ⟨v.senseHeld.settle, ?_, drive, outside, taken,
    State.OffThePair.trans (t := v) { State.OffThePair.refl s with } off, ?_⟩
  · rw [lineHold_row s f asked, is, reply]
  · rw [notify_link_congr s.takeRequest v _ rfl]
    exact notice

/-- The other party holds the pair besides the part, or not at all. -/
theorem lineHoldCleared_same (s : State) (q : s.quiet) (same : s.line.outsideHold = false ∨ s.line.drive = true) :
    exec .lineHoldCleared s = .next { s with line := { s.line with outsideHold := false } } := by
  have sense : (s.line.drive || false) = (s.line.drive || s.line.outsideHold) := by
    rcases same with free | drives
    · rw [free]
    · rw [drives, Bool.true_or, Bool.true_or]
  have row : exec .lineHoldCleared s = .next (s.setOutsideHold false).settle := rfl
  rw [row, settle_setOutsideHold_same s q false sense]

theorem lineHoldCleared_clears (s : State) (room : s.outbox.fifo.length ≤ 24) (outside : s.line.outsideHold = true)
    (released : s.line.drive = false) :
    ∃ t, exec .lineHoldCleared s = .next t ∧ t.line.outsideHold = false ∧ t.line.drive = false ∧ s.Cleared t ∧
      (s.notify (.lineClear false)).link.tx <+: t.link.tx := by
  let v : State := { s with line := { s.line with outsideHold := false } }
  have is : s.setOutsideHold false = v.senseClear := if_neg (by
    show ¬(s.line.drive || s.line.outsideHold) = (s.line.drive || false)
    rw [outside, released]
    exact nofun)
  obtain ⟨drive, free, cleared, notice⟩ := senseClear_settle v room
  refine ⟨_, congrArg (fun t : State => Host.Outcome.next t.settle) is, free, drive.trans released,
    cleared.of_same v.link v.line rfl ⟨rfl, rfl⟩, ?_⟩
  have link := notify_link_congr s v (.lineClear false) rfl
  rw [show v.line.drive = false from released] at notice
  rw [link]
  exact notice

theorem lineRelease_row (s : State) (f : Frame) (asked : s.asked f .lineRelease) (active : s.lineActive = true) :
    exec .lineRelease s = .next ((s.takeRequest.setDrive false).settle.answer f (s.takeRequest.setDrive false).pairReply) :=
  congrArg _ ((onRequest_asked asked rfl).trans (serve_done f (if_pos active)))

/-- LINE-RELEASE of a pair that the part does not drive alone. -/
theorem lineRelease_same (s : State) (f : Frame) (q : s.quiet) (asked : s.asked f .lineRelease) (active : s.lineActive = true)
    (same : s.line.drive = false ∨ s.line.outsideHold = true) : exec .lineRelease s =
      .next ({ s.takeRequest with line := { s.line with drive := false } }.answer f (.done [0, flagByte s.line.outsideHold])) := by
  have sense : (false || s.line.outsideHold) = (s.line.drive || s.line.outsideHold) := by
    rcases same with idle | outside
    · rw [idle]
    · rw [outside, Bool.or_true, Bool.or_true]
  rw [lineRelease_row s f asked active, settle_setDrive_same s.takeRequest q false sense,
    setDrive_same s.takeRequest false sense]
  rfl

theorem lineRelease_clears (s : State) (f : Frame) (room : s.outbox.fifo.length ≤ 24) (asked : s.asked f .lineRelease)
    (active : s.lineActive = true) (drives : s.line.drive = true) (alone : s.line.outsideHold = false) :
    ∃ v, exec .lineRelease s = .next (v.answer f (.done [0, 0])) ∧ v.line.drive = false ∧
      v.line.outsideHold = false ∧ s.Cleared v ∧ (s.takeRequest.notify (.lineClear false)).link.tx <+: v.link.tx := by
  let v : State := { s.takeRequest with line := { s.line with drive := false } }
  have is : s.takeRequest.setDrive false = v.senseClear := if_neg (by
    show ¬(s.line.drive || s.line.outsideHold) = (false || s.line.outsideHold)
    rw [drives, alone]
    exact nofun)
  have reply : v.senseClear.pairReply = .done [0, 0] := by
    rw [senseClear_pairReply]
    show Reply.done [0, flagByte (false || s.line.outsideHold)] = _
    rw [alone]
    rfl
  obtain ⟨drive, free, cleared, notice⟩ := senseClear_settle v room
  refine ⟨v.senseClear.settle, ?_, drive, free.trans alone, cleared.of_same v.link v.line rfl ⟨rfl, rfl⟩, ?_⟩
  · rw [lineRelease_row s f asked active, is, reply]
  · rw [notify_link_congr s.takeRequest v _ rfl]
    exact notice

theorem lineRelease_unprofiled (s : State) (f : Frame) (q : s.quiet) (asked : s.asked f .lineRelease)
    (none_loaded : s.line.profile = none) : exec .lineRelease s = .next (s.takeRequest.answer f (.refused .notProfiled)) := by
  have inactive : ¬s.takeRequest.lineActive = true := by
    show ¬s.line.profile.isSome = true
    rw [none_loaded]
    exact nofun
  exact congrArg _ ((onRequest_asked asked rfl).trans (serve_refused q f (if_neg inactive)))

/-- Settles O15: each row of the stop pair, by whether its sense changes. -/
theorem stopPair : Obligations.StopPair := by
  refine ⟨fun s h clear => lineHoldSensed_takes s h.eight.1 clear, lineHoldSensed_held,
    fun s f h asked clear => lineHold_takes s f h.eight.1 asked clear, lineHold_held,
    fun s _ room outside released => lineHoldCleared_clears s room outside released, lineHoldCleared_same, ?_⟩
  intro s f asked
  exact ⟨fun q none_loaded => lineRelease_unprofiled s f q asked none_loaded,
    fun q loaded same => lineRelease_same s f q asked (Option.isSome_iff_ne_none.2 loaded) same,
    fun _ room loaded drives alone => lineRelease_clears s f room asked (Option.isSome_iff_ne_none.2 loaded) drives alone⟩

end Sys2Proof.Machine
end

section
/-! PORT-RESET LINE (O36): the slots emptied one by one while the pair is held, and the transit entries whose frame is lost
(R72, R159, R168). -/

namespace Sys2Proof.Machine

/-! ## Lost frames (R132) -/

/-- A transit entry, UNROUTED where its frame is among the lost ones. -/
def TransitEntry.losing (lost : List (Option Nat)) (e : TransitEntry) : TransitEntry :=
  if some e.serial ∈ lost then { e with unrouted := true } else e

theorem losing_append (a b : List (Option Nat)) (e : TransitEntry) :
    (e.losing a).losing b = e.losing (a ++ b) := by
  unfold TransitEntry.losing
  by_cases first : some e.serial ∈ a
  · simp [first]
  · simp [first]

theorem losing_comm (a b : List (Option Nat)) (e : TransitEntry) : e.losing (a ++ b) = e.losing (b ++ a) :=
  if_congr (by rw [List.mem_append, List.mem_append, or_comm]) rfl rfl

/-- The transit list once the frames of `lost` are lost. -/
def State.losing (s : State) (lost : List (Option Nat)) : State :=
  { s with consolidation := { s.consolidation with transit := s.consolidation.transit.map (TransitEntry.losing lost) } }

theorem losing_nil (s : State) : s.losing [] = s := by
  have same : TransitEntry.losing [] = id := funext fun e => if_neg List.not_mem_nil
  rw [State.losing, same, List.map_id]

theorem reportLost_eq (s : State) (f : OutFrame) : s.reportLost f = s.losing [f.entry] := by
  cases entry : f.entry with
  | none =>
    have same : TransitEntry.losing [none] = id := funext fun e => if_neg (by simp)
    rw [State.losing, same, List.map_id, State.reportLost, entry]
  | some serial =>
    have same : (fun e : TransitEntry => if e.serial = serial then { e with unrouted := true } else e) =
        TransitEntry.losing [some serial] := funext fun e => by simp [TransitEntry.losing]
    rw [State.reportLost, entry, State.losing, ← same]
    rfl

theorem losing_losing (s : State) (a b : List (Option Nat)) : (s.losing a).losing b = s.losing (a ++ b) := by
  have same : TransitEntry.losing b ∘ TransitEntry.losing a = TransitEntry.losing (a ++ b) :=
    funext fun e => losing_append a b e
  unfold State.losing
  dsimp only
  rw [List.map_map, same]

theorem reportsLost_eq (l : List OutFrame) (s : State) : l.foldl State.reportLost s = s.losing (l.map OutFrame.entry) := by
  induction l generalizing s with
  | nil => exact (losing_nil s).symm
  | cons f l ih => rw [List.foldl_cons, ih, reportLost_eq, losing_losing, List.map_cons, List.singleton_append]

theorem abandonTransmission_eq (s : State) :
    s.abandonTransmission = s.txIdle.losing (s.outbox.tx.held.map fun x => x.frame.entry).toList := by
  unfold State.abandonTransmission
  cases s.outbox.tx.held with
  | none => exact (losing_nil _).symm
  | some x => exact reportLost_eq ..

/-! ## A slot emptied while the pair is held (R168) -/

theorem emptySlot_moving (s : State) (c : Nat) (filled : (s.slot c).isSome = true) (moving : (s.car c).state = .moving) :
    s.emptySlot c = (s.setSlot c none).takeHold c := by
  unfold State.emptySlot
  exact (if_pos filled).trans (if_pos moving)

theorem emptySlot_ended (s : State) (c : Nat) (filled : (s.slot c).isSome = true) (ended : (s.car c).state ≠ .moving) :
    s.emptySlot c = (s.setSlot c none).releaseClaim c := by
  unfold State.emptySlot
  exact (if_pos filled).trans (if_neg ended)

theorem emptySlot_empty (s : State) (c : Nat) (empty : ¬(s.slot c).isSome = true) : s.emptySlot c = s :=
  if_neg empty

theorem emptySlot_halts (s : State) (c : Nat) (held : s.lineHeld = true) : s.Halts (· = c) (s.emptySlot c) := by
  have emptied := State.Halts.setSlot_none (p := (· = c)) s c rfl
  by_cases filled : (s.slot c).isSome = true
  · by_cases moving : (s.car c).state = .moving
    · rw [emptySlot_moving s c filled moving]
      exact emptied.trans (takeHold_halts _ c held)
    · rw [emptySlot_ended s c filled moving]
      exact emptied.trans (.releaseClaim _ c held)
  · rw [emptySlot_empty s c filled]
    exact .refl s

theorem emptySlot_slot (s : State) (c : Nat) (held : s.lineHeld = true) : (s.emptySlot c).slot c = none := by
  by_cases filled : (s.slot c).isSome = true
  · have empty : (s.setSlot c none).slot c = none := by
      rw [setSlot_eq]
      exact slot_set_none s c
    by_cases moving : (s.car c).state = .moving
    · rw [emptySlot_moving s c filled moving]
      exact (takeHold_halts (s.setSlot c none) c held).slot_none empty
    · rw [emptySlot_ended s c filled moving]
      exact (State.Halts.releaseClaim (p := (· = c)) (s.setSlot c none) c held).slot_none empty
  · rw [emptySlot_empty s c filled]
    exact Option.not_isSome_iff_eq_none.1 filled

/-- The carousel of a filled slot has taken the hold once its slot is emptied. -/
theorem emptySlot_heldCar (s : State) (c : Nat) (held : s.lineHeld = true) (len : c < s.carousels.length)
    (filled : (s.slot c).isSome = true) : (s.emptySlot c).heldCar c (s.car c) := by
  by_cases moving : (s.car c).state = .moving
  · rw [emptySlot_moving s c filled moving]
    exact takeHold_heldCar (s.setSlot c none) c held len
  · rw [emptySlot_ended s c filled moving]
    refine heldCar_of_still _ c _ moving ?_ fun _ => releaseClaim_of_held_unclaimed (s.setSlot c none) c held
    rw [releaseClaim_of_held_car (s.setSlot c none) c c held]
    rfl

/-- A carousel that has taken the hold has it still when a slot is emptied. -/
theorem emptySlot_keeps_heldCar (s : State) (c d : Nat) (k : Carousel) (held : s.lineHeld = true) (h : s.heldCar d k) :
    (s.emptySlot c).heldCar d k := by
  have halts := emptySlot_halts s c held
  by_cases other : d = c
  · subst other
    by_cases idle : k.state = .ready ∧ k.inService = none
    · exact heldCar_of_idle _ d k idle.1 idle.2
    · obtain ⟨still, _⟩ := heldCar_busy h fun ready bare => idle ⟨ready, bare⟩
      refine heldCar_mono ?_ halts.unclaimed h
      by_cases filled : (s.slot d).isSome = true
      · rw [emptySlot_ended s d filled still, releaseClaim_of_held_car (s.setSlot d none) d d held]
        rfl
      · rw [emptySlot_empty s d filled]
  · exact heldCar_mono (halts.others d other) halts.unclaimed h

theorem emptySlots_keep_heldCar (l : List Nat) (s : State) (d : Nat) (k : Carousel) (held : s.lineHeld = true)
    (h : s.heldCar d k) : (l.foldl State.emptySlot s).heldCar d k := by
  induction l generalizing s with
  | nil => exact h
  | cons c l ih =>
    exact ih _ ((lineHeld_congr (emptySlot_halts s c held).line).trans held) (emptySlot_keeps_heldCar s c d k held h)

theorem emptySlots_slot (l : List Nat) (s : State) (held : s.lineHeld = true) :
    ∀ c ∈ l, (l.foldl State.emptySlot s).slot c = none := by
  induction l generalizing s with
  | nil => nofun
  | cons c l ih =>
    have held' := (lineHeld_congr (emptySlot_halts s c held).line).trans held
    intro d mem
    rcases List.mem_cons.1 mem with rfl | later
    · exact (State.Halts.foldl emptySlot_halts l (s.emptySlot d) held').slot_none (emptySlot_slot s d held)
    · exact ih _ held' d later

/-! ## The reset, part by part -/

/-- All filled slots are emptied: what that leaves, and what it makes of the carousels. -/
theorem emptySlots_spec (s : State) (held : s.lineHeld = true) (eight : s.carousels.length = 8) :
    let a := s.arrange ((List.range 8).filter fun c => (s.slot c).isSome)
    ∀ t, a.1.foldl State.emptySlot a.2 = t → s.Halts (fun _ => True) t ∧ (∀ c < 8, t.slot c = none) ∧ (∀ c < 8, (s.slot c).isSome = true → t.heldCar c (s.car c)) ∧
      ∀ c k, s.heldCar c k → t.heldCar c k := by
  generalize listed : (List.range 8).filter (fun c => (s.slot c).isSome) = l
  obtain ⟨order, n, chosen⟩ := arrange_perm s l
  intro a t emptied
  have is : t = a.1.foldl State.emptySlot { s with choices := n } :=
    emptied.symm.trans (congrArg (fun v => a.1.foldl State.emptySlot v) chosen)
  have free : s.Halts (fun _ => True) { s with choices := n } := { State.Halts.refl s with off := { State.OffThePair.refl s with } }
  have mem : ∀ c, c ∈ a.1 ↔ c < 8 ∧ (s.slot c).isSome = true := fun c => by
    rw [order.mem_iff, ← listed, List.mem_filter, List.mem_range]
  have once : a.1.Nodup := by
    rw [order.nodup_iff, ← listed]
    exact List.nodup_range.filter _
  have halts := State.Halts.foldl emptySlot_halts a.1 { s with choices := n } held
  rw [← is] at halts
  refine ⟨free.trans (halts.weaken fun _ _ => trivial), fun c c8 => ?_, fun c c8 filled => ?_, fun c k h => ?_⟩
  · by_cases filled : (s.slot c).isSome = true
    · rw [is]
      exact emptySlots_slot a.1 { s with choices := n } held c ((mem c).2 ⟨c8, filled⟩)
    · exact halts.slot_none (Option.not_isSome_iff_eq_none.1 filled)
  · rw [is]
    exact heldCar_foldl emptySlot_halts (·.isSome = true) emptySlot_heldCar a.1 { s with choices := n } held once
      (fun d hd => eight ▸ ((mem d).1 hd).1) c ((mem c).2 ⟨c8, filled⟩) filled
  · rw [is]
    exact emptySlots_keep_heldCar a.1 _ c k held h

/-- The part asserts its drive (R72): a pair that was clear is sensed held, one that was held changes in its holder alone. -/
theorem setDrive_on (s : State) (eight : s.carousels.length = 8) :
    State.Halts (fun _ => True) { s with line := { s.line with drive := true } } (s.setDrive true) ∧
      (s.lineHeld = false → ∀ c < 8, (s.setDrive true).heldCar c (s.car c)) ∧
      (s.lineHeld = true → s.setDrive true = { s with line := { s.line with drive := true } }) := by
  have same : s.lineHeld = true → s.setDrive true = { s with line := { s.line with drive := true } } :=
    fun held => setDrive_same s true held.symm
  cases held : s.lineHeld with
  | true =>
    rw [same held]
    exact ⟨.refl _, nofun, fun _ => rfl⟩
  | false =>
    have sensed : s.setDrive true = State.senseHeld { s with line := { s.line with drive := true } } :=
      if_neg (held.trans_ne Bool.false_ne_true)
    obtain ⟨halts, taken, _⟩ := senseHeld_spec { s with line := { s.line with drive := true } } rfl eight
    rw [← sensed] at halts taken
    exact ⟨halts, fun _ => taken, nofun⟩

theorem answer_frame (s : State) (f : Frame) (r : Reply) (b : Bool) :
    s.answer f r b = { s with link := (s.answer f r b).link } := by
  unfold State.answer
  dsimp only
  split
  · rfl
  · rfl

/-- The frames of the transmitter and the FIFO that a reset loses, by their transit entries. -/
def State.sentEntries (s : State) : List (Option Nat) :=
  (s.outbox.tx.held.map fun x => x.frame.entry).toList

/-- A halt before the transmission is given up is one after. -/
theorem State.Halts.abandoned {p : Nat → Prop} {s t : State} (h : s.Halts p t) :
    s.abandonTransmission.Halts p t.abandonTransmission := by
  have same : t.sentEntries = s.sentEntries := by rw [State.sentEntries, h.outbox, State.sentEntries]
  rw [abandonTransmission_eq, abandonTransmission_eq, ← State.sentEntries, ← State.sentEntries, same]
  exact { h with
    off := { h.off with transit := congrArg (List.map (TransitEntry.losing s.sentEntries)) h.off.transit }
    outbox := congrArg (fun o : Outbox => { o with tx := .idle }) h.outbox }

/-- What PORT-RESET LINE leaves once its RESULT is queued: `x` is the part before its FIFO and its profile go. -/
theorem resetLine_spec (s : State) (eight : s.carousels.length = 8) :
    ∃ x, (State.abandonTransmission { s with line := { s.line with drive := true } }).Halts (fun _ => True) x ∧
      s.resetLine = State.awaitLineProfile
        (State.losing { x with outbox := { x.outbox with fifo := [] } } (s.outbox.fifo.map OutFrame.entry)) ∧
      (∀ c < 8, x.slot c = none) ∧
      ∀ c < 8, s.lineHeld = false ∨ (s.slot c).isSome = true → x.heldCar c (s.car c) := by
  obtain ⟨start, taken, same⟩ := setDrive_on s eight
  have given_up := start.abandoned
  obtain ⟨x, emptied, is⟩ : ∃ x, _ = x ∧ s.resetLine = State.awaitLineProfile (State.emptyFifo x) := ⟨_, rfl, rfl⟩
  generalize s.setDrive true = v at taken same given_up emptied
  have base := abandonTransmission_eq { s with line := { s.line with drive := true } }
  have length : v.abandonTransmission.carousels.length = 8 := by
    rw [given_up.length, base]
    exact eight
  have held : v.abandonTransmission.lineHeld = true := by
    rw [lineHeld_congr given_up.line, base]
    rfl
  obtain ⟨halts, slots, owners, keeps⟩ := emptySlots_spec v.abandonTransmission held length x emptied
  have all := given_up.trans halts
  refine ⟨x, all, ?_, slots, fun c c8 reached => ?_⟩
  · have frames : x.outbox.fifo = s.outbox.fifo := by
      rw [all.outbox, base]
      rfl
    rw [is, ← frames]
    exact congrArg State.awaitLineProfile (reportsLost_eq ..)
  · by_cases clear : s.lineHeld = false
    · refine keeps c _ ?_
      rw [abandonTransmission_eq]
      exact taken clear c c8
    · rw [same (Bool.eq_true_of_not_eq_false clear), base] at owners
      exact owners c c8 (reached.resolve_left clear)

/-- Settles O36: the RESULT changes the link port alone, and `resetLine_spec` says what the reset leaves. -/
theorem linePortResets : Obligations.LinePortResets := by
  intro s f bounded asked u lost
  have row : exec .portResetLine s = .next (s.takeRequest.answer f (.done [])).resetLine.settle := by
    show execPortResetLine s = _
    unfold execPortResetLine
    rw [show s.headRequest = some (f, some (.portReset .line)) from asked]
  have answered := answer_frame s.takeRequest f (.done []) false
  obtain ⟨x, halts, reset, slots, cars⟩ := resetLine_spec (s.takeRequest.answer f (.done []))
    (by rw [answered]; exact bounded.eight.1)
  have is : u = _ := reset
  rw [abandonTransmission_eq] at halts
  have tail : (s.takeRequest.answer f (.done [])).link.tx <+: u.link.tx := is ▸ halts.tail
  rw [answered] at halts is cars
  have off := halts.off
  have line : x.line = { s.line with drive := true } := halts.line
  refine ⟨row, tail, ?_⟩
  rw [is]
  refine ⟨?_, rfl, slots, ?_, ?_, cars, off.articles, off.balances, off.filter, off.putAway, off.lanes, off.target,
    off.discrepancies, off.counts, off.pending⟩
  · unfold State.awaitLineProfile State.losing
    dsimp only
    rw [line]
  · show x.outbox.tx = _
    rw [halts.outbox]
    rfl
  · show x.consolidation.transit.map _ = _
    rw [off.transit]
    show (s.consolidation.transit.map (TransitEntry.losing s.sentEntries)).map _ = _
    rw [List.map_map]
    refine List.map_congr_left fun e _ => ?_
    exact (losing_append s.sentEntries (s.outbox.fifo.map OutFrame.entry) e).trans (losing_comm ..)

end Sys2Proof.Machine
end
